-- ==== Sys2Proof/Word.lean ====
section
/-!
DEFINITION. The byte, the text and the strap words of the Notava 2480, and the character codes the rules name.
-/
namespace Sys2Proof

/-- One byte of the TP port, of a text, or the data of one Desk Line character. -/
abbrev Byte := BitVec 8

/-- A run of characters, one byte each (R13, R31). -/
abbrev Text := List Byte

/-- The station-number strap STN0 to STN4 (10.1). -/
abbrev Station := BitVec 5

/-- The line-rate strap RATE0 to RATE1 (10.1). -/
abbrev Rate := BitVec 2

/-- The blank character (R13). -/
def blank : Byte := 0x20

/-- The minus sign, code 0x2D (R77). -/
def minus : Byte := 0x2D

/-- The decimal point. -/
def point : Byte := 0x2E

/-- The asterisk that fills an OVERFLOW (R94) and is its canonical text (R95). -/
def star : Byte := 0x2A

end Sys2Proof
end

