-- ==== Sys2Proof/Syntax.lean ====
section
/-!
DEFINITION. The commands of the 2480: one constructor for each row of spec/opcode_table.json. A row is one whole,
indivisible step (spec/95_what_each_step_holds.md): an order of the terminal processor with its frame, a key that
the Key Engine takes, the completion of an operation that takes time, or an event at a pin or of a timer.
-/
namespace Sys2Proof

/-- A command of the block.

Orders carry their argument bytes in the order R194 clocks them, then their data bytes; a read order carries in
`n` how many bytes are wholly clocked after the last argument byte (after the order code where it has none), and an
order with neither data nor a reply carries in `ignored` how many bytes R179 ignores after its arguments, none where
it is left out.
A key row carries no operand: the key it names must stand at the head of the key queue, as R70 takes it. A row
that applies a received frame carries none either: the frame stands in the hand-off holding place (R160). -/
inductive Instr where
  /-- R179: SELN falls. -/
  | frameOpen
  /-- R181: SELN rises on an unfinished frame. `bytes` are the bytes wholly clocked, the order code first;
  `part` says that further SCLK edges were clocked. -/
  | frameAbandoned (bytes : List Byte) (part : Bool)
  /-- R182: a whole frame whose order code is not in the order table. -/
  | unknownOrderCode (code : Byte) (bytes : List Byte)
  /-- R185 -/
  | statusRead (n : Nat)
  /-- R187 -/
  | causeRead (n : Nat)
  /-- R188: bit k - 1 enables cause k. -/
  | causeEnable (set : Byte) (ignored : Nat := 0)
  /-- R120: bit 0 display on, bit 1 cursor blink. -/
  | displaySet (opts : Byte) (ignored : Nat := 0)
  /-- R155: bit 0 loopback on. -/
  | loopbackSet (opts : Byte) (ignored : Nat := 0)
  /-- R189 -/
  | softReset (ignored : Nat := 0)
  /-- R23 -/
  | formBegin (h w d : Byte) (ignored : Nat := 0)
  /-- R25 -/
  | fieldDefine (number row col length kind decimals form attrs sumCol tag : Byte) (ignored : Nat := 0)
  /-- R27 -/
  | fieldDrop (number : Byte) (ignored : Nat := 0)
  /-- R26 -/
  | columnDefine (number col length kind decimals form attrs opA opB : Byte) (ignored : Nat := 0)
  /-- R27 -/
  | columnDrop (number : Byte) (ignored : Nat := 0)
  /-- R29 -/
  | labelWrite (plane r0 c0 r1 c1 direction format : Byte) (data : List Byte)
  /-- R28 -/
  | formEnd (ignored : Nat := 0)
  /-- R33 -/
  | fieldWrite (field mode start format : Byte) (data : List Byte)
  /-- R35 -/
  | cellWrite (line col mode start format : Byte) (data : List Byte)
  /-- R39 -/
  | streamBegin (field : Byte) (ignored : Nat := 0)
  /-- R40 -/
  | streamNext (format : Byte) (data : List Byte)
  /-- R42 -/
  | fieldRead (field : Byte) (n : Nat)
  /-- R42 -/
  | cellRead (line col : Byte) (n : Nat)
  /-- R43 -/
  | entriesClear (ignored : Nat := 0)
  /-- R44 -/
  | cursorSet (form a b : Byte) (ignored : Nat := 0)
  /-- R45 -/
  | cursorRead (n : Nat)
  /-- R46 -/
  | windowSet (t : Byte) (ignored : Nat := 0)
  /-- R68 -/
  | key (codes : List Byte)
  /-- R133 -/
  | blockRead (n : Nat)
  /-- R136: bit 0 clear-modified, bit 1 cursor Home. -/
  | release (opts : Byte) (ignored : Nat := 0)
  /-- R137 -/
  | reject (code form a b : Byte) (message : List Byte)
  /-- R170 -/
  | passSend (dest format : Byte) (data : List Byte)
  /-- R170 -/
  | bannerSend (format : Byte) (data : List Byte)
  /-- R174 -/
  | passRead (n : Nat)
  /-- R157: DESK READ with selector 0. -/
  | deskReadLinkStatus (n : Nat)
  /-- R166: DESK READ with a selector other than 0. -/
  | deskReadTagReport (sel : Byte) (n : Nat)
  /-- R74, R77 -/
  | dataKey
  /-- R57 -/
  | tab
  /-- R58 -/
  | backtab
  /-- R60 -/
  | home
  /-- R59 -/
  | newline
  /-- R53 -/
  | left
  /-- R53 -/
  | right
  /-- R55 -/
  | up
  /-- R54 -/
  | down
  /-- R61 -/
  | pageForward
  /-- R61 -/
  | pageBack
  /-- R79 -/
  | backspace
  /-- R80 -/
  | delete
  /-- R81 -/
  | insert
  /-- R80 -/
  | clearToEnd
  /-- R82 -/
  | clearAll
  /-- R83 -/
  | repeatAbove
  /-- R63 -/
  | lineInsert
  /-- R64 -/
  | lineDelete
  /-- R88 -/
  | reset
  /-- R124 -/
  | send
  /-- R127 -/
  | signalKey
  /-- R131, R132 -/
  | assemblyComplete
  /-- R110 -/
  | renderComplete
  /-- R89 -/
  | alarmTimerExpiry
  /-- R189 -/
  | powerOn
  /-- R189 -/
  | resetnAsserted
  /-- R190: the rising edge of RESETN, with the strap levels at that moment. -/
  | resetnReleased (stn : Station) (rate : Rate)
  /-- R190: the supply is steady, with the strap levels at that moment. -/
  | supplySteady (stn : Station) (rate : Rate)
  /-- R190 -/
  | startUpComplete
  /-- R141: the character whose stop bit has been sampled. -/
  | characterReceived (data : Byte) (mark framing : Bool)
  /-- R142 -/
  | breakDetected
  /-- R141 -/
  | receiveListenComplete
  /-- R147 -/
  | gapTimerExpiry
  /-- R146 -/
  | frameAssemblerCharacter
  /-- R163 -/
  | greet
  /-- R161 -/
  | tally
  /-- R162 -/
  | retract
  /-- R177 -/
  | banner
  /-- R173 -/
  | pass
  /-- R176 -/
  | pause
  /-- R176 -/
  | resume
  /-- R158 -/
  | joinListenComplete
  /-- R150 -/
  | accessGapReached
  /-- R151 -/
  | frameSent
  /-- R152 -/
  | collision
  /-- R152 -/
  | backoffComplete
  /-- R153 -/
  | yieldComplete
  /-- R165 -/
  | deskTick
  /-- R165: the entry of one tag and source reaches age 30. -/
  | contributionAgeOut (tag source : Nat)
  /-- R168 -/
  | refresh
  /-- R176: the hold timer of one paused station reaches 0. -/
  | holdTimerExpiry (station : Nat)
  /-- R177 -/
  | bannerExpiry
  /-- R147 -/
  | startBit
  /-- R142 -/
  | lineHighAfterBreak
  deriving DecidableEq, Repr

end Sys2Proof
end

