-- ==== Sys2Proof/Machine/State.lean ====
section
/-!
DEFINITION. The state of the 2480 as plain data, block by block as 00_scope.md draws them, the outcomes a frame
records, and the machine after reset. What one piece of state determines wholly is not stored twice: the number of
footer rows (R2), the state of a line (R17), the three level causes (R186), ATTN (R188), DDE (R151), the number of
items, keys, characters, frames and bytes in a queue, and the current field instance (R49) are functions of this
state (notes/assumptions/2.md).
-/
namespace Sys2Proof.Machine

/-! ## The form -/

/-- The kinds of field and column (R6, R9), in the order of their codes 1 to 8 (R193). -/
inductive Kind where
  | text | digits | number | display | columnSum | deskSum | product | ordinal
  deriving DecidableEq, Repr

/-- Entry behaviour (R6). -/
structure Opts where
  mandatory : Bool
  mustFill : Bool
  autoAdvance : Bool
  zeroFill : Bool
  upperFold : Bool
  deriving DecidableEq, Repr

/-- Rendering attributes of a field or column (R6). -/
structure Attrs where
  bright : Bool
  inverse : Bool
  underline : Bool
  hidden : Bool
  blink : Bool
  deriving DecidableEq, Repr

/-- What a screen field record and a body column record have in common (R6, R9). -/
structure Shape where
  length : Nat
  kind : Kind
  decimals : Nat
  signed : Bool
  opts : Opts
  attrs : Attrs
  deriving DecidableEq, Repr

/-- A screen field record without its value (R6). `sumCol` and `tag` are 0 where the kind has none. -/
structure FieldDef where
  number : Nat
  row : Nat
  col : Nat
  shape : Shape
  sumCol : Nat
  tag : Nat
  deriving DecidableEq, Repr

/-- A body column record (R9). The operands are 0 where the kind has none. -/
structure ColumnDef where
  number : Nat
  col : Nat
  shape : Shape
  opA : Nat
  opB : Nat
  deriving DecidableEq, Repr

/-- The value of an instance: a text (R13) or one of the three numeric forms (R14), the number as its scaled value. -/
inductive Value where
  | text (t : Text)
  | absent
  | number (scaled : Int)
  | overflow
  deriving DecidableEq, Repr

/-- The content of one instance, under the number of its field or column: value and modified flag (R6, R16, R18). -/
structure InstVal where
  key : Nat
  value : Value
  modified : Bool
  deriving DecidableEq, Repr

/-- One line record (R16). Its state, EMPTY or ENTERED, is the function of its values that R17 gives. -/
structure LineRec where
  cells : List InstVal
  modified : Bool
  deriving DecidableEq, Repr

/-- R5. -/
inductive FormState where
  | empty | define | active
  deriving DecidableEq, Repr

/-- The Form Store (R2, R3, R5, R6, R9, R16, R20). The two planes are cell memories (see `Ops.cellRead`); the values
and lines exist in ACTIVE only and are empty lists otherwise. -/
structure FormStore where
  state : FormState
  h : Nat
  w : Nat
  d : Nat
  fields : List FieldDef
  cols : List ColumnDef
  screenPlane : List (Nat × Byte)
  linePlane : List (Nat × Byte)
  vals : List InstVal
  lines : List LineRec
  deriving DecidableEq, Repr

/-- The Cursor Engine (R47, R48): cursor row and column, and the window top T. -/
structure CursorEngine where
  row : Nat
  col : Nat
  top : Nat
  deriving DecidableEq, Repr

/-- A field instance (R12): a screen field by its number, or a line and the number of a body column. -/
inductive Inst where
  | field (n : Nat)
  | cell (line col : Nat)
  deriving DecidableEq, Repr

/-! ## The Key Engine -/

/-- R69. -/
inductive Keyboard where
  | system | free | error | locked
  deriving DecidableEq, Repr

/-- The operator errors E01 to E08 and E10 (R87). -/
inductive OpError where
  | protectedCell | notValidHere | fieldFull | tooLarge | mustFill | mandatoryEmpty | lineGroupFull | blockTooLarge
  | notInBody
  deriving DecidableEq, Repr

/-- What stands behind the ERROR state: an operator error (R87) or a REJECT with its code and message (R137). -/
inductive ErrorRec where
  | op (e : OpError)
  | reject (code : Nat) (message : Text)
  deriving DecidableEq, Repr

/-- The pending edit: its instance and the edit buffer (R71). -/
structure Edit where
  inst : Inst
  buf : Text
  deriving DecidableEq, Repr

/-- The Key Engine (R68, R69, R71, R81, R87, R89). `alarm` is the ALARM output, high while the alarm timer runs. -/
structure KeyEngine where
  queue : List Byte
  keyboard : Keyboard
  insertMode : Bool
  edit : Option Edit
  lastError : Option ErrorRec
  typeaheadLost : Bool
  alarm : Bool
  deriving DecidableEq, Repr

/-! ## The Composer -/

/-- The attribute set of a screen cell (R108); hidden is not a cell attribute. -/
structure CellAttrs where
  bright : Bool
  inverse : Bool
  underline : Bool
  blink : Bool
  deriving DecidableEq, Repr

/-- One cell of the screen image (R108). -/
structure Cell where
  code : Byte
  attrs : CellAttrs
  deriving DecidableEq, Repr

/-- The kinds of repaint item (R109). -/
inductive Item where
  | clear
  | labels
  | field (n : Nat)
  | bodyRow (r : Nat)
  | status
  deriving DecidableEq, Repr

/-- The Composer (R108 to R111, R120). `image` is a cell memory over the keys 80 * row + column; `rendering` says
that the item at the head of the list is being rendered, `remark` is that item's re-render mark. -/
structure Composer where
  image : List (Nat × Cell)
  items : List Item
  rendering : Bool
  remark : Bool
  displayOn : Bool
  cursorBlink : Bool
  deriving DecidableEq, Repr

/-! ## The Send Assembler -/

/-- R123. -/
inductive SendState where
  | none | assembling | ready
  deriving DecidableEq, Repr

/-- What is recorded when an assembly begins: the key code and the cursor (R126, R127). -/
structure SendRec where
  code : Byte
  row : Nat
  col : Nat
  line : Option Nat
  deriving DecidableEq, Repr

/-- The Send Assembler (R123, R126, R133). -/
structure SendAssembler where
  state : SendState
  record : Option SendRec
  block : List Byte
  readPos : Nat
  deriving DecidableEq, Repr

/-! ## The Desk Line Unit -/

/-- A character in the receive FIFO (R143). -/
structure RxChar where
  data : Byte
  mark : Bool
  framing : Bool
  late : Bool
  deriving DecidableEq, Repr

/-- The kinds of frame, in the order of their codes 1 to 7 (R144). -/
inductive FrameKind where
  | greet | tally | retract | banner | pass | pause | resume
  deriving DecidableEq, Repr

/-- A frame: destination, source, kind and payload (R144). -/
structure Frame where
  dest : Byte
  source : Byte
  kind : FrameKind
  payload : List Byte
  deriving DecidableEq, Repr

/-- The states of the frame assembler (8.3). -/
inductive RxState where
  | hunt | accept | skip
  deriving DecidableEq, Repr

/-- The states of the transmitter (8.4). -/
inductive TxState where
  | idle | defer | send | backoff | yield
  deriving DecidableEq, Repr

/-- The place a selection names (R149): the GREET flag, the flow announcement, the pending announcement of a tag, or
the frame at a position of the message queue. -/
inductive Place where
  | greet
  | flow
  | tag (t : Nat)
  | message (i : Nat)
  deriving DecidableEq, Repr

/-- The sticky link flags (R157). -/
structure LinkFlags where
  framing : Bool
  brk : Bool
  overrun : Bool
  check : Bool
  timeout : Bool
  length : Bool
  clash : Bool
  dropped : Bool
  deriving DecidableEq, Repr

/-- The Desk Line Unit (R139 to R159). `rxOpen` says that the receive listen has completed (R141), `sampling` that a
character is being sampled, `breakHold` that a break still holds the line low (R142), `gapRunning` that the gap timer
runs and `gapRecorded` that the next character is late (R147), `joined` that the join listen has completed (R158).
`need` is the number of bit times of line-high that the count in progress must reach (R150, R152, R153), 0 with none
in progress. `taken` is the taken mark of the selected place (R172). `frame` is the frame being sent and `looped` how
many of its characters have come round the loopback path (R156). `held` is a held change of link mode (R155). -/
structure DeskLineUnit where
  station : Station
  rate : Rate
  listenOnly : Bool
  fifo : List RxChar
  rxState : RxState
  buffer : List Byte
  handoff : Option Frame
  rxOpen : Bool
  sampling : Bool
  breakHold : Bool
  gapRunning : Bool
  gapRecorded : Bool
  joined : Bool
  tx : TxState
  need : Nat
  selection : Option Place
  taken : Bool
  attempts : Nat
  frame : Option Frame
  looped : Nat
  flags : LinkFlags
  lastDropped : Option FrameKind
  loopback : Bool
  held : Option Bool
  deriving DecidableEq, Repr

/-! ## The Desk Exchange -/

/-- A share of a desk total: a value at reckoning scale, or OVERFLOW (R100, R164). -/
inductive Share where
  | value (v : Int)
  | overflow
  deriving DecidableEq, Repr

/-- A non-empty entry of the contribution table: share and age in ticks (R164). -/
structure Entry where
  share : Share
  age : Nat
  deriving DecidableEq, Repr

/-- A pending announcement (R167). -/
inductive Announce where
  | tally | retract
  deriving DecidableEq, Repr

/-- A flow announcement (R169). -/
inductive Flow where
  | pause | resume
  deriving DecidableEq, Repr

/-- A frame of the message queue (R170). -/
inductive OutMsg where
  | pass (dest : Byte) (text : Text)
  | banner (text : Text)
  deriving DecidableEq, Repr

/-- A record of the inbound queue (R173). -/
structure InMsg where
  source : Byte
  text : Text
  deriving DecidableEq, Repr

/-- A banner that is not empty, with its age in ticks (R177). -/
structure Banner where
  text : Text
  age : Nat
  deriving DecidableEq, Repr

/-- The Desk Exchange (R164 to R177). `table` lists the non-empty entries under the keys 32 * tag + source, `active`
the tags of the active-tag set with their local contributions, `tallies` the tally set by tag, `paused` the
paused-station set with its hold timers, each by ascending key. -/
structure DeskExchange where
  table : List (Nat × Entry)
  active : List (Nat × Share)
  tallies : List (Nat × Announce)
  greet : Bool
  flow : Option Flow
  messages : List OutMsg
  inbound : List InMsg
  inboundLost : Bool
  pauseSent : Bool
  paused : List (Nat × Nat)
  banner : Option Banner
  refresh : Nat
  deriving DecidableEq, Repr

/-! ## The TP Port -/

/-- R190. -/
inductive Phase where
  | starting | ready
  deriving DecidableEq, Repr

/-- The frame decoder (10.2). Between two commands it rests in IDLE or, after FRAME_OPEN, in CODE: an order is one
command from its order code to SELN rising. -/
inductive Decoder where
  | idle | code | arguments | body | ignore
  deriving DecidableEq, Repr

/-- The last order outcome (R183), in the order of its codes 0 to 8 (R196). -/
inductive OrderOutcome where
  | none | done | refusedState | refusedBusy | badArgument | badValue | full | unknown | abandoned
  deriving DecidableEq, Repr

/-- A stream: the pointed screen field, and whether the region of the stream is the header (R39). -/
structure Stream where
  field : Nat
  header : Bool
  deriving DecidableEq, Repr

/-- The four edge causes (R186); the level causes follow from the state that holds their condition. -/
structure EdgeCauses where
  keyError : Bool
  started : Bool
  deskChange : Bool
  space : Bool
  deriving DecidableEq, Repr

/-- The TP Port and start-up (R179 to R192). `awaitHigh` says that the decoder waits for SELN high (R191), `enable`
is the cause enable set in the bits of R194, `sdo` holds the bytes SDO drove in the last frame closed, the one of
the order code first. `resetnLow` is the level of RESETN, `supplySteady` and `clearing` the progress of STARTING. -/
structure TpPort where
  phase : Phase
  resetnLow : Bool
  supplySteady : Bool
  clearing : Bool
  decoder : Decoder
  awaitHigh : Bool
  outcome : OrderOutcome
  edge : EdgeCauses
  enable : Byte
  stream : Option Stream
  sdo : List Byte
  deriving DecidableEq, Repr

/-- The whole machine. `pending` is the model's own: the commands that wait, first in, first out. -/
structure State where
  pending : List Instr
  tp : TpPort
  form : FormStore
  cur : CursorEngine
  key : KeyEngine
  comp : Composer
  send : SendAssembler
  line : DeskLineUnit
  desk : DeskExchange
  deriving DecidableEq, Repr

/-- Why a command faults. There is no constructor: the spec gives every command an effect in every state, so no
meaning ends in a fault (safe: nothing is stopped). -/
inductive Fault where
  deriving DecidableEq, Repr

/-- Why a command is refused. -/
inductive Refusal where
  /-- Raised by an arm of `exec` whose command has no meaning yet, and by nothing else (safe: the run stops). -/
  | notModelled (mnemonic : String)
  deriving DecidableEq, Repr

/-! ## After reset -/

/-- R21. -/
def FormStore.afterReset : FormStore where
  state := .empty
  h := 0
  w := 0
  d := 0
  fields := []
  cols := []
  screenPlane := []
  linePlane := []
  vals := []
  lines := []

/-- R66. -/
def CursorEngine.afterReset : CursorEngine where
  row := 0
  col := 0
  top := 0

/-- R90. -/
def KeyEngine.afterReset : KeyEngine where
  queue := []
  keyboard := .system
  insertMode := false
  edit := none
  lastError := none
  typeaheadLost := false
  alarm := false

/-- R121. -/
def Composer.afterReset : Composer where
  image := []
  items := []
  rendering := false
  remark := false
  displayOn := false
  cursorBlink := false

/-- R138. -/
def SendAssembler.afterReset : SendAssembler where
  state := .none
  record := none
  block := []
  readPos := 0

/-- R157: every link flag clear. -/
def LinkFlags.clear : LinkFlags where
  framing := false
  brk := false
  overrun := false
  check := false
  timeout := false
  length := false
  clash := false
  dropped := false

/-- R159, with the straps and the listen-only flag that stand after the reset. -/
def DeskLineUnit.afterReset (station : Station) (rate : Rate) (listenOnly : Bool) : DeskLineUnit where
  station := station
  rate := rate
  listenOnly := listenOnly
  fifo := []
  rxState := .hunt
  buffer := []
  handoff := none
  rxOpen := false
  sampling := false
  breakHold := false
  gapRunning := false
  gapRecorded := false
  joined := false
  tx := .idle
  need := 0
  selection := none
  taken := false
  attempts := 0
  frame := none
  looped := 0
  flags := LinkFlags.clear
  lastDropped := none
  loopback := false
  held := none

/-- R178. -/
def DeskExchange.afterReset : DeskExchange where
  table := []
  active := []
  tallies := []
  greet := true
  flow := none
  messages := []
  inbound := []
  inboundLost := false
  pauseSent := false
  paused := []
  banner := none
  refresh := 0

/-- R186: no edge cause pending. -/
def EdgeCauses.clear : EdgeCauses where
  keyError := false
  started := false
  deskChange := false
  space := false

/-- R192, with what the reset that came leaves of start-up: the level of RESETN, whether the supply is steady,
whether the clearing has begun, and whether the decoder waits for SELN high. -/
def TpPort.afterReset (resetnLow supplySteady clearing awaitHigh : Bool) : TpPort where
  phase := .starting
  resetnLow := resetnLow
  supplySteady := supplySteady
  clearing := clearing
  decoder := .idle
  awaitHigh := awaitHigh
  outcome := .none
  edge := EdgeCauses.clear
  enable := 0x7F
  stream := none
  sdo := []

/-- The machine right after power-on, before the supply is steady and the straps are sampled. The station number and
the line rate are not used before they are sampled (R159); 0 stands for both (notes/assumptions/1.md). -/
def State.reset : State where
  pending := []
  tp := TpPort.afterReset false false false true
  form := FormStore.afterReset
  cur := CursorEngine.afterReset
  key := KeyEngine.afterReset
  comp := Composer.afterReset
  send := SendAssembler.afterReset
  line := DeskLineUnit.afterReset 0 0 false
  desk := DeskExchange.afterReset

end Sys2Proof.Machine
end

