-- ==== Sys2Proof/Machine/Limits.lean ====
section
/-!
DEFINITION. The numbers the rules fix: capacities, thresholds and counts of bit times and desk ticks.
-/
namespace Sys2Proof.Machine

/-- Rows of the form area (R1). -/
def formRows : Nat := 24
/-- Columns of the screen (R1, R108). -/
def screenCols : Nat := 80
/-- The status row (R1). -/
def statusRowNo : Nat := 24
/-- Most header rows (R2). -/
def maxHeader : Nat := 23
/-- Most window rows (R2). -/
def maxWindow : Nat := 16
/-- Most lines of the line group (R3). -/
def maxDepth : Nat := 48
/-- Screen field records the table holds (R6). -/
def maxFields : Nat := 96
/-- Body column records the table holds (R9). -/
def maxColumns : Nat := 12
/-- Most decimals (R6). -/
def maxDecimals : Nat := 4
/-- Greatest length of a numeric field (R8). -/
def maxNumeric : Nat := 15
/-- The reckoning scale is ten-thousandths (R91). -/
def reckoningScale : Nat := 4
/-- Key codes the key queue holds (R68). -/
def keyQueueSize : Nat := 16
/-- Bytes a send block holds (R131). -/
def blockSize : Nat := 2048
/-- Characters of a REJECT message (R137). -/
def rejectMessageSize : Nat := 30
/-- Columns of the error text on the status row (R116). -/
def errorTextCols : Nat := 19
/-- Characters the receive FIFO holds (R143). -/
def fifoSize : Nat := 16
/-- Greatest length the frame assembler goes on with (R146). -/
def maxLengthByte : Nat := 72
/-- Destination 31 addresses all stations (R144). -/
def allStations : Byte := 31
/-- Stations 0 to 29 take part; 30 and 31 listen only (R154). -/
def firstListenOnly : Nat := 30
/-- Collisions after which a frame is dropped (R152). -/
def dropAttempts : Nat := 6
/-- The access gap of station `n` in bit times (R150). -/
def accessGap (n : Nat) : Nat := 33 + n
/-- The backoff of station `n` after collision `k` in bit times (R152). -/
def backoffTime (k n : Nat) : Nat := k * 8 + n
/-- The yield in bit times (R153). -/
def yieldTime : Nat := 32
/-- Ticks at which a contribution is emptied (R165). -/
def entryLife : Nat := 30
/-- Ticks between two refreshes (R168). -/
def refreshPeriod : Nat := 8
/-- The hold timer a PAUSE sets, in ticks (R176). -/
def holdTime : Nat := 2
/-- Ticks at which a banner is emptied (R177). -/
def bannerLife : Nat := 60
/-- Frames the message queue holds (R170). -/
def messageQueueSize : Nat := 6
/-- Characters of a passed message (R170). -/
def maxPassText : Nat := 64
/-- Characters of a banner (R170). -/
def maxBannerText : Nat := 40
/-- Bytes the inbound queue holds (R173). -/
def inboundSize : Nat := 512
/-- Fill at which PAUSE is placed (R175). -/
def pauseFill : Nat := 384
/-- Fill at which RESUME is placed (R175). -/
def resumeFill : Nat := 128
/-- Magnitude from which a local contribution is announced as OVERFLOW (R100). -/
def tallyRange : Nat := 10 ^ 20

end Sys2Proof.Machine
end

