-- ==== Sys2Proof/Machine/Ops.lean ====
section
/-!
DEFINITION. The operations every meaning shares: keyed lists and cell memories, repaint requests, ALARM and the edge
causes, placing announcements, and the two things that happen by themselves at the end of a command: a render begins
(R110) and an idle transmitter asks the arbiter (R149).
-/
namespace Sys2Proof.Machine

/-- The outcome of a command of the block. -/
abbrev Out := Host.Outcome State Fault Refusal

/-! ## Keyed lists: ascending keys, one entry a key -/

/-- The entry under key `k`. -/
def assocGet {α : Type} : List (Nat × α) → Nat → Option α
  | [], _ => none
  | (j, v) :: m, k => if j = k then some v else assocGet m k

/-- The list with `v` under key `k`. -/
def assocPut {α : Type} : List (Nat × α) → Nat → α → List (Nat × α)
  | [], k, v => [(k, v)]
  | (j, w) :: m, k, v =>
    if k < j then (k, v) :: (j, w) :: m
    else if k = j then (k, v) :: m
    else (j, w) :: assocPut m k v

/-- The list without key `k`. -/
def assocDel {α : Type} : List (Nat × α) → Nat → List (Nat × α)
  | [], _ => []
  | (j, v) :: m, k => if j = k then m else (j, v) :: assocDel m k

/-- Every key of the list is above `b` and the keys rise strictly. -/
def assocAbove {α : Type} : Nat → List (Nat × α) → Bool
  | _, [] => true
  | b, (j, _) :: m => decide (b < j) && assocAbove j m

/-- The canonical form of a keyed list: its keys rise strictly. -/
def assocWf {α : Type} : List (Nat × α) → Bool
  | [] => true
  | (j, _) :: m => assocAbove j m

/-! ## Cell memories: a keyed list that lists no cell equal to what an unlisted cell reads as -/

/-- What the cell at `k` reads as, `dflt` where it is not listed. -/
def cellRead {α : Type} (dflt : α) (m : List (Nat × α)) (k : Nat) : α := (assocGet m k).getD dflt

/-- The memory with `v` in the cell at `k`. -/
def cellWrite {α : Type} [DecidableEq α] (dflt : α) (m : List (Nat × α)) (k : Nat) (v : α) : List (Nat × α) :=
  if v = dflt then assocDel m k else assocPut m k v

/-- The memory with a run of cells written from `k` on. -/
def cellWriteRun {α : Type} [DecidableEq α] (dflt : α) (m : List (Nat × α)) (k : Nat) : List α → List (Nat × α)
  | [] => m
  | v :: vs => cellWriteRun dflt (cellWrite dflt m k v) (k + 1) vs

/-- The canonical form of a cell memory. -/
def cellWf {α : Type} [DecidableEq α] (dflt : α) (m : List (Nat × α)) : Bool :=
  assocWf m && m.all (fun p => decide (p.2 ≠ dflt))

/-- No attribute (R108). -/
def noAttrs : CellAttrs := ⟨false, false, false, false⟩

/-- A blank cell of the screen image (R108). -/
def blankCell : Cell := ⟨blank, noAttrs⟩

/-- The key of the cell at a row and column. -/
def cellKey (r c : Nat) : Nat := screenCols * r + c

/-! ## Lists -/

/-- The list with `f` applied to its element at position `i`. -/
def updAt {α : Type} : List α → Nat → (α → α) → List α
  | [], _, _ => []
  | x :: xs, 0, f => f x :: xs
  | x :: xs, i + 1, f => x :: updAt xs i f

/-- The list without its element at position `i`. -/
def dropAt {α : Type} : List α → Nat → List α
  | [], _ => []
  | _ :: xs, 0 => xs
  | x :: xs, i + 1 => x :: dropAt xs i

/-- The texts padded with `x` on the right, or cut, to `n` characters. -/
def padRight (n : Nat) (x : Byte) (t : Text) : Text := (t ++ List.replicate n x).take n

/-- The text padded with `x` on the left to `n` characters; a longer text keeps its last `n`. -/
def padLeft (n : Nat) (x : Byte) (t : Text) : Text := List.replicate (n - t.length) x ++ t.drop (t.length - n)

/-! ## The repaint list -/

/-- A request for a repaint item (R109, R110): an item not in the list joins its tail, the item being rendered takes
the re-render mark, any other item keeps its place. -/
def requestIn (c : Composer) (i : Item) : Composer :=
  if c.rendering = true ∧ c.items.head? = some i then { c with remark := true }
  else if i ∈ c.items then c
  else { c with items := c.items ++ [i] }

/-- `requestIn` on the machine. -/
def request (i : Item) (s : State) : State := { s with comp := requestIn s.comp i }

/-- Requests in the order given. -/
def requestAll : List Item → State → State
  | [], s => s
  | i :: is, s => requestAll is (request i s)

/-- BODY ROW for every window row, from the top window row down (R50). -/
def allBodyRows (f : FormStore) : List Item := (List.range f.w).map (fun k => Item.bodyRow (f.h + k))

/-! ## ALARM, edge causes, operator errors -/

/-- An alarm event starts or restarts the alarm timer (R89). -/
def pulseAlarm (s : State) : State := { s with key := { s.key with alarm := true } }

/-- Raises KEY ERROR (R186). -/
def raiseKeyError (s : State) : State := { s with tp := { s.tp with edge := { s.tp.edge with keyError := true } } }

/-- Raises STARTED (R190). -/
def raiseStarted (s : State) : State := { s with tp := { s.tp with edge := { s.tp.edge with started := true } } }

/-- Raises DESK CHANGE (R104). -/
def raiseDeskChange (s : State) : State :=
  { s with tp := { s.tp with edge := { s.tp.edge with deskChange := true } } }

/-- Raises SPACE (R170). -/
def raiseSpace (s : State) : State := { s with tp := { s.tp with edge := { s.tp.edge with space := true } } }

/-- A change of the keyboard state queues STATUS (R69). -/
def setKeyboard (k : Keyboard) (s : State) : State :=
  request .status { s with key := { s.key with keyboard := k } }

/-- An operator error (R87): ERROR with the code, ALARM, KEY ERROR, and STATUS queued. -/
def raiseError (e : OpError) (s : State) : State :=
  setKeyboard .error
    (raiseKeyError (pulseAlarm { s with key := { s.key with lastError := some (.op e) } }))

/-! ## Places of outbound frames -/

/-- The taken mark after an announcement is placed into `p`: cleared when `p` is the selected place (R172). -/
def unmark (p : Place) (l : DeskLineUnit) : DeskLineUnit :=
  if l.selection = some p then { l with taken := false } else l

/-- Places an announcement for a tag, replacing whatever was pending for it (R167). -/
def placeAnnounce (a : Announce) (t : Nat) (s : State) : State :=
  { s with desk := { s.desk with tallies := assocPut s.desk.tallies t a }, line := unmark (.tag t) s.line }

/-- A pending TALLY for every tag of a list (R163, R168). -/
def placeAll (a : Announce) : List Nat → State → State
  | [], s => s
  | t :: ts, s => placeAll a ts (placeAnnounce a t s)

/-- Places a flow announcement in the control slot, replacing the one pending there (R169). -/
def placeFlow (f : Flow) (s : State) : State :=
  { s with desk := { s.desk with flow := some f }, line := unmark .flow s.line }

/-- The tags of the active-tag set (R167). -/
def activeTags (d : DeskExchange) : List Nat := d.active.map (·.1)

/-! ## The transmit arbiter (R171) -/

/-- A PASS to a station of the paused-station set is held (R171). -/
def heldMessage (d : DeskExchange) : OutMsg → Bool
  | .pass dest _ => (assocGet d.paused dest.toNat).isSome
  | .banner _ => false

/-- The position of the first message that is not held. -/
def firstUnheld (d : DeskExchange) : Option Nat := d.messages.findIdx? (fun m => !heldMessage d m)

/-- The selection the arbiter hands over (R171), none when it has nothing to offer. -/
def arbiter (d : DeskExchange) : Option Place :=
  if d.greet then some .greet
  else if d.flow.isSome then some .flow
  else match d.tallies with
    | (t, _) :: _ => some (.tag t)
    | [] => (firstUnheld d).map Place.message

/-- The transmitter asks the arbiter and enters DEFER with the selection, or IDLE (R149, R153). -/
def askArbiter (s : State) : State :=
  match arbiter s.desk with
  | some p =>
    { s with line := { s.line with tx := .defer, need := accessGap s.line.station.toNat, selection := some p, taken := false } }
  | none => { s with line := { s.line with tx := .idle, need := 0, selection := none, taken := false } }

/-- The transmitter may ask from IDLE: start-up and the join listen have completed and the station is not
listen-only (R149, R154, R158). -/
def mayAsk (s : State) : Bool :=
  s.tp.phase = .ready && s.line.joined && !s.line.listenOnly && s.line.tx = .idle

/-! ## The end of a command -/

/-- A render begins when the list is not empty and none is in progress (R110). -/
def startRender (s : State) : State := { s with comp := { s.comp with rendering := !s.comp.items.isEmpty } }

/-- An IDLE transmitter asks when a frame is available to the arbiter (R149). -/
def idleAsk (s : State) : State := if mayAsk s then askArbiter s else s

/-- What follows every command: a render begins, an idle transmitter asks. -/
def settle (s : State) : State := idleAsk (startRender s)

/-- The outcome of a command that took place. -/
def ok (s : State) : Out := .next (settle s)

/-- The outcome of a command whose event cannot happen in the state: nothing changes (notes/assumptions/3.md). -/
def noEvent (s : State) : Out := .next s

end Sys2Proof.Machine
end

