-- ==== Sys2Proof/Machine/Operands.lean ====
section
/-!
DEFINITION. What the argument and data bytes of orders and the codes of keys stand for (R31, R67, R193, R195).
-/
namespace Sys2Proof.Machine

/-! ## Records -/

/-- The kind of a code byte (R193). -/
def kindOf (b : Byte) : Option Kind :=
  match b.toNat with
  | 1 => some .text
  | 2 => some .digits
  | 3 => some .number
  | 4 => some .display
  | 5 => some .columnSum
  | 6 => some .deskSum
  | 7 => some .product
  | 8 => some .ordinal
  | _ => none

/-- The form bits: signed and the options; bits 6 and 7 name no choice (R193). -/
def formBitsOf (b : Byte) : Option (Bool × Opts) :=
  if b.getLsbD 6 || b.getLsbD 7 then none
  else some (b.getLsbD 0, ⟨b.getLsbD 1, b.getLsbD 2, b.getLsbD 3, b.getLsbD 4, b.getLsbD 5⟩)

/-- The attributes byte; bits 5 to 7 name no choice (R193). -/
def attrsOf (b : Byte) : Option Attrs :=
  if b.getLsbD 5 || b.getLsbD 6 || b.getLsbD 7 then none
  else some ⟨b.getLsbD 0, b.getLsbD 1, b.getLsbD 2, b.getLsbD 3, b.getLsbD 4⟩

/-- The shape that the bytes of a FIELD DEFINE or COLUMN DEFINE give; none for a byte no table lists (R193). -/
def shapeOf (length kind decimals form attrs : Byte) : Option Shape :=
  match kindOf kind, formBitsOf form, attrsOf attrs with
  | some k, some (sg, os), some att =>
    some { length := length.toNat, kind := k, decimals := decimals.toNat, signed := sg, opts := os, attrs := att }
  | _, _, _ => none

/-- Entry kinds (R6, R9). -/
def isEntryKind : Kind → Bool
  | .text | .digits | .number => true
  | _ => false

/-- Kinds whose instances hold a text value (R13). -/
def isTextKind : Kind → Bool
  | .text | .digits | .display => true
  | _ => false

/-- The kinds a field instance computes for itself. -/
def isSumKind : Kind → Bool
  | .columnSum | .deskSum => true
  | _ => false

/-- Minimum length of a numeric field (R8). -/
def minLength (sh : Shape) : Nat :=
  sh.decimals + (if sh.decimals > 0 then 1 else 0) + 1 + (if sh.signed then 1 else 0)

/-- No option set. -/
def noOpts (o : Opts) : Bool := !o.mandatory && !o.mustFill && !o.autoAdvance && !o.zeroFill && !o.upperFold

/-- Length, decimals, signed and options as the kind requires (R7, R8, R9). -/
def shapeLegal (sh : Shape) : Bool :=
  match sh.kind with
  | .text =>
    1 ≤ sh.length && sh.length ≤ screenCols && sh.decimals = 0 && !sh.signed && !sh.opts.zeroFill
  | .digits =>
    1 ≤ sh.length && sh.length ≤ screenCols && sh.decimals = 0 && !sh.signed && !sh.opts.zeroFill && !sh.opts.upperFold
  | .number =>
    minLength sh ≤ sh.length && sh.length ≤ maxNumeric && sh.decimals ≤ maxDecimals
      && !(sh.opts.zeroFill && sh.signed) && !sh.opts.upperFold
  | .display =>
    1 ≤ sh.length && sh.length ≤ screenCols && sh.decimals = 0 && !sh.signed && noOpts sh.opts
  | .columnSum | .deskSum | .product =>
    minLength sh ≤ sh.length && sh.length ≤ maxNumeric && sh.decimals ≤ maxDecimals && sh.signed && noOpts sh.opts
  | .ordinal =>
    2 ≤ sh.length && sh.length ≤ screenCols && sh.decimals = 0 && !sh.signed && noOpts sh.opts

/-- A number from 1 to `hi`. -/
def oneTo (hi n : Nat) : Bool := 1 ≤ n && n ≤ hi

/-- The record of a screen field breaks no range of R6 or R7 that concerns the record alone. -/
def fieldAloneLegal (fd : FieldDef) : Bool :=
  oneTo maxFields fd.number && fd.row < formRows && fd.col < screenCols && fd.col + fd.shape.length ≤ screenCols
    && shapeLegal fd.shape
    && (match fd.shape.kind with
        | .text | .digits | .number | .display => fd.sumCol = 0 && fd.tag = 0
        | .columnSum => oneTo maxColumns fd.sumCol && fd.tag = 0
        | .deskSum => oneTo maxColumns fd.sumCol && oneTo 8 fd.tag
        | .product | .ordinal => false)

/-- The record of a body column breaks no range of R9 that concerns the record alone. -/
def columnAloneLegal (cd : ColumnDef) : Bool :=
  oneTo maxColumns cd.number && cd.col < screenCols && cd.col + cd.shape.length ≤ screenCols
    && shapeLegal cd.shape
    && (match cd.shape.kind with
        | .text | .digits | .number | .display | .ordinal => cd.opA = 0 && cd.opB = 0
        | .product =>
          oneTo maxColumns cd.opA && oneTo maxColumns cd.opB && cd.opA ≠ cd.number && cd.opB ≠ cd.number
        | .columnSum | .deskSum => false)

/-! ## Input formats -/

/-- The three input formats (R31). -/
inductive Format where
  | plain | packed | rep
  deriving DecidableEq, Repr

/-- The input format of a code byte (R193). -/
def formatOf (b : Byte) : Option Format :=
  match b.toNat with
  | 0 => some .plain
  | 1 => some .packed
  | 2 => some .rep
  | _ => none

/-- A control code is stored as a blank (R13, R31). -/
def plainChar (b : Byte) : Byte := if b.toNat < 0x20 ∨ b.toNat = 0x7F then blank else b

/-- The character of a digit 0 to 9. -/
def digitChar (n : Nat) : Byte := BitVec.ofNat 8 (0x30 + n)

/-- What one nibble of PACKED data produces; none for D and E (R31). -/
def packedNibble (n : Nat) : Option Text :=
  if n < 10 then some [digitChar n]
  else if n = 10 then some [minus]
  else if n = 11 then some [point]
  else if n = 12 then some [blank]
  else if n = 15 then some []
  else none

/-- PACKED data, high nibble first (R31). -/
def decodePacked : List Byte → Option Text
  | [] => some []
  | b :: bs =>
    match packedNibble (b.toNat / 16), packedNibble (b.toNat % 16), decodePacked bs with
    | some x, some y, some t => some (x ++ y ++ t)
    | _, _, _ => none

/-- REPEAT data, pairs of a count and a character (R31). -/
def decodeRepeat : List Byte → Option Text
  | [] => some []
  | [_] => none
  | n :: c :: bs =>
    if n.toNat = 0 then none
    else (decodeRepeat bs).map (fun t => List.replicate n.toNat (plainChar c) ++ t)

/-- The characters that data produces by its input format; none refuses the order BAD VALUE (R31). -/
def decodeData : Format → List Byte → Option Text
  | .plain, bs => some (bs.map plainChar)
  | .packed, bs => decodePacked bs
  | .rep, bs => decodeRepeat bs

/-! ## Characters -/

/-- '0' to '9'. -/
def isDigit (b : Byte) : Bool := 0x30 ≤ b.toNat && b.toNat ≤ 0x39

/-- The capital of a letter a to z; any other character is itself (R32). -/
def upper (b : Byte) : Byte := if 0x61 ≤ b.toNat ∧ b.toNat ≤ 0x7A then b - 0x20 else b

/-- Upper-fold acts on every character of a TEXT field or column that has it (R32, R74). -/
def foldChar (sh : Shape) (b : Byte) : Byte := if sh.kind = .text ∧ sh.opts.upperFold = true then upper b else b

/-- The characters a DIGITS instance takes (R32, R74). -/
def digitsAllowed (b : Byte) : Bool := isDigit b || b = blank

/-! ## Instance forms -/

/-- The instance that form 1 or 2 of CURSOR SET and REJECT names (R194). -/
def instOf (form a b : Byte) : Option Inst :=
  match form.toNat with
  | 1 => some (.field a.toNat)
  | 2 => some (.cell a.toNat b.toNat)
  | _ => none

/-! ## Keys -/

/-- The keys that are not data keys (R195). -/
inductive Key where
  | data | tab | backtab | home | newline | left | right | up | down | pageForward | pageBack
  | backspace | delete | insert | clearToEnd | clearAll | repeatAbove | lineInsert | lineDelete | reset | send | signal
  deriving DecidableEq, Repr

/-- The key of a code byte; none for an undefined code (R67, R195). -/
def keyOf (b : Byte) : Option Key :=
  if 0x20 ≤ b.toNat ∧ b.toNat ≤ 0x7E then some .data
  else if 0xC1 ≤ b.toNat ∧ b.toNat ≤ 0xCC then some .signal
  else match b.toNat with
    | 0x80 => some .tab
    | 0x81 => some .backtab
    | 0x82 => some .home
    | 0x83 => some .newline
    | 0x84 => some .left
    | 0x85 => some .right
    | 0x86 => some .up
    | 0x87 => some .down
    | 0x88 => some .pageForward
    | 0x89 => some .pageBack
    | 0x8A => some .backspace
    | 0x8B => some .delete
    | 0x8C => some .insert
    | 0x8D => some .clearToEnd
    | 0x8E => some .clearAll
    | 0x8F => some .repeatAbove
    | 0x90 => some .lineInsert
    | 0x91 => some .lineDelete
    | 0x92 => some .reset
    | 0x93 => some .send
    | _ => none

/-- The code of SEND, which the header of its block carries (R126). -/
def sendCode : Byte := 0x93

/-! ## Order codes -/

/-- The number of fixed argument bytes of the order of a code byte (R184, R194); none for an unknown code. -/
def argCount (code : Byte) : Option Nat :=
  match code.toNat with
  | 0x11 => some 0   -- STATUS READ
  | 0x12 => some 0   -- CAUSE READ
  | 0x13 => some 1   -- CAUSE ENABLE
  | 0x14 => some 1   -- DISPLAY SET
  | 0x15 => some 1   -- LOOPBACK SET
  | 0x1F => some 0   -- SOFT RESET
  | 0x21 => some 3   -- FORM BEGIN
  | 0x22 => some 10  -- FIELD DEFINE
  | 0x23 => some 1   -- FIELD DROP
  | 0x24 => some 9   -- COLUMN DEFINE
  | 0x25 => some 1   -- COLUMN DROP
  | 0x26 => some 7   -- LABEL WRITE
  | 0x27 => some 0   -- FORM END
  | 0x31 => some 4   -- FIELD WRITE
  | 0x32 => some 5   -- CELL WRITE
  | 0x33 => some 1   -- STREAM BEGIN
  | 0x34 => some 1   -- STREAM NEXT
  | 0x35 => some 1   -- FIELD READ
  | 0x36 => some 2   -- CELL READ
  | 0x37 => some 0   -- ENTRIES CLEAR
  | 0x38 => some 3   -- CURSOR SET
  | 0x39 => some 0   -- CURSOR READ
  | 0x3A => some 1   -- WINDOW SET
  | 0x41 => some 0   -- KEY
  | 0x51 => some 0   -- BLOCK READ
  | 0x52 => some 1   -- RELEASE
  | 0x53 => some 4   -- REJECT
  | 0x61 => some 2   -- PASS SEND
  | 0x62 => some 0   -- PASS READ
  | 0x63 => some 1   -- BANNER SEND
  | 0x64 => some 1   -- DESK READ
  | _ => none

end Sys2Proof.Machine
end

