-- ==== Sys2Proof/Machine/Reckoner.lean ====
section
/-!
DEFINITION. The arithmetic of chapter 5: capacity, rounding, the numerals in and out, products and sums.
-/
namespace Sys2Proof.Machine

/-- The capacity of a numeric field or column (R92). -/
def capacity (sh : Shape) : Nat :=
  sh.length - (if sh.decimals > 0 then 1 else 0) - (if sh.signed then 1 else 0)

/-- A scaled value fits a capacity (R92). -/
def fitsCap (cap : Nat) (v : Int) : Bool := v.natAbs < 10 ^ cap

/-- Division by 10^k, rounded half away from zero (R93). -/
def roundDiv (v : Int) (k : Nat) : Int :=
  let q := v.natAbs / 10 ^ k
  let r := v.natAbs % 10 ^ k
  let m : Nat := if 10 ^ k ≤ 2 * r then q + 1 else q
  if v < 0 then -(m : Int) else (m : Int)

/-- A value at one scale brought to another: exact upwards, rounded once downwards (R91, R93). -/
def rescale (v : Int) (from' to' : Nat) : Int :=
  if from' ≤ to' then v * ((10 ^ (to' - from') : Nat) : Int) else roundDiv v (from' - to')

/-- A value that does not fit is stored as OVERFLOW (R92). -/
def fitValue (sh : Shape) (v : Int) : Value := if fitsCap (capacity sh) v then .number v else .overflow

/-! ## Numerals in -/

/-- The number that digit characters spell. -/
def digitsNat : Text → Nat := List.foldl (fun n b => 10 * n + (b.toNat - 0x30)) 0

/-- An optional minus sign and the rest. -/
def splitSign : Text → Bool × Text
  | [] => (false, [])
  | b :: t => if b = minus then (true, t) else (false, b :: t)

/-- Integer digits, then nothing or a point and fraction digits: the two runs of digits (R97). -/
def splitNumeral (t : Text) : Option (Text × Text) :=
  match t.dropWhile isDigit with
  | [] => some (t.takeWhile isDigit, [])
  | b :: fr => if b = point ∧ fr.all isDigit = true then some (t.takeWhile isDigit, fr) else none

/-- The number of a sign and two runs of digits, at scale `d` (R96, R97). -/
def numeralValue (neg : Bool) (ip fp : Text) (d : Nat) : Int :=
  let n : Int := (digitsNat (ip ++ fp) : Nat)
  rescale (if neg then -n else n) fp.length d

/-- A text without its leading and trailing blanks. -/
def stripBlanks (t : Text) : Text :=
  ((t.dropWhile (fun b => b = blank)).reverse.dropWhile (fun b => b = blank)).reverse

/-- System text for a NUMBER instance (R97): none refuses the order BAD VALUE. -/
def parseSystem (sh : Shape) (t : Text) : Option Value :=
  match stripBlanks t with
  | [] => some .absent
  | c :: cs =>
    let (neg, body) := splitSign (c :: cs)
    match splitNumeral body with
    | none => none
    | some (ip, fp) =>
      if ip = [] ∧ fp = [] then none
      else if neg = true ∧ sh.signed = false then none
      else some (fitValue sh (numeralValue neg ip fp sh.decimals))

/-- Normalisation of a NUMBER edit buffer (R96). -/
def normalise (sh : Shape) (buf : Text) : Except OpError Value :=
  match buf with
  | [] => .ok .absent
  | c :: cs =>
    let (neg, body) := splitSign (c :: cs)
    match splitNumeral body with
    | none => .error .notValidHere
    | some (ip, fp) =>
      if ip = [] ∧ fp = [] then .error .notValidHere
      else
        let v := numeralValue neg ip fp sh.decimals
        if fitsCap (capacity sh) v then .ok (.number v) else .error .tooLarge

/-! ## Numerals out -/

/-- The decimal digits of a number without leading zeros, at least one; `fuel` bounds their count. -/
def decDigits : Nat → Nat → Text → Text
  | 0, _, acc => acc
  | fuel + 1, n, acc =>
    if n < 10 then digitChar n :: acc else decDigits fuel (n / 10) (digitChar (n % 10) :: acc)

/-- The decimal text of a number of at most 40 digits; no value the device holds has more (R91, R101). -/
def decText (n : Nat) : Text := decDigits 40 n []

/-- Exactly `d` decimal digits of a number, the last ones. -/
def fixedDigits : Nat → Nat → Text
  | 0, _ => []
  | d + 1, n => fixedDigits d (n / 10) ++ [digitChar (n % 10)]

/-- The numeral of a scaled value without blanks (R94, R95). -/
def numeral (d : Nat) (v : Int) : Text :=
  (if v < 0 then [minus] else [])
    ++ decText (v.natAbs / 10 ^ d)
    ++ (if d > 0 then point :: fixedDigits d v.natAbs else [])

/-- The canonical text of a value (R95); a text value is its own text. -/
def canonicalText (d : Nat) : Value → Text
  | .text t => t
  | .absent => []
  | .overflow => [star]
  | .number v => numeral d v

/-- The display text of a stored value, `length` characters (R94, R113). -/
def displayText (sh : Shape) : Value → Text
  | .text t => padRight sh.length blank t
  | .absent => List.replicate sh.length blank
  | .overflow => List.replicate sh.length star
  | .number v => padLeft sh.length (if sh.opts.zeroFill then 0x30 else blank) (numeral sh.decimals v)

/-! ## Products, sums and shares -/

/-- The product of two operand values at scales `da` and `db` in a PRODUCT column (R98). -/
def productValue (sh : Shape) (da db : Nat) (a b : Value) : Value :=
  match a, b with
  | .number x, .number y => fitValue sh (rescale (x * y) (da + db) sh.decimals)
  | .overflow, .number _ | .number _, .overflow | .overflow, .overflow => .overflow
  | _, _ => .absent

/-- A stored value of a column with `d` decimals at reckoning scale; ABSENT gives 0 (R99). -/
def valueShare (d : Nat) : Value → Share
  | .number v => .value (v * ((10 ^ (reckoningScale - d) : Nat) : Int))
  | .overflow => .overflow
  | _ => .value 0

/-- Two parts added; OVERFLOW in either is OVERFLOW in the sum (R99, R101). -/
def addShare : Share → Share → Share
  | .value a, .value b => .value (a + b)
  | _, _ => .overflow

/-- The exact sum of parts. -/
def sumShares : List Share → Share := List.foldr addShare (.value 0)

/-- A sum rounded to the field's decimals and fitted (R99, R101). -/
def shareValue (sh : Shape) : Share → Value
  | .overflow => .overflow
  | .value v => fitValue sh (rescale v reckoningScale sh.decimals)

/-! ## Value fields of frames and reports (R199) -/

/-- `2 * k` decimal digits, two a byte, most significant first. -/
def bcdBytes : Nat → Nat → List Byte
  | 0, _ => []
  | k + 1, n => bcdBytes k (n / 100) ++ [BitVec.ofNat 8 (16 * (n / 10 % 10) + n % 10)]

/-- The 11-byte value field of a share; a magnitude of 10^20 or more is sent as OVERFLOW (R100, R199). -/
def shareBytes : Share → List Byte
  | .overflow => 0x01 :: bcdBytes 10 0
  | .value v =>
    if tallyRange ≤ v.natAbs then 0x01 :: bcdBytes 10 0
    else (if v < 0 then 0x80 else 0x00) :: bcdBytes 10 v.natAbs

/-- The value field of none or empty, state 0x02 (R199). -/
def noneBytes : List Byte := 0x02 :: bcdBytes 10 0

/-- Both nibbles are decimal digits. -/
def bcdLegal (b : Byte) : Bool := b.toNat / 16 ≤ 9 && b.toNat % 16 ≤ 9

/-- The magnitude that digit bytes spell. -/
def bcdNat : List Byte → Nat := List.foldl (fun n b => 100 * n + (10 * (b.toNat / 16) + b.toNat % 16)) 0

/-- The share a received value field carries (R161, R199); none refuses the payload. -/
def shareOfBytes : List Byte → Option Share
  | [] => none
  | st :: ds =>
    if st = 0x01 then some .overflow
    else if (st = 0x00 ∨ st = 0x80) ∧ ds.all bcdLegal = true then
      some (.value (if st = 0x80 then -(bcdNat ds : Int) else (bcdNat ds : Int)))
    else none

end Sys2Proof.Machine
end

