-- ==== Sys2Proof/Machine/Geometry.lean ====
section
/-!
DEFINITION. Regions, instances and their cells, the current instance, tab stops and the Home position
(R2, R4, R12, R49, R50, R56, R60), and reading and changing the content of an instance.
-/
namespace Sys2Proof.Machine

/-! ## Regions -/

/-- Row `r` is a window row (R2). -/
def isWindowRow (f : FormStore) (r : Nat) : Bool := f.h ≤ r && r < f.h + f.w

/-- Row `r` is a header or footer row (R2). -/
def isFixedRow (f : FormStore) (r : Nat) : Bool := r < formRows && !isWindowRow f r

/-- The number of footer rows (R2). -/
def footerRows (f : FormStore) : Nat := formRows - f.h - f.w

/-- The bottom window row, where W > 0. -/
def bottomRow (f : FormStore) : Nat := f.h + f.w - 1

/-- The line shown on row `r`, none off the window (R4, R50). -/
def lineAt (f : FormStore) (top r : Nat) : Option Nat :=
  if isWindowRow f r then some (top + (r - f.h)) else none

/-- The line under the cursor (R50). -/
def cursorLine (s : State) : Option Nat := lineAt s.form s.cur.top s.cur.row

/-- Line `l` is visible (R4). -/
def lineVisible (f : FormStore) (top l : Nat) : Bool := top ≤ l && l < top + f.w

/-- The window row that shows line `l` (R4). -/
def lineRow (f : FormStore) (top l : Nat) : Option Nat :=
  if lineVisible f top l then some (f.h + (l - top)) else none

/-! ## Records -/

/-- The screen field of a number. -/
def findField (f : FormStore) (n : Nat) : Option FieldDef := f.fields.find? (fun fd => fd.number = n)

/-- The body column of a number. -/
def findCol (f : FormStore) (n : Nat) : Option ColumnDef := f.cols.find? (fun cd => cd.number = n)

/-- Two runs of cells share a cell (R10). -/
def runsMeet (c1 l1 c2 l2 : Nat) : Bool := c1 < c2 + l2 && c2 < c1 + l1

/-- The column lies in the run of `len` cells from `c`. -/
def inRun (c len x : Nat) : Bool := c ≤ x && x < c + len

/-- Screen order of two fields (R11). -/
def fieldBefore (a b : FieldDef) : Bool := a.row < b.row || (a.row = b.row && a.col < b.col)

/-- The table with a record at its place in screen order (R11). -/
def insertField (fd : FieldDef) : List FieldDef → List FieldDef
  | [] => [fd]
  | g :: gs => if fieldBefore fd g then fd :: g :: gs else g :: insertField fd gs

/-- The table with a record at its place in ascending order of col (R11). -/
def insertCol (cd : ColumnDef) : List ColumnDef → List ColumnDef
  | [] => [cd]
  | g :: gs => if cd.col < g.col then cd :: g :: gs else g :: insertCol cd gs

/-! ## Instances -/

/-- The form has the instance: a screen field of the table, or a column of the table on a line of 0 to D - 1 (R12). -/
def instExists (f : FormStore) : Inst → Bool
  | .field n => (findField f n).isSome
  | .cell l c => l < f.d && (findCol f c).isSome

/-- The shape of an instance's field or column. -/
def instShape (f : FormStore) : Inst → Option Shape
  | .field n => (findField f n).map (·.shape)
  | .cell _ c => (findCol f c).map (·.shape)

/-- Row and column of the instance's first cell, none while its line is not visible (R12). -/
def instFirst (f : FormStore) (top : Nat) : Inst → Option (Nat × Nat)
  | .field n => (findField f n).map (fun fd => (fd.row, fd.col))
  | .cell l c =>
    match lineRow f top l, findCol f c with
    | some r, some cd => some (r, cd.col)
    | _, _ => none

/-- The field instance whose cells contain the cell (R49). -/
def instAt (f : FormStore) (top r c : Nat) : Option Inst :=
  if f.state = .active then
    match lineAt f top r with
    | some l => (f.cols.find? (fun cd => inRun cd.col cd.shape.length c)).map (fun cd => Inst.cell l cd.number)
    | none => (f.fields.find? (fun fd => fd.row = r && inRun fd.col fd.shape.length c)).map (fun fd => Inst.field fd.number)
  else none

/-- The current field instance (R49). -/
def currentInst (s : State) : Option Inst := instAt s.form s.cur.top s.cur.row s.cur.col

/-- The entry instance under the cursor with its shape and its first column (R49). -/
def currentEntry (s : State) : Option (Inst × Shape × Nat) :=
  match currentInst s with
  | none => none
  | some i =>
    match instShape s.form i, instFirst s.form s.cur.top i with
    | some sh, some (_, c) => if isEntryKind sh.kind then some (i, sh, c) else none
    | _, _ => none

/-- The repaint item of an instance, none while its line is not visible (R37, R72). -/
def instItem (f : FormStore) (top : Nat) : Inst → Option Item
  | .field n => some (.field n)
  | .cell l _ => (lineRow f top l).map Item.bodyRow

/-- Queues the repaint item of an instance. -/
def requestInst (i : Inst) (s : State) : State :=
  match instItem s.form s.cur.top i with
  | some it => request it s
  | none => s

/-! ## Content of instances -/

/-- The content under a key. -/
def valFind (vs : List InstVal) (k : Nat) : Option InstVal := vs.find? (fun v => v.key = k)

/-- The content list with a new value under a key. -/
def valSet (vs : List InstVal) (k : Nat) (v : Value) : List InstVal :=
  vs.map (fun x => if x.key = k then { x with value := v } else x)

/-- The content list with the modified flag set under a key. -/
def valMark (vs : List InstVal) (k : Nat) : List InstVal :=
  vs.map (fun x => if x.key = k then { x with modified := true } else x)

/-- The stored value of an instance; an ORDINAL instance stores none (R13, R16). -/
def instValue (f : FormStore) : Inst → Option Value
  | .field n => (valFind f.vals n).map (·.value)
  | .cell l c => (f.lines[l]?).bind (fun ln => (valFind ln.cells c).map (·.value))

/-- The form with a new stored value in an instance. -/
def setInstValue (i : Inst) (v : Value) (f : FormStore) : FormStore :=
  match i with
  | .field n => { f with vals := valSet f.vals n v }
  | .cell l c => { f with lines := updAt f.lines l (fun ln => { ln with cells := valSet ln.cells c v }) }

/-- The form with the modified flag of an instance set, and for a body instance its line's flag too (R36, R85). -/
def markInst (i : Inst) (f : FormStore) : FormStore :=
  match i with
  | .field n => { f with vals := valMark f.vals n }
  | .cell l c => { f with lines := updAt f.lines l (fun ln => { cells := valMark ln.cells c, modified := true }) }

/-- A value is absent: a text of blanks only, or ABSENT (R13, R14). -/
def valueAbsent : Value → Bool
  | .text t => t.all (fun b => b = blank)
  | .absent => true
  | .number _ => false
  | .overflow => false

/-- The value an instance of a kind begins with (R5, R28). -/
def initialValue (sh : Shape) : Value :=
  if isTextKind sh.kind then .text (List.replicate sh.length blank) else .absent

/-- An EMPTY line record of the form's columns, every flag clear (R16). -/
def newLine (f : FormStore) : LineRec :=
  { cells := (f.cols.filter (fun cd => cd.shape.kind ≠ .ordinal)).map
      (fun cd => { key := cd.number, value := initialValue cd.shape, modified := false })
    modified := false }

/-- The contents of the screen fields at FORM END, before any sum is computed (R28). -/
def newVals (f : FormStore) : List InstVal :=
  f.fields.map (fun fd => { key := fd.number, value := initialValue fd.shape, modified := false })

/-- The column is an entry column. -/
def isEntryCol (f : FormStore) (c : Nat) : Bool :=
  match findCol f c with
  | some cd => isEntryKind cd.shape.kind
  | none => false

/-- The line is ENTERED (R17). -/
def lineEntered (f : FormStore) (ln : LineRec) : Bool :=
  ln.cells.any (fun v => isEntryCol f v.key && !valueAbsent v.value)

/-- The line at a position is ENTERED. -/
def lineEnteredAt (f : FormStore) (l : Nat) : Bool :=
  match f.lines[l]? with
  | some ln => lineEntered f ln
  | none => false

/-! ## Tab stops -/

/-- The first columns of the entry columns, left to right (R56). -/
def stopCols (f : FormStore) : List Nat := (f.cols.filter (fun cd => isEntryKind cd.shape.kind)).map (·.col)

/-- The first cells of the entry fields of the header or footer, in screen order. -/
def fieldStops (f : FormStore) (header : Bool) : List (Nat × Nat) :=
  (f.fields.filter (fun fd => isEntryKind fd.shape.kind && (decide (fd.row < f.h) == header))).map (fun fd => (fd.row, fd.col))

/-- The tab stops of window row `r`. -/
def rowStops (f : FormStore) (r : Nat) : List (Nat × Nat) := (stopCols f).map (fun c => (r, c))

/-- The tab stops in screen order (R56). -/
def tabStops (f : FormStore) : List (Nat × Nat) :=
  fieldStops f true ++ (List.range f.w).flatMap (fun k => rowStops f (f.h + k)) ++ fieldStops f false

/-- The order of cells of R56: by row, then by column. -/
def cellBefore (a b : Nat × Nat) : Bool := a.1 < b.1 || (a.1 = b.1 && a.2 < b.2)

/-- A body with stops (R56). -/
def bodyStops (f : FormStore) : Bool := f.w > 0 && !(stopCols f).isEmpty

/-- The Home position (R60). -/
def homeCell (f : FormStore) : Nat × Nat := (tabStops f).head?.getD (0, 0)

end Sys2Proof.Machine
end

