-- ==== Sys2Proof/Machine/Recompute.lean ====
section
/-!
DEFINITION. Recomputation of the computed values and what is handed on from it (5.4 to 5.6), and the system write of
one instance (2.6).
-/
namespace Sys2Proof.Machine

/-! ## The four steps of R102 -/

/-- The value of column `c` on a line, ABSENT where the line has none. -/
def lineValue (ln : LineRec) (c : Nat) : Value := ((valFind ln.cells c).map (·.value)).getD .absent

/-- The decimals of column `c`. -/
def colDecimals (f : FormStore) (c : Nat) : Nat := ((findCol f c).map (·.shape.decimals)).getD 0

/-- The product of a PRODUCT column on a line (R98). -/
def productAt (f : FormStore) (cd : ColumnDef) (ln : LineRec) : Value :=
  productValue cd.shape (colDecimals f cd.opA) (colDecimals f cd.opB) (lineValue ln cd.opA) (lineValue ln cd.opB)

/-- The line with its products computed. -/
def lineProducts (f : FormStore) (ln : LineRec) : LineRec :=
  { ln with
    cells := ln.cells.map (fun v =>
      match findCol f v.key with
      | some cd => if cd.shape.kind = .product then { v with value := productAt f cd ln } else v
      | none => v) }

/-- `g` applied to the elements at positions `lo` to `lo + n - 1`, counting from `i`. -/
def mapFrom {α : Type} (lo n : Nat) (g : α → α) : Nat → List α → List α
  | _, [] => []
  | i, x :: xs => (if lo ≤ i ∧ i < lo + n then g x else x) :: mapFrom lo n g (i + 1) xs

/-- Step 1 of R102 for the lines from `lo` on, `n` of them. -/
def productsFrom (lo n : Nat) (f : FormStore) : FormStore :=
  { f with lines := mapFrom lo n (lineProducts f) 0 f.lines }

/-- The exact sum S of a column over all lines, at reckoning scale (R99). -/
def columnShare (f : FormStore) (c : Nat) : Share :=
  sumShares (f.lines.map (fun ln => valueShare (colDecimals f c) (lineValue ln c)))

/-- The content list with the values of the fields of one sum kind computed. -/
def setSums (k : Kind) (g : FieldDef → Value) (f : FormStore) : FormStore :=
  { f with
    vals := f.vals.map (fun v =>
      match findField f v.key with
      | some fd => if fd.shape.kind = k then { v with value := g fd } else v
      | none => v) }

/-- Step 2 of R102: every COLUMN SUM (R99). -/
def columnSums (f : FormStore) : FormStore :=
  setSums .columnSum (fun fd => shareValue fd.shape (columnShare f fd.sumCol)) f

/-- The sum column of the DESK SUM field of a tag. -/
def tagColumn (f : FormStore) (t : Nat) : Option Nat :=
  (f.fields.find? (fun fd => fd.shape.kind = .deskSum && fd.tag = t)).map (·.sumCol)

/-- The local contribution of a tag (R100). -/
def localShare (f : FormStore) (t : Nat) : Share :=
  match tagColumn f t with
  | some c => columnShare f c
  | none => .value 0

/-- Step 3 of R102: every local contribution. -/
def localShares (f : FormStore) (d : DeskExchange) : DeskExchange :=
  { d with active := d.active.map (fun p => (p.1, localShare f p.1)) }

/-- The key of a contribution table entry. -/
def entryKey (tag source : Nat) : Nat := 32 * tag + source

/-- The tag of a key. -/
def keyTag (k : Nat) : Nat := k / 32

/-- The source of a key. -/
def keySource (k : Nat) : Nat := k % 32

/-- The received parts of a desk total (R101). -/
def receivedShares (d : DeskExchange) (t : Nat) : List Share :=
  (d.table.filter (fun p => keyTag p.1 = t)).map (fun p => p.2.share)

/-- The desk total of a tag at reckoning scale (R101). -/
def deskTotal (d : DeskExchange) (t : Nat) : Share :=
  addShare ((assocGet d.active t).getD (.value 0)) (sumShares (receivedShares d t))

/-- Step 4 of R102: every DESK SUM (R101). -/
def deskSums (d : DeskExchange) (f : FormStore) : FormStore :=
  setSums .deskSum (fun fd => shareValue fd.shape (deskTotal d fd.tag)) f

/-- The four steps of R102, the products of the lines from `lo` on, `n` of them. -/
def recompute (lo n : Nat) (s : State) : State :=
  let f := columnSums (productsFrom lo n s.form)
  let d := localShares f s.desk
  { s with form := deskSums d f, desk := d }

/-! ## Handing on (R103, R104) -/

/-- The products of two records of one line differ. -/
def productsDiffer (f : FormStore) (a b : LineRec) : Bool :=
  f.cols.any (fun cd => cd.shape.kind = .product && decide (lineValue a cd.number ≠ lineValue b cd.number))

/-- The visible window rows on whose line a product changed, from the top: DESIGN CHOICE, as R103 does not order the
items of one step (notes/assumptions/34.md). -/
def productRows (before s : State) : List Item :=
  ((List.range s.form.w).filter (fun k =>
    match before.form.lines[s.cur.top + k]?, s.form.lines[s.cur.top + k]? with
    | some a, some b => productsDiffer s.form a b
    | _, _ => false)).map (fun k => Item.bodyRow (s.form.h + k))

/-- The fields whose stored value changed, of the kinds `p` allows, in screen order. DESIGN CHOICE
(notes/assumptions/34.md): R103 orders the steps and not the several FIELD items of one step, and their items join the
repaint list in this order. -/
def changedFields (p : Kind → Bool) (before s : State) : List Nat :=
  (s.form.fields.filter (fun fd =>
    p fd.shape.kind && decide (instValue before.form (.field fd.number) ≠ instValue s.form (.field fd.number)))).map (·.number)

/-- The FIELD items of a list of numbers. -/
def fieldItems (ns : List Nat) : List Item := ns.map Item.field

/-- The tags whose local contribution changed (R100). -/
def changedTags (before s : State) : List Nat :=
  (s.desk.active.filter (fun p => decide (assocGet before.desk.active p.1 ≠ some p.2))).map (·.1)

/-- DESK CHANGE is raised once when a DESK SUM field's stored value changed (R104). -/
def deskChange (before s : State) : State :=
  if (changedFields (· = .deskSum) before s).isEmpty then s else raiseDeskChange s

/-- The changes of a recomputation handed on in the order of its steps (R103). -/
def handOn (before s : State) : State :=
  deskChange before
    (requestAll (fieldItems (changedFields (· = .deskSum) before s))
      (placeAll .tally (changedTags before s)
        (requestAll (fieldItems (changedFields (· = .columnSum) before s))
          (requestAll (productRows before s) s))))

/-- Recomputation of the lines from `lo` on, handed on against the state before the event. -/
def reckon (before : State) (lo n : Nat) (s : State) : State := handOn before (recompute lo n s)

/-- Step 4 of R102 alone, for an event that changed the contribution table (R105). -/
def recomputeDesk (s : State) : State :=
  if s.form.state = .active then
    let t := { s with form := deskSums s.desk s.form }
    deskChange s (requestAll (fieldItems (changedFields (· = .deskSum) s t)) t)
  else s

/-! ## The pending edit, as far as writes and cursor orders reach it -/

/-- The pending edit is discarded with its buffer (R71). -/
def dropEdit (s : State) : State := { s with key := { s.key with edit := none } }

/-- The instance of the pending edit. -/
def editInst (s : State) : Option Inst := s.key.edit.map (·.inst)

/-- The lines whose products depend on an instance: its own line (R102). -/
def instLines : Inst → Nat × Nat
  | .field _ => (0, 0)
  | .cell l _ => (l, 1)

/-! ## System writes -/

/-- Characters written one by one from `pos`, after the last position to position 0 (R33). -/
def wrapWrite (len : Nat) : Nat → Text → Text → Text
  | _, [], base => base
  | pos, c :: cs, base => wrapWrite len (if pos + 1 = len then 0 else pos + 1) cs (base.set pos c)

/-- The text a stored value holds; `length` blanks where it holds none. -/
def storedText (sh : Shape) : Value → Text
  | .text t => t
  | _ => List.replicate sh.length blank

/-- The value that decoded characters give an instance (R32, R33, R34); none refuses the order BAD VALUE. -/
def writtenValue (sh : Shape) (overlay : Bool) (start : Nat) (old : Value) (chars : Text) : Option Value :=
  if sh.kind = .number then parseSystem sh chars
  else if sh.kind = .digits ∧ chars.all digitsAllowed = false then none
  else
    let base := if overlay then storedText sh old else List.replicate sh.length blank
    some (.text (wrapWrite sh.length start (chars.map (foldChar sh)) base))

/-- A new stored value in an instance, its flags set where `mark` says so (R36, R85). -/
def writeForm (mark : Bool) (i : Inst) (v : Value) (s : State) : State :=
  { s with form := if mark then markInst i (setInstValue i v s.form) else setInstValue i v s.form }

/-- Recomputation for a change of instance `i`, where there was one (R102). -/
def reckonIf (changed : Bool) (before : State) (i : Inst) (s : State) : State :=
  if changed then reckon before (instLines i).1 (instLines i).2 s else s

/-- The repaint item of an instance, where it is to be queued. -/
def requestIf (c : Bool) (i : Inst) (s : State) : State := if c then requestInst i s else s

/-- The pending edit discarded where it stands on instance `i` (R38). -/
def dropEditOn (i : Inst) (s : State) : State := if editInst s = some i then dropEdit s else s

/-- The stored value of an instance is another than `v`. -/
def differs (s : State) (i : Inst) (v : Value) : Bool := decide (instValue s.form i ≠ some v)

/-- An accepted system write of `v` into instance `i` (R36, R37, R38). -/
def storeSystem (i : Inst) (sh : Shape) (mark : Bool) (v : Value) (s : State) : State :=
  requestIf (differs s i v || decide (editInst s = some i)) i
    (reckonIf (differs s i v && decide (sh.kind = .number)) s i
      (writeForm (mark && differs s i v && isEntryKind sh.kind) i v (dropEditOn i s)))

end Sys2Proof.Machine
end

