-- ==== Sys2Proof/Machine/Composer.lean ====
section
/-!
DEFINITION. What the Composer renders (6.3 to 6.5), the Key Engine's echo of the edit buffer (R72), and the video
readout as a function of the state and of what the render in progress has drawn (6.6).
-/
namespace Sys2Proof.Machine

/-! ## Texts of the status row -/

/-- The characters of a list of Lean characters. -/
def chars (cs : List Char) : Text := cs.map (fun c => BitVec.ofNat 8 c.toNat)

/-- The code of an operator error (R87). -/
def opCode : OpError → Nat
  | .protectedCell => 1
  | .notValidHere => 2
  | .fieldFull => 3
  | .tooLarge => 4
  | .mustFill => 5
  | .mandatoryEmpty => 6
  | .lineGroupFull => 7
  | .blockTooLarge => 8
  | .notInBody => 10

/-- The name of an operator error (R87). -/
def opName : OpError → Text
  | .protectedCell => chars ['P', 'R', 'O', 'T', 'E', 'C', 'T', 'E', 'D']
  | .notValidHere => chars ['N', 'O', 'T', ' ', 'V', 'A', 'L', 'I', 'D', ' ', 'H', 'E', 'R', 'E']
  | .fieldFull => chars ['F', 'I', 'E', 'L', 'D', ' ', 'F', 'U', 'L', 'L']
  | .tooLarge => chars ['T', 'O', 'O', ' ', 'L', 'A', 'R', 'G', 'E']
  | .mustFill => chars ['M', 'U', 'S', 'T', ' ', 'F', 'I', 'L', 'L']
  | .mandatoryEmpty => chars ['M', 'A', 'N', 'D', 'A', 'T', 'O', 'R', 'Y', ' ', 'E', 'M', 'P', 'T', 'Y']
  | .lineGroupFull => chars ['L', 'I', 'N', 'E', ' ', 'G', 'R', 'O', 'U', 'P', ' ', 'F', 'U', 'L', 'L']
  | .blockTooLarge => chars ['B', 'L', 'O', 'C', 'K', ' ', 'T', 'O', 'O', ' ', 'L', 'A', 'R', 'G', 'E']
  | .notInBody => chars ['N', 'O', 'T', ' ', 'I', 'N', ' ', 'B', 'O', 'D', 'Y']

/-- The two digits after "ERR" (R116). -/
def errorCode : Option ErrorRec → Nat
  | some (.op e) => opCode e
  | some (.reject c _) => c
  | none => 0

/-- The error text of the status row (R116). -/
def errorText : Option ErrorRec → Text
  | some (.op e) => opName e
  | some (.reject _ m) => m
  | none => []

/-- The keyboard word (R116). -/
def keyboardWord (k : KeyEngine) : Text :=
  match k.keyboard with
  | .free => chars ['R', 'E', 'A', 'D', 'Y']
  | .locked => chars ['W', 'A', 'I', 'T']
  | .system => chars ['S', 'E', 'T', 'U', 'P']
  | .error => chars ['E', 'R', 'R'] ++ fixedDigits 2 (errorCode k.lastError)

/-- The line part, "LN ddd/DD" with the cursor on a window row of an ACTIVE form (R116). -/
def linePart (s : State) : Text :=
  match decide (s.form.state = .active), cursorLine s with
  | true, some l => chars ['L', 'N', ' '] ++ fixedDigits 3 (l + 1) ++ chars ['/'] ++ fixedDigits 2 s.form.d
  | _, _ => []

/-- The text of the banner, empty where there is none (R177). -/
def bannerText (d : DeskExchange) : Text := (d.banner.map (·.text)).getD []

/-- The 80 characters of row 24 (R116). -/
def statusText (s : State) : Text :=
  padRight 6 blank (keyboardWord s.key)
    ++ [blank]
    ++ padRight 3 blank (if s.key.insertMode then chars ['I', 'N', 'S'] else [])
    ++ [blank]
    ++ padRight 9 blank (linePart s)
    ++ padRight errorTextCols blank (if s.key.keyboard = .error then errorText s.key.lastError else [])
    ++ [blank]
    ++ padRight 40 blank (bannerText s.desk)

/-- Bright and inverse, the attributes of the keyboard word in ERROR (R116). -/
def alertAttrs : CellAttrs := ⟨true, true, false, false⟩

/-- A text as cells of one attribute set. -/
def cellsOf (a : CellAttrs) (t : Text) : List Cell := t.map (fun b => ⟨b, a⟩)

/-- The 80 cells of row 24 (R116). -/
def statusCells (s : State) : List Cell :=
  let n := if s.key.keyboard = .error then 5 else 0
  cellsOf alertAttrs ((statusText s).take n) ++ cellsOf noAttrs ((statusText s).drop n)

/-! ## Instances on the screen -/

/-- The attribute set of an instance's cells: its own less hidden (R108, R113). -/
def cellAttrs (a : Attrs) : CellAttrs := ⟨a.bright, a.inverse, a.underline, a.blink⟩

/-- What an instance shows: blanks when hidden, its edit buffer while an edit is pending, else its stored value
(R113, R114, R115). -/
def shownText (k : KeyEngine) (i : Inst) (sh : Shape) (stored : Text) : Text :=
  if sh.attrs.hidden then List.replicate sh.length blank
  else match k.edit with
    | some e => if e.inst = i then padRight sh.length blank e.buf else stored
    | none => stored

/-- The stored text of an instance as the screen shows it: for ORDINAL the position plus one, right-justified (R114). -/
def storedShown (f : FormStore) (i : Inst) (sh : Shape) : Text :=
  match sh.kind, i with
  | .ordinal, .cell l _ => padLeft sh.length blank (decText (l + 1))
  | _, _ => displayText sh ((instValue f i).getD .absent)

/-- The cells of an instance. -/
def instCells (s : State) (i : Inst) (sh : Shape) : List Cell :=
  cellsOf (cellAttrs sh.attrs) (shownText s.key i sh (storedShown s.form i sh))

/-- Writes a run of cells into the screen image from a row and column on. -/
def drawRun (r c : Nat) (cells : List Cell) (s : State) : State :=
  { s with comp := { s.comp with image := cellWriteRun blankCell s.comp.image (cellKey r c) cells } }

/-- Writes an instance into its cells, where it has any (R72, R113). -/
def drawInst (i : Inst) (s : State) : State :=
  match instShape s.form i, instFirst s.form s.cur.top i with
  | some sh, some (r, c) => drawRun r c (instCells s i sh) s
  | _, _ => s

/-! ## Rendering -/

/-- A list with a run laid over it from a position on. -/
def overlay {α : Type} (base : List α) (pos : Nat) (xs : List α) : List α :=
  base.take pos ++ xs ++ base.drop (pos + xs.length)

/-- The 80 cells of the LINE plane (R20). -/
def linePlaneCells (f : FormStore) : List Cell :=
  (List.range screenCols).map (fun c => ⟨cellRead blank f.linePlane c, noAttrs⟩)

/-- The 80 cells of a window row that shows line `l` (R114). -/
def bodyRowCells (s : State) (l : Nat) : List Cell :=
  s.form.cols.foldl (fun row cd => overlay row cd.col (instCells s (.cell l cd.number) cd.shape)) (linePlaneCells s.form)

/-- The screen field whose cells contain the cell. -/
def fieldCovers (f : FormStore) (r c : Nat) : Bool :=
  f.fields.any (fun fd => fd.row = r && inRun fd.col fd.shape.length c)

/-- Every header and footer label cell outside a field, with its key (R112). -/
def labelCells (f : FormStore) : List (Nat × Cell) :=
  ((List.range formRows).filter (isFixedRow f)).flatMap (fun r =>
    ((List.range screenCols).filter (fun c => !fieldCovers f r c)).map (fun c =>
      (cellKey r c, ⟨cellRead blank f.screenPlane (cellKey r c), noAttrs⟩)))

/-- Writes listed cells into an image. -/
def writeCells : List (Nat × Cell) → List (Nat × Cell) → List (Nat × Cell)
  | img, [] => img
  | img, (k, c) :: cs => writeCells (cellWrite blankCell img k c) cs

/-- The image with rows 0 to 23 blank (R112). -/
def clearForm (img : List (Nat × Cell)) : List (Nat × Cell) :=
  img.filter (fun p => cellKey statusRowNo 0 ≤ p.1)

/-- The render of one item, from the state as it stands (R110, R112 to R116). -/
def render (i : Item) (s : State) : State :=
  match i with
  | .clear => { s with comp := { s.comp with image := clearForm s.comp.image } }
  | .labels => { s with comp := { s.comp with image := writeCells s.comp.image (labelCells s.form) } }
  | .field n => drawInst (.field n) s
  | .bodyRow r =>
    match lineAt s.form s.cur.top r with
    | some l => drawRun r 0 (bodyRowCells s l) s
    | none => s
  | .status => drawRun statusRowNo 0 (statusCells s) s

/-- The head item leaves the list, and joins its tail again when its re-render mark was set (R110). -/
def popItem (c : Composer) : Composer :=
  match c.items with
  | [] => { c with rendering := false, remark := false }
  | i :: is => { c with items := if c.remark then is ++ [i] else is, rendering := false, remark := false }

/-- RENDER_COMPLETE (R110): the item is drawn and leaves the head of the list; the next render then begins. -/
def execRenderComplete (s : State) : Out :=
  match s.comp.items, s.comp.rendering with
  | i :: _, true =>
    let t := render i s
    ok { t with comp := popItem t.comp }
  | _, _ => noEvent s

/-! ## The video readout -/

/-- The screen image's cell at a row and column. -/
def imageCell (s : State) (r c : Nat) : Cell := cellRead blankCell s.comp.image (cellKey r c)

/-- The cursor mark: inverse toggled, and blink added when the option is on (R119). -/
def markCell (blinkOn : Bool) (c : Cell) : Cell :=
  { c with attrs := { c.attrs with inverse := !c.attrs.inverse, blink := c.attrs.blink || blinkOn } }

/-- A cell of the image as the video port presents it (R118, R119). -/
def presentCell (s : State) (r c : Nat) (cell : Cell) : Cell :=
  if s.comp.displayOn then
    (if r = s.cur.row ∧ c = s.cur.col then markCell s.comp.cursorBlink cell else cell)
  else blankCell

/-- What the video port presents for the cell at a row and column, no cell of a render in progress drawn yet
(R118, R119). -/
def videoCell (s : State) (r c : Nat) : Cell := presentCell s r c (imageCell s r c)

/-- The rows of the screen image: the form area and the status row. -/
def imageRows : Nat := statusRowNo + 1

/-- The row of the `n`th cell the scan reaches: rows 0 to 24, then row 0 again (R118). -/
def scanRow (n : Nat) : Nat := n / screenCols % imageRows

/-- The column of the `n`th cell the scan reaches: columns 0 to 79 of each row (R118). -/
def scanCol (n : Nat) : Nat := n % screenCols

/-- A moment of the scan: the state, and the cells that the render in progress has written so far, oldest first. The
state's own image takes a render's cells whole, at its completion (notes/assumptions/11.md). -/
structure Moment where
  state : State
  drawn : List (Nat × Cell)
  deriving DecidableEq, Repr

/-- The render in progress writes further cells of its item, from the state as it stands (R110, R118). -/
def Moment.draw (keys : List Nat) (m : Moment) : Moment :=
  match m.state.comp.items, m.state.comp.rendering with
  | i :: _, true =>
    { m with drawn := m.drawn ++ keys.map (fun k => (k, cellRead blankCell (render i m.state).comp.image k)) }
  | _, _ => m

/-- The single-buffered image at a moment: the cells a render has drawn stand new, the others as they were (R118). -/
def Moment.image (m : Moment) : List (Nat × Cell) := writeCells m.state.comp.image m.drawn

/-- What the video port presents of one cell. -/
structure Presented where
  row : Nat
  col : Nat
  cell : Cell
  deriving DecidableEq, Repr

/-- What the scan presents at its `n`th cell, at the moment it reaches it (R118, R119). -/
def Moment.present (n : Nat) (m : Moment) : Presented :=
  { row := scanRow n
    col := scanCol n
    cell := presentCell m.state (scanRow n) (scanCol n) (cellRead blankCell m.image (cellKey (scanRow n) (scanCol n))) }

/-- The scan from its `n`th cell on, one moment for each cell: each is presented as it stands when the scan reaches it,
and the scan goes on without pause (R118). It changes no state and requests no item. -/
def scanFrom : Nat → List Moment → List Presented
  | _, [] => []
  | n, m :: ms => m.present n :: scanFrom (n + 1) ms

end Sys2Proof.Machine
end

