-- ==== Sys2Proof/Machine/Edit.lean ====
section
/-!
DEFINITION. Taking a key from the queue (R70), completion (4.10), the three steps of a move (R51, R52), and placing
the cursor on an instance (R44).
-/
namespace Sys2Proof.Machine

/-! ## Taking a key -/

/-- The conditions under which the Key Engine takes a key (R70). -/
def canTake (s : State) : Bool :=
  s.form.state = .active && (s.key.keyboard = .free || s.key.keyboard = .error)
    && s.send.state = .none && s.comp.items.isEmpty && !s.comp.rendering

/-- The machine with the key queue `q`. -/
def setQueue (q : List Byte) (s : State) : State := { s with key := { s.key with queue := q } }

/-- A key taken in ERROR is discarded with an ALARM pulse (R88). -/
def discardKey (s : State) : State := pulseAlarm s

/-- The Key Engine takes the key at the head of the queue, which must be `k` (R70): `act` acts on its code in FREE, in
ERROR the key is discarded. -/
def takeKey (k : Key) (act : Byte → State → State) (s : State) : Out :=
  match s.key.queue with
  | [] => noEvent s
  | b :: q =>
    if canTake s = true ∧ keyOf b = some k then
      if s.key.keyboard = .error then ok (discardKey (setQueue q s)) else ok (act b (setQueue q s))
    else noEvent s

/-! ## The cursor -/

/-- Sets the cursor and T together and hands the changes on (R50, R51). -/
def placeCursor (r c top : Nat) (s : State) : State :=
  let t := { s with cur := { row := r, col := c, top := top } }
  let u := if top ≠ s.cur.top then requestAll (allBodyRows s.form) t else t
  if cursorLine t ≠ cursorLine s then request .status u else u

/-- Row, column and T that CURSOR SET gives an instance (R44): a line that is not visible moves the window top to
min(line, D - W). -/
def seekInst (s : State) (i : Inst) : Option (Nat × Nat × Nat) :=
  match i with
  | .field n => (findField s.form n).map (fun fd => (fd.row, fd.col, s.cur.top))
  | .cell l c =>
    if l < s.form.d then
      (findCol s.form c).map (fun cd =>
        let top := if lineVisible s.form s.cur.top l then s.cur.top else min l (s.form.d - s.form.w)
        (s.form.h + (l - top), cd.col, top))
    else none

/-! ## Completion -/

/-- How many digits a NUMBER buffer holds (R84). -/
def digitCount (buf : Text) : Nat := (buf.filter isDigit).length

/-- The check of completion and its result (R84). -/
def checkBuffer (sh : Shape) (buf : Text) : Except OpError Value :=
  match sh.kind with
  | .number =>
    if sh.opts.mustFill = true ∧ buf ≠ [] ∧ digitCount buf < capacity sh then .error .mustFill else normalise sh buf
  | _ =>
    if sh.opts.mustFill = true ∧ buf.any (fun b => b = blank) = true ∧ buf.all (fun b => b = blank) = false then
      .error .mustFill
    else .ok (.text buf)

/-- A completion whose check passed stores its result and ends the edit (R85). -/
def storeCompleted (i : Inst) (v : Value) (s : State) : State :=
  dropEdit (requestInst i (reckonIf (differs s i v) s i (writeForm (differs s i v) i v s)))

/-- Completion of the pending edit, if any (R84, R85, R86). -/
def complete (s : State) : Except OpError State :=
  match s.key.edit with
  | none => .ok s
  | some e =>
    match instShape s.form e.inst with
    | none => .ok (dropEdit s)
    | some sh =>
      match checkBuffer sh e.buf with
      | .error x => .error x
      | .ok v => .ok (storeCompleted e.inst v s)

/-- What a key that needs completion first goes on with; a failure raises its error and nothing else (R52, R86). -/
def afterCompletion (next : State → State) (s : State) : State :=
  match complete s with
  | .error x => raiseError x s
  | .ok t => next t

/-! ## Moves -/

/-- What a movement key's own rule works out: ALARM and no move, or a target cursor and T (R51). -/
inductive Move where
  | blocked
  | target (row col top : Nat)
  deriving DecidableEq, Repr

/-- The cell lies in the instance's cells with the window top `top` (R12). -/
def instHolds (f : FormStore) (top : Nat) (i : Inst) (r c : Nat) : Bool :=
  match instFirst f top i, instShape f i with
  | some (r0, c0), some sh => r = r0 && inRun c0 sh.length c
  | _, _ => false

/-- The instance is a body instance. -/
def isCell : Inst → Bool
  | .field _ => false
  | .cell _ _ => true

/-- A move to the target leaves the instance (R52). -/
def leaves (s : State) (i : Inst) (r c top : Nat) : Bool :=
  !instHolds s.form top i r c || (isCell i && decide (top ≠ s.cur.top))

/-- The three steps of a movement key (R51). -/
def doMove (m : Move) (s : State) : State :=
  match m with
  | .blocked => pulseAlarm s
  | .target r c top =>
    match s.key.edit with
    | some e => if leaves s e.inst r c top then afterCompletion (placeCursor r c top) s else placeCursor r c top s
    | none => placeCursor r c top s

/-- The reference cell of TAB and BACKTAB: the first cell of the current field instance, or the cursor cell (R57). -/
def referenceCell (s : State) : Nat × Nat :=
  match currentInst s with
  | some i => (instFirst s.form s.cur.top i).getD (s.cur.row, s.cur.col)
  | none => (s.cur.row, s.cur.col)

/-- TAB (R57). -/
def tabMove (s : State) : Move :=
  let ref := referenceCell s
  let stops := tabStops s.form
  match stops with
  | [] => .blocked
  | first :: _ =>
    if bodyStops s.form = true ∧ ref.1 = bottomRow s.form ∧ (stopCols s.form).all (fun c => c ≤ ref.2) = true
        ∧ s.cur.top + s.form.w < s.form.d then
      .target (bottomRow s.form) ((stopCols s.form).headD 0) (s.cur.top + 1)
    else match stops.find? (fun p => cellBefore ref p) with
      | some p => .target p.1 p.2 s.cur.top
      | none => .target first.1 first.2 s.cur.top

/-- BACKTAB (R58). -/
def backtabMove (s : State) : Move :=
  match currentEntry s with
  | some (_, _, c0) =>
    if s.cur.col ≠ c0 then .target s.cur.row c0 s.cur.top else backFrom (s.cur.row, c0)
  | none => backFrom (referenceCell s)
where
  /-- Cases 2 to 5 from a reference cell. -/
  backFrom (ref : Nat × Nat) : Move :=
    match (tabStops s.form).getLast? with
    | none => .blocked
    | some last =>
      if bodyStops s.form = true ∧ ref.1 = s.form.h ∧ (stopCols s.form).all (fun c => ref.2 ≤ c) = true ∧ 0 < s.cur.top then
        .target s.form.h ((stopCols s.form).getLastD 0) (s.cur.top - 1)
      else match ((tabStops s.form).filter (fun p => cellBefore p ref)).getLast? with
        | some p => .target p.1 p.2 s.cur.top
        | none => .target last.1 last.2 s.cur.top

/-- NEWLINE (R59). -/
def newlineMove (s : State) : Move :=
  match tabStops s.form with
  | [] => .blocked
  | first :: rest =>
    if bodyStops s.form = true ∧ s.cur.row = bottomRow s.form ∧ s.cur.top + s.form.w < s.form.d then
      .target (bottomRow s.form) ((stopCols s.form).headD 0) (s.cur.top + 1)
    else match (first :: rest).find? (fun p => s.cur.row < p.1) with
      | some p => .target p.1 p.2 s.cur.top
      | none => .target first.1 first.2 s.cur.top

/-- HOME (R60). -/
def homeMove (s : State) : Move := .target (homeCell s.form).1 (homeCell s.form).2 s.cur.top

/-- RIGHT (R53). -/
def rightMove (s : State) : Move :=
  if s.cur.col < screenCols - 1 then .target s.cur.row (s.cur.col + 1) s.cur.top
  else if s.cur.row < formRows - 1 then .target (s.cur.row + 1) 0 s.cur.top
  else .target 0 0 s.cur.top

/-- LEFT (R53). -/
def leftMove (s : State) : Move :=
  if 0 < s.cur.col then .target s.cur.row (s.cur.col - 1) s.cur.top
  else if 0 < s.cur.row then .target (s.cur.row - 1) (screenCols - 1) s.cur.top
  else .target (formRows - 1) (screenCols - 1) s.cur.top

/-- DOWN (R54). -/
def downMove (s : State) : Move :=
  if 0 < s.form.w ∧ s.cur.row = bottomRow s.form ∧ s.cur.top + s.form.w < s.form.d then
    .target s.cur.row s.cur.col (s.cur.top + 1)
  else if s.cur.row = formRows - 1 then .target 0 s.cur.col s.cur.top
  else .target (s.cur.row + 1) s.cur.col s.cur.top

/-- UP (R55). -/
def upMove (s : State) : Move :=
  if 0 < s.form.w ∧ s.cur.row = s.form.h ∧ 0 < s.cur.top then .target s.cur.row s.cur.col (s.cur.top - 1)
  else if s.cur.row = 0 then .target (formRows - 1) s.cur.col s.cur.top
  else .target (s.cur.row - 1) s.cur.col s.cur.top

/-- A page key with its new window top (R61). -/
def pageMove (s : State) (top : Nat) : Move :=
  if top = s.cur.top then .blocked else .target s.cur.row s.cur.col top

/-- PAGE FORWARD (R61). -/
def pageForwardMove (s : State) : Move := pageMove s (min (s.cur.top + s.form.w) (s.form.d - s.form.w))

/-- PAGE BACK (R61). -/
def pageBackMove (s : State) : Move := pageMove s (s.cur.top - s.form.w)

/-- The engine acts as if TAB had been taken (R76, R78, R83). -/
def actTab (s : State) : State := doMove (tabMove s) s

end Sys2Proof.Machine
end

