-- ==== Sys2Proof/Machine/CursorKeys.lean ====
section
/-!
DEFINITION. The movement keys and the line keys of the Cursor Engine (chapter 3).
-/
namespace Sys2Proof.Machine

/-- TAB (R57). -/
def execTab (s : State) : Out := takeKey .tab (fun _ t => doMove (tabMove t) t) s

/-- BACKTAB (R58). -/
def execBacktab (s : State) : Out := takeKey .backtab (fun _ t => doMove (backtabMove t) t) s

/-- HOME (R60). -/
def execHome (s : State) : Out := takeKey .home (fun _ t => doMove (homeMove t) t) s

/-- NEWLINE (R59). -/
def execNewline (s : State) : Out := takeKey .newline (fun _ t => doMove (newlineMove t) t) s

/-- LEFT (R53). -/
def execLeft (s : State) : Out := takeKey .left (fun _ t => doMove (leftMove t) t) s

/-- RIGHT (R53). -/
def execRight (s : State) : Out := takeKey .right (fun _ t => doMove (rightMove t) t) s

/-- UP (R55). -/
def execUp (s : State) : Out := takeKey .up (fun _ t => doMove (upMove t) t) s

/-- DOWN (R54). -/
def execDown (s : State) : Out := takeKey .down (fun _ t => doMove (downMove t) t) s

/-- PAGE FORWARD (R61). -/
def execPageForward (s : State) : Out := takeKey .pageForward (fun _ t => doMove (pageForwardMove t) t) s

/-- PAGE BACK (R61). -/
def execPageBack (s : State) : Out := takeKey .pageBack (fun _ t => doMove (pageBackMove t) t) s

/-! ## Line keys -/

/-- A line key: E10 off the window, else completion first and then `act` with the line under the cursor (R62). -/
def lineKey (act : Nat → State → State) (s : State) : State :=
  match cursorLine s with
  | none => raiseError .notInBody s
  | some l => afterCompletion (act l) s

/-- Sets the line-modified flag of every record. -/
def markLines (ls : List LineRec) : List LineRec := ls.map (fun ln => { ln with modified := true })

/-- The lines with a new EMPTY record at `l`, the last record discarded, and line-modified from `l` on (R63). -/
def insertLineAt (f : FormStore) (l : Nat) : List LineRec :=
  f.lines.take l ++ markLines (newLine f :: (f.lines.drop l).dropLast)

/-- The content of a line: the values of its entry and DISPLAY columns (R64). -/
def lineContent (f : FormStore) (ln : LineRec) : List Value :=
  (f.cols.filter (fun cd => isEntryKind cd.shape.kind || cd.shape.kind = .display)).map (fun cd => lineValue ln cd.number)

/-- The line-modified flag set on each record whose content differs from the one held before at its position (R64). -/
def markChanged (f : FormStore) (old new : List LineRec) : List LineRec :=
  List.zipWith (fun a b => if lineContent f a ≠ lineContent f b then { b with modified := true } else b) old new

/-- The lines without the record at `l` and with a new EMPTY record last (R64). -/
def deleteLineAt (f : FormStore) (l : Nat) : List LineRec :=
  markChanged f f.lines (f.lines.take l ++ f.lines.drop (l + 1) ++ [newLine f])

/-- BODY ROW for every window row that shows a line from `l` on (R65). -/
def rowsFrom (s : State) (l : Nat) : List Item :=
  ((List.range s.form.w).filter (fun k => l ≤ s.cur.top + k)).map (fun k => Item.bodyRow (s.form.h + k))

/-- The cursor goes to the first tab stop of its window row, and stays in a form with no entry column (R63, R64). -/
def toFirstStop (s : State) : State :=
  match stopCols s.form with
  | [] => s
  | c :: _ => placeCursor s.cur.row c s.cur.top s

/-- What follows the moves of LINE INSERT and LINE DELETE (R65): a product that moved with its record keeps its value, so
the recomputation is compared with the moved records (notes/assumptions/13.md). -/
def linesMoved (l : Nat) (new : List LineRec) (s : State) : State :=
  let t := { s with form := { s.form with lines := new } }
  toFirstStop (requestAll (rowsFrom s l) (reckon t l (s.form.d - l) t))

/-- LINE INSERT on line `l` (R63). -/
def insertLine (l : Nat) (s : State) : State :=
  if lineEnteredAt s.form (s.form.d - 1) then raiseError .lineGroupFull s else linesMoved l (insertLineAt s.form l) s

/-- LINE DELETE on line `l` (R64). -/
def deleteLine (l : Nat) (s : State) : State := linesMoved l (deleteLineAt s.form l) s

/-- LINE INSERT (R62, R63, R65). -/
def execLineInsert (s : State) : Out := takeKey .lineInsert (fun _ t => lineKey insertLine t) s

/-- LINE DELETE (R62, R64, R65). -/
def execLineDelete (s : State) : Out := takeKey .lineDelete (fun _ t => lineKey deleteLine t) s

end Sys2Proof.Machine
end

