-- ==== Sys2Proof/Machine/EntryKeys.lean ====
section
/-!
DEFINITION. The data keys, the editing keys and RESET of the Key Engine (chapter 4).
-/
namespace Sys2Proof.Machine

/-! ## The edit buffer -/

/-- The buffer a key acts on: the one of the pending edit, or the one with which an edit would begin (R71). -/
def bufferFor (s : State) (i : Inst) (sh : Shape) : Text :=
  match s.key.edit with
  | some e => if e.inst = i then e.buf else []
  | none => if sh.kind = .number then [] else storedText sh ((instValue s.form i).getD .absent)

/-- An edit is pending on the instance with a buffer, and the buffer stands in its cells (R71, R72). -/
def setBuffer (i : Inst) (buf : Text) (s : State) : State :=
  drawInst i { s with key := { s.key with edit := some ⟨i, buf⟩ } }

/-- The cursor goes to a column of its row. -/
def setCursorCol (c : Nat) (s : State) : State := { s with cur := { s.cur with col := c } }

/-- Where a key that acts on a NUMBER buffer places the cursor (R78). -/
def numberCol (sh : Shape) (c0 : Nat) (buf : Text) : Nat := c0 + min buf.length (sh.length - 1)

/-! ## Data keys -/

/-- The buffer with a character inserted at `p`, the last position dropped (R75). -/
def insertAt (p : Nat) (b : Byte) (buf : Text) : Text := buf.take p ++ b :: (buf.drop p).dropLast

/-- The buffer without position `p`, closed up, the last position blank (R79, R80). -/
def removeAt (p : Nat) (buf : Text) : Text := buf.take p ++ buf.drop (p + 1) ++ [blank]

/-- The cursor after a data key wrote position `p` of a TEXT or DIGITS buffer (R76). -/
def advance (sh : Shape) (c0 p : Nat) (s : State) : State :=
  if p + 1 < sh.length then setCursorCol (c0 + p + 1) s
  else if sh.opts.autoAdvance then actTab s
  else s

/-- A data key in a TEXT or DIGITS instance (R74, R75, R76). -/
def textKey (i : Inst) (sh : Shape) (c0 : Nat) (b : Byte) (s : State) : State :=
  let buf := bufferFor s i sh
  let p := s.cur.col - c0
  let ch := foldChar sh b
  if sh.kind = .digits ∧ digitsAllowed ch = false then raiseError .notValidHere (setBuffer i buf s)
  else if s.key.insertMode then
    (if buf.getD (sh.length - 1) blank ≠ blank then raiseError .fieldFull (setBuffer i buf s)
     else advance sh c0 p (setBuffer i (insertAt p ch buf) s))
  else advance sh c0 p (setBuffer i (buf.set p ch) s)

/-- The fraction digits a NUMBER buffer holds. -/
def fractionDigits (buf : Text) : Nat := ((buf.dropWhile (fun b => b ≠ point)).drop 1).length

/-- The checks of a data key against a NUMBER buffer, in order (R77). -/
def numberCheck (sh : Shape) (buf : Text) (b : Byte) : Option OpError :=
  if !(isDigit b || b = minus || b = point) then some .notValidHere
  else if b = minus ∧ ¬(sh.signed = true ∧ buf = []) then some .notValidHere
  else if b = point ∧ ¬(0 < sh.decimals ∧ point ∉ buf) then some .notValidHere
  else if sh.length ≤ buf.length then some .fieldFull
  else if isDigit b = true ∧ point ∈ buf ∧ sh.decimals ≤ fractionDigits buf then some .fieldFull
  else none

/-- A data key in a NUMBER instance (R77, R78). -/
def numberKey (i : Inst) (sh : Shape) (c0 : Nat) (b : Byte) (s : State) : State :=
  let buf := bufferFor s i sh
  match numberCheck sh buf b with
  | some e => raiseError e (setBuffer i buf s)
  | none =>
    let new := buf ++ [b]
    let t := setCursorCol (numberCol sh c0 new) (setBuffer i new s)
    if sh.opts.autoAdvance = true ∧ new.length = sh.length then actTab t else t

/-- A data key in FREE (R73, R74, R77). -/
def dataKey (b : Byte) (s : State) : State :=
  match currentEntry s with
  | none => raiseError .protectedCell s
  | some (i, sh, c0) => if sh.kind = .number then numberKey i sh c0 b s else textKey i sh c0 b s

/-- DATA_KEY (R73, R74, R77). -/
def execDataKey (s : State) : Out := takeKey .data dataKey s

/-! ## Editing keys -/

/-- BACKSPACE and DELETE in a NUMBER instance (R79, R80). -/
def numberBackspace (i : Inst) (sh : Shape) (c0 : Nat) (s : State) : State :=
  let buf := bufferFor s i sh
  if s.key.edit.isSome = true ∧ buf = [] then pulseAlarm s
  else setCursorCol (numberCol sh c0 buf.dropLast) (setBuffer i buf.dropLast s)

/-- BACKSPACE in FREE (R79). -/
def backspaceKey (s : State) : State :=
  match currentEntry s with
  | none => raiseError .protectedCell s
  | some (i, sh, c0) =>
    if sh.kind = .number then numberBackspace i sh c0 s
    else
      let buf := bufferFor s i sh
      let p := s.cur.col - c0
      if p = 0 then pulseAlarm s
      else
        let new := if s.key.insertMode then removeAt (p - 1) buf else buf.set (p - 1) blank
        setCursorCol (c0 + p - 1) (setBuffer i new s)

/-- BACKSPACE (R79). -/
def execBackspace (s : State) : Out := takeKey .backspace (fun _ t => backspaceKey t) s

/-- DELETE in FREE (R80). -/
def deleteKey (s : State) : State :=
  match currentEntry s with
  | none => raiseError .protectedCell s
  | some (i, sh, c0) =>
    if sh.kind = .number then numberBackspace i sh c0 s
    else setBuffer i (removeAt (s.cur.col - c0) (bufferFor s i sh)) s

/-- DELETE (R80). -/
def execDelete (s : State) : Out := takeKey .delete (fun _ t => deleteKey t) s

/-- CLEAR TO END in FREE (R80). -/
def clearToEndKey (s : State) : State :=
  match currentEntry s with
  | none => raiseError .protectedCell s
  | some (i, sh, c0) =>
    if sh.kind = .number then setCursorCol c0 (setBuffer i [] s)
    else setBuffer i (padRight sh.length blank ((bufferFor s i sh).take (s.cur.col - c0))) s

/-- CLEAR TO END (R80). -/
def execClearToEnd (s : State) : Out := takeKey .clearToEnd (fun _ t => clearToEndKey t) s

/-- INSERT in FREE (R81). -/
def insertKey (s : State) : State := request .status { s with key := { s.key with insertMode := !s.key.insertMode } }

/-- INSERT (R81). -/
def execInsert (s : State) : Out := takeKey .insert (fun _ t => insertKey t) s

/-! ## Clearing and repeating -/

/-- The content of an entry instance cleared; with `mark` its flag is set when it had content, else it is cleared
(R43, R82). -/
def clearVal (mark : Bool) (sh : Shape) (v : InstVal) : InstVal :=
  { v with
    value := if isEntryKind sh.kind then initialValue sh else v.value
    modified := if mark then v.modified || (isEntryKind sh.kind && !valueAbsent v.value) else false }

/-- The contents cleared, each by the shape that `shapes` gives its key. -/
def clearVals (mark : Bool) (shapes : Nat → Option Shape) (vs : List InstVal) : List InstVal :=
  vs.map (fun v =>
    match shapes v.key with
    | some sh => clearVal mark sh v
    | none => v)

/-- A line cleared; with `mark` its line-modified flag is set when it was ENTERED, else it is cleared (R43, R82). -/
def clearLine (mark : Bool) (f : FormStore) (ln : LineRec) : LineRec :=
  { cells := clearVals mark (fun k => instShape f (.cell 0 k)) ln.cells
    modified := if mark then ln.modified || lineEntered f ln else false }

/-- Every entry value of the form cleared (R43, R82). -/
def clearedForm (mark : Bool) (f : FormStore) : FormStore :=
  { f with
    vals := clearVals mark (fun k => instShape f (.field k)) f.vals
    lines := f.lines.map (clearLine mark f) }

/-- Abandons the pending edit, if any, and queues its instance's item (R72). -/
def abandonEdit (s : State) : State :=
  match s.key.edit with
  | some e => requestInst e.inst (dropEdit s)
  | none => s

/-- The clearing that ENTRIES CLEAR and CLEAR ALL share: the edit abandoned, the entries cleared, everything
recomputed, and the items queued in the order of R82. -/
def clearEntries (mark : Bool) (s : State) : State :=
  let s1 := abandonEdit s
  let t := recompute 0 s1.form.d { s1 with form := clearedForm mark s1.form }
  requestAll (allBodyRows t.form)
    (deskChange s
      (requestAll (fieldItems (changedFields (· = .deskSum) s t))
        (placeAll .tally (changedTags s t)
          (requestAll (fieldItems (changedFields (· = .columnSum) s t))
            (requestAll (fieldItems (changedFields isEntryKind s t)) t)))))

/-- CLEAR ALL in FREE (R82). -/
def clearAllKey (s : State) : State :=
  let t := clearEntries true s
  placeCursor (homeCell t.form).1 (homeCell t.form).2 t.cur.top t

/-- CLEAR ALL (R82). -/
def execClearAll (s : State) : Out := takeKey .clearAll (fun _ t => clearAllKey t) s

/-- REPEAT ABOVE in FREE (R83). -/
def repeatAboveKey (s : State) : State :=
  match currentEntry s with
  | some (.cell (l + 1) c, _, _) =>
    match instValue s.form (.cell l c) with
    | none => raiseError .notInBody s
    | some .overflow => raiseError .tooLarge s
    | some v =>
      let i := Inst.cell (l + 1) c
      actTab (request (.bodyRow s.cur.row) (reckonIf true s i (writeForm true i v (dropEdit s))))
  | _ => raiseError .notInBody s

/-- REPEAT ABOVE (R83). -/
def execRepeatAbove (s : State) : Out := takeKey .repeatAbove (fun _ t => repeatAboveKey t) s

/-! ## RESET -/

/-- RESET taken in ERROR (R88). -/
def clearError (s : State) : State := setKeyboard .free { s with key := { s.key with lastError := none } }

/-- RESET (R88): in ERROR it clears the error and frees the keyboard, in FREE it changes nothing. -/
def execReset (s : State) : Out :=
  match s.key.queue with
  | [] => noEvent s
  | b :: q =>
    if canTake s = true ∧ keyOf b = some .reset then
      if s.key.keyboard = .error then ok (clearError (setQueue q s)) else ok (setQueue q s)
    else noEvent s

end Sys2Proof.Machine
end

