-- ==== Sys2Proof/Machine/Flags.lean ====
section
/-!
DEFINITION. The flags: causes with ATTN (10.6), link flags (R157), modified flags (R18, R19), the status bytes
(R185, R196), and the outputs that follow from the state.
-/
namespace Sys2Proof.Machine

/-! ## Link flags -/

/-- Some link flag is set: LINK FAULT is pending (R157). -/
def anyLinkFlag (f : LinkFlags) : Bool :=
  f.framing || f.brk || f.overrun || f.check || f.timeout || f.length || f.clash || f.dropped

/-- A bit as a number. -/
def bit (b : Bool) : Nat := if b then 1 else 0

/-- The byte of the link flags (R197). -/
def linkByte (f : LinkFlags) : Byte :=
  BitVec.ofNat 8 (bit f.framing + 2 * bit f.brk + 4 * bit f.overrun + 8 * bit f.check + 16 * bit f.timeout
    + 32 * bit f.length + 64 * bit f.clash + 128 * bit f.dropped)

/-- Sets the LENGTH link flag. -/
def setLength (s : State) : State := { s with line := { s.line with flags := { s.line.flags with length := true } } }

/-! ## Causes (R186) -/

/-- The bytes of an inbound record (R173). -/
def recordSize (m : InMsg) : Nat := 2 + m.text.length

/-- The inbound queue fill (R173). -/
def inboundFill (d : DeskExchange) : Nat := (d.inbound.map recordSize).sum

/-- BLOCK READY is pending: a block stands in READY and has not been read to its end (R132, R134). -/
def blockReady (s : State) : Bool := s.send.state = .ready && s.send.readPos < s.send.block.length

/-- The cause of a number is pending (R186). -/
def causePending (s : State) (k : Nat) : Bool :=
  match k with
  | 1 => s.tp.edge.keyError
  | 2 => blockReady s
  | 3 => s.tp.edge.started
  | 4 => !s.desk.inbound.isEmpty
  | 5 => anyLinkFlag s.line.flags
  | 6 => s.tp.edge.deskChange
  | 7 => s.tp.edge.space
  | _ => false

/-- The cause of a number is in the enable set (R188). -/
def causeEnabled (s : State) (k : Nat) : Bool := s.tp.enable.getLsbD (k - 1)

/-- The numbers of the causes, in order of priority (R186). -/
def causeNumbers : List Nat := [1, 2, 3, 4, 5, 6, 7]

/-- The reply of CAUSE READ (R187). -/
def causeReply (s : State) : Nat := (causeNumbers.find? (fun k => causePending s k && causeEnabled s k)).getD 0

/-- The level of ATTN: low, false, while an enabled cause is pending (R188). -/
def attn (s : State) : Bool := causeNumbers.all (fun k => !(causePending s k && causeEnabled s k))

/-- The edge causes with the one of a number cleared (R187). -/
def clearEdge (k : Nat) (e : EdgeCauses) : EdgeCauses :=
  match k with
  | 1 => { e with keyError := false }
  | 3 => { e with started := false }
  | 6 => { e with deskChange := false }
  | 7 => { e with space := false }
  | _ => e

/-! ## Modified flags -/

/-- Every modified flag of a content list cleared. -/
def unmarkVals (vs : List InstVal) : List InstVal := vs.map (fun v => { v with modified := false })

/-- Every modified, column-modified and line-modified flag cleared (R18, R19, R136). -/
def unmarkForm (f : FormStore) : FormStore :=
  { f with
    vals := unmarkVals f.vals
    lines := f.lines.map (fun ln => { cells := unmarkVals ln.cells, modified := false }) }

/-! ## Codes -/

/-- R196. -/
def phaseCode : Phase → Nat
  | .starting => 0
  | .ready => 1

/-- R196. -/
def formCode : FormState → Nat
  | .empty => 0
  | .define => 1
  | .active => 2

/-- R196. -/
def keyboardCode : Keyboard → Nat
  | .system => 0
  | .free => 1
  | .error => 2
  | .locked => 3

/-- R196. -/
def sendCodeOf : SendState → Nat
  | .none => 0
  | .assembling => 1
  | .ready => 2

/-- R196. -/
def outcomeCode : OrderOutcome → Nat
  | .none => 0
  | .done => 1
  | .refusedState => 2
  | .refusedBusy => 3
  | .badArgument => 4
  | .badValue => 5
  | .full => 6
  | .unknown => 7
  | .abandoned => 8

/-- R197. -/
def txCode : TxState → Nat
  | .idle => 0
  | .defer => 1
  | .send => 2
  | .backoff => 3
  | .yield => 4

/-- R197. -/
def rxCode : RxState → Nat
  | .hunt => 0
  | .accept => 1
  | .skip => 2

/-- R144. -/
def kindCode : FrameKind → Nat
  | .greet => 1
  | .tally => 2
  | .retract => 3
  | .banner => 4
  | .pass => 5
  | .pause => 6
  | .resume => 7

/-- R144. -/
def frameKindOf (b : Byte) : Option FrameKind :=
  match b.toNat with
  | 1 => some .greet
  | 2 => some .tally
  | 3 => some .retract
  | 4 => some .banner
  | 5 => some .pass
  | 6 => some .pause
  | 7 => some .resume
  | _ => none

/-- The link mode in force: 0 normal, 1 listen-only, 2 loopback (R197). -/
def linkMode (l : DeskLineUnit) : Nat := if l.listenOnly then 1 else if l.loopback then 2 else 0

/-- The four bytes of STATUS READ (R185, R196). -/
def statusBytes (s : State) : List Byte :=
  [ BitVec.ofNat 8 (128 * phaseCode s.tp.phase + 16 * formCode s.form.state + 4 * keyboardCode s.key.keyboard
      + sendCodeOf s.send.state),
    BitVec.ofNat 8 (outcomeCode s.tp.outcome),
    BitVec.ofNat 8 (128 * bit s.key.typeaheadLost + s.key.queue.length),
    BitVec.ofNat 8 (min s.comp.items.length 15 + 16 * bit s.tp.stream.isSome + 32 * bit s.desk.inboundLost
      + 64 * bit (anyLinkFlag s.line.flags) + 128 * bit s.line.listenOnly) ]

/-! ## Outputs -/

/-- DDE: asserted only while the transmitter is in SEND, never in loopback or on a listen-only station (R151). -/
def driverEnabled (l : DeskLineUnit) : Bool := l.tx = .send && !l.loopback && !l.listenOnly

end Sys2Proof.Machine
end

