-- ==== Sys2Proof/Machine/Port.lean ====
section
/-!
DEFINITION. The bytes of a frame from its SCLK edges, the frame of an order at the TP port (10.2, 10.3), and the control
orders (R120, R155, R185 to R188).
-/
namespace Sys2Proof.Machine

/-! ## Bytes from SCLK edges -/

/-- The eight bits of a byte in the order of their SCLK edges, most significant first (R179). -/
def portBits (b : Byte) : List Bool := (List.range 8).map b.getMsbD

/-- The byte of bits clocked most significant first (R179). -/
def portByte (bits : List Bool) : Byte := bits.foldl (fun acc b => 2 * acc + if b then 1 else 0) 0

/-- An open frame: the bytes wholly clocked, the order code first, and the bits of the byte part-clocked, which are
fewer than eight. -/
structure PortFrame where
  bytes : List Byte
  part : List Bool
  deriving DecidableEq, Repr

/-- A frame just opened. -/
def openedFrame : PortFrame := ⟨[], []⟩

/-- A rising edge of SCLK samples SDI; the eighth since the last byte makes a byte (10.1, R179). -/
def clockBit (f : PortFrame) (sdi : Bool) : PortFrame :=
  if f.part.length < 7 then { f with part := f.part ++ [sdi] } else ⟨f.bytes ++ [portByte (f.part ++ [sdi])], []⟩

/-- The decoder with a frame open: CODE until the order code is wholly clocked, IGNORE after an unknown one, ARGUMENTS
until the last fixed argument is wholly clocked, then BODY (R179, R182). -/
def frameDecoder (f : PortFrame) : Decoder :=
  match f.bytes with
  | [] => .code
  | code :: rest =>
    match argCount code with
    | none => .ignore
    | some k => if rest.length < k then .arguments else .body

/-! ## Frames -/

/-- Byte `n` zeros, what SDO drives on every byte that carries no reply byte (R179). -/
def zeros (n : Nat) : List Byte := List.replicate n 0

/-- The `n` bytes of a reply: its bytes, then 0x00 (R193). -/
def replyBytes (n : Nat) (r : List Byte) : List Byte := (r ++ zeros n).take n

/-- SELN rises: the decoder returns to IDLE, and `sdo` is what SDO drove in the frame (R179, R180). -/
def closeFrame (sdo : List Byte) (s : State) : State :=
  { s with tp := { s.tp with decoder := .idle, awaitHigh := false, sdo := sdo } }

/-- Records the outcome of a frame (R183). -/
def record (o : OrderOutcome) (s : State) : State := { s with tp := { s.tp with outcome := o } }

/-- A stream ends (R41). -/
def endStream (s : State) : State := { s with tp := { s.tp with stream := none } }

/-- What an order's own rule gives: the state it makes, or the outcome that refuses it. -/
abbrev Verdict := Except OrderOutcome State

/-- The frame of an order that acts at SELN rising (R180, R183): `n` bytes clocked after the order code. In STARTING
it is refused REFUSED STATE. Bytes after the arguments of an order with neither data nor a reply are among the `n`
and are ignored (R179). A refused order changes nothing but what its frame does. -/
def runOrder (n : Nat) (body : State → Verdict) (s : State) : Out :=
  let s1 := endStream (closeFrame (zeros (1 + n)) s)
  if s.tp.phase = .starting then .next (record .refusedState s1)
  else match body s1 with
    | .error o => .next (record o s1)
    | .ok t => ok (record .done t)

/-- The frame of STREAM NEXT, which keeps the stream (R40, R41). -/
def runStreamOrder (n : Nat) (body : State → Verdict) (s : State) : Out :=
  let s1 := closeFrame (zeros (1 + n)) s
  if s.tp.phase = .starting then .next (record .refusedState s1)
  else match body s1 with
    | .error o => .next (record o s1)
    | .ok t => ok (record .done t)

/-- The frame of a read order with `k` argument bytes and `n` bytes clocked after them: `reply` is captured from the
state, or refused with 0x00 bytes, and `after` is what the read does to the state (R179, R180, R183). -/
def runRead (k n : Nat) (reply : State → Except OrderOutcome (List Byte)) (after : State → State) (s : State) : Out :=
  if s.tp.phase = .starting then .next (record .refusedState (endStream (closeFrame (zeros (1 + k + n)) s)))
  else match reply s with
    | .error o => .next (record o (endStream (closeFrame (zeros (1 + k + n)) s)))
    | .ok r => ok (record .done (after (endStream (closeFrame (zeros (1 + k) ++ replyBytes n r) s))))

/-! ## FRAME_OPEN and UNKNOWN_ORDER_CODE -/

/-- FRAME_OPEN (R179): with the decoder in IDLE a falling edge of SELN opens a frame. -/
def execFrameOpen (s : State) : Out :=
  if s.tp.decoder = .idle then ok { s with tp := { s.tp with decoder := .code, awaitHigh := false } } else noEvent s

/-- A frame with an unknown order code, `n` further bytes clocked (R182). -/
def unknownFrame (n : Nat) (s : State) : State := record .unknown (endStream (closeFrame (zeros (1 + n)) s))

/-- UNKNOWN_ORDER_CODE (R182), in either phase. -/
def execUnknownOrderCode (code : Byte) (bytes : List Byte) (s : State) : Out :=
  if argCount code = none then ok (unknownFrame bytes.length s) else noEvent s

/-! ## STATUS READ and CAUSE READ -/

/-- STATUS READ clears the typeahead-lost flag with its third byte and the inbound-lost flag with its fourth (R185). -/
def clearRead (n : Nat) (s : State) : State :=
  let s1 := if 3 ≤ n then { s with key := { s.key with typeaheadLost := false } } else s
  if 4 ≤ n then { s1 with desk := { s1.desk with inboundLost := false } } else s1

/-- The frame of STATUS READ with `n` bytes wholly clocked after the order code; it records no outcome (R185). -/
def statusFrame (n : Nat) (s : State) : State :=
  clearRead n (closeFrame (zeros 1 ++ replyBytes n (statusBytes s)) s)

/-- STATUS READ (R185), in either phase. -/
def execStatusRead (n : Nat) (s : State) : Out := ok (statusFrame n s)

/-- The frame of CAUSE READ with `n` bytes wholly clocked after the order code: an edge cause named in the reply is
cleared with the reply byte; no outcome is recorded (R187). -/
def causeFrame (n : Nat) (s : State) : State :=
  let s1 := closeFrame (zeros 1 ++ replyBytes n [BitVec.ofNat 8 (causeReply s)]) s
  if 1 ≤ n then { s1 with tp := { s1.tp with edge := clearEdge (causeReply s) s1.tp.edge } } else s1

/-- CAUSE READ (R187). In STARTING it is refused with 0x00 bytes and records nothing (R183). -/
def execCauseRead (n : Nat) (s : State) : Out :=
  if s.tp.phase = .starting then .next (closeFrame (zeros (1 + n)) s) else ok (causeFrame n s)

/-! ## Control orders -/

/-- CAUSE ENABLE (R188): bit k - 1 of the byte enables cause k, bit 7 is ignored (R193). -/
def execCauseEnable (set : Byte) (s : State) (ignored : Nat := 0) : Out :=
  runOrder (1 + ignored) (fun t => .ok { t with tp := { t.tp with enable := set &&& 0x7F } }) s

/-- DISPLAY SET (R120): bits 2 to 7 are ignored (R193). -/
def execDisplaySet (opts : Byte) (s : State) (ignored : Nat := 0) : Out :=
  runOrder (1 + ignored) (fun t =>
    .ok { t with comp := { t.comp with displayOn := opts.getLsbD 0, cursorBlink := opts.getLsbD 1 } }) s

/-- A change of link mode applied (R155). -/
def applyLoopback (on : Bool) (l : DeskLineUnit) : DeskLineUnit :=
  { l with
    loopback := on, held := none, fifo := [], buffer := [], rxState := .hunt
    rxOpen := false, sampling := false, breakHold := false, gapRunning := false }

/-- LOOPBACK SET in READY (R155). -/
def loopbackBody (on : Bool) (s : State) : Verdict :=
  if s.line.listenOnly then .error .refusedState
  else if on = s.line.loopback then .ok { s with line := { s.line with held := none } }
  else if s.line.tx = .send then .ok { s with line := { s.line with held := some on } }
  else .ok { s with line := applyLoopback on s.line }

/-- LOOPBACK SET (R155): bits 1 to 7 are ignored (R193). -/
def execLoopbackSet (opts : Byte) (s : State) (ignored : Nat := 0) : Out := runOrder (1 + ignored) (loopbackBody (opts.getLsbD 0)) s

/-! ## KEY -/

/-- A byte of a KEY order is offered to the key queue (R68). -/
def offerKey (b : Byte) (s : State) : State :=
  if keyOf b = none then s
  else if s.key.queue.length < keyQueueSize then setQueue (s.key.queue ++ [b]) s
  else pulseAlarm { s with key := { s.key with typeaheadLost := true } }

/-- The bytes of a KEY order, each offered in its turn (R68). -/
def offerKeys : List Byte → State → State
  | [], s => s
  | b :: bs, s => offerKeys bs (offerKey b s)

/-- KEY (R68): it records DONE whatever became of its bytes (R183). -/
def execKey (codes : List Byte) (s : State) : Out := runOrder codes.length (fun t => .ok (offerKeys codes t)) s

end Sys2Proof.Machine
end

