-- ==== Sys2Proof/Machine/FormOrders.lean ====
section
/-!
DEFINITION. The orders that define a form: FORM BEGIN, the record definitions and drops, FORM END, LABEL WRITE
(2.2 to 2.4).
-/
namespace Sys2Proof.Machine

/-! ## FORM BEGIN -/

/-- A legal geometry (R2, R3, R23). -/
def geometryLegal (h w d : Nat) : Bool :=
  h ≤ maxHeader && w ≤ maxWindow && h + w ≤ formRows && (if w = 0 then d = 0 else w ≤ d && d ≤ maxDepth)

/-- The form that FORM BEGIN opens (R23). -/
def openedForm (h w d : Nat) : FormStore := { FormStore.afterReset with state := .define, h := h, w := w, d := d }

/-- The active-tag set is emptied, each of its tags with a pending RETRACT (R24). -/
def retractTags (s : State) : State :=
  let t := placeAll .retract (activeTags s.desk) s
  { t with desk := { t.desk with active := [] } }

/-- A FORM BEGIN that is taken (R23, R111). -/
def openForm (h w d : Nat) (s : State) : State :=
  let t := retractTags s
  request .status
    { t with
      form := openedForm h w d
      cur := CursorEngine.afterReset
      key := { t.key with keyboard := .system, edit := none, lastError := none }
      send := SendAssembler.afterReset
      comp := { t.comp with image := [], items := [], rendering := false, remark := false } }

/-- FORM BEGIN in READY (R23). -/
def formBeginBody (h w d : Nat) (s : State) : Verdict :=
  if geometryLegal h w d then .ok (openForm h w d s) else .error .badArgument

/-- FORM BEGIN (R23). -/
def execFormBegin (h w d : Byte) (s : State) (ignored : Nat := 0) : Out := runOrder (3 + ignored) (formBeginBody h.toNat w.toNat d.toNat) s

/-! ## FIELD DEFINE and FIELD DROP -/

/-- The cells of two screen fields meet (R10). -/
def fieldsMeet (a b : FieldDef) : Bool := a.row = b.row && runsMeet a.col a.shape.length b.col b.shape.length

/-- The record breaks no condition of the screen field record rules (R6, R7, R8, R10). -/
def fieldLegal (f : FormStore) (fd : FieldDef) : Bool :=
  fieldAloneLegal fd && isFixedRow f fd.row && f.fields.all (fun g => g.number ≠ fd.number && !fieldsMeet fd g)

/-- The record a FIELD DEFINE supplies; none where a byte is one no table lists (R193, R194). -/
def fieldOf (number row col length kind decimals form attrs sumCol tag : Byte) : Option FieldDef :=
  (shapeOf length kind decimals form attrs).map (fun sh =>
    { number := number.toNat, row := row.toNat, col := col.toNat, shape := sh, sumCol := sumCol.toNat, tag := tag.toNat })

/-- FIELD DEFINE in READY (R25). -/
def fieldDefineBody (fd : Option FieldDef) (s : State) : Verdict :=
  if s.form.state ≠ .define then .error .refusedState
  else match fd with
    | none => .error .badArgument
    | some r =>
      if fieldLegal s.form r = false then .error .badArgument
      else if maxFields ≤ s.form.fields.length then .error .full
      else .ok { s with form := { s.form with fields := insertField r s.form.fields } }

/-- FIELD DEFINE (R25). -/
def execFieldDefine (number row col length kind decimals form attrs sumCol tag : Byte) (s : State) (ignored : Nat := 0) : Out :=
  runOrder (10 + ignored) (fieldDefineBody (fieldOf number row col length kind decimals form attrs sumCol tag)) s

/-- FIELD DROP in READY (R27). -/
def fieldDropBody (n : Nat) (s : State) : Verdict :=
  if s.form.state ≠ .define then .error .refusedState
  else if (findField s.form n).isNone then .error .badArgument
  else .ok { s with form := { s.form with fields := s.form.fields.filter (fun fd => fd.number ≠ n) } }

/-- FIELD DROP (R27). -/
def execFieldDrop (number : Byte) (s : State) (ignored : Nat := 0) : Out := runOrder (1 + ignored) (fieldDropBody number.toNat) s

/-! ## COLUMN DEFINE and COLUMN DROP -/

/-- The record breaks no condition of the body column record rules (R9, R10); no column is legal with W = 0. -/
def columnLegal (f : FormStore) (cd : ColumnDef) : Bool :=
  f.w > 0 && columnAloneLegal cd
    && f.cols.all (fun g => g.number ≠ cd.number && !runsMeet cd.col cd.shape.length g.col g.shape.length)

/-- The record a COLUMN DEFINE supplies (R193, R194). -/
def columnOf (number col length kind decimals form attrs opA opB : Byte) : Option ColumnDef :=
  (shapeOf length kind decimals form attrs).map (fun sh =>
    { number := number.toNat, col := col.toNat, shape := sh, opA := opA.toNat, opB := opB.toNat })

/-- COLUMN DEFINE in READY (R26). -/
def columnDefineBody (cd : Option ColumnDef) (s : State) : Verdict :=
  if s.form.state ≠ .define then .error .refusedState
  else match cd with
    | none => .error .badArgument
    | some r =>
      if columnLegal s.form r = false then .error .badArgument
      else if maxColumns ≤ s.form.cols.length then .error .full
      else .ok { s with form := { s.form with cols := insertCol r s.form.cols } }

/-- COLUMN DEFINE (R26). -/
def execColumnDefine (number col length kind decimals form attrs opA opB : Byte) (s : State) (ignored : Nat := 0) : Out :=
  runOrder (9 + ignored) (columnDefineBody (columnOf number col length kind decimals form attrs opA opB)) s

/-- COLUMN DROP in READY (R27). -/
def columnDropBody (n : Nat) (s : State) : Verdict :=
  if s.form.state ≠ .define then .error .refusedState
  else if (findCol s.form n).isNone then .error .badArgument
  else .ok { s with form := { s.form with cols := s.form.cols.filter (fun cd => cd.number ≠ n) } }

/-- COLUMN DROP (R27). -/
def execColumnDrop (number : Byte) (s : State) (ignored : Nat := 0) : Out := runOrder (1 + ignored) (columnDropBody number.toNat) s

/-! ## FORM END -/

/-- A column of the table is of a kind that `p` allows. -/
def colKind (f : FormStore) (p : Kind → Bool) (c : Nat) : Bool :=
  match findCol f c with
  | some cd => p cd.shape.kind
  | none => false

/-- Sum links: every sum names a NUMBER or PRODUCT column (R28). -/
def sumLinks (f : FormStore) : Bool :=
  f.fields.all (fun fd => !isSumKind fd.shape.kind || colKind f (fun k => k = .number || k = .product) fd.sumCol)

/-- Product operands: every PRODUCT names two NUMBER columns (R28). -/
def productLinks (f : FormStore) : Bool :=
  f.cols.all (fun cd => cd.shape.kind ≠ .product || (colKind f (· = .number) cd.opA && colKind f (· = .number) cd.opB))

/-- The tags of the DESK SUM fields, in screen order. -/
def deskTags (f : FormStore) : List Nat := (f.fields.filter (fun fd => fd.shape.kind = .deskSum)).map (·.tag)

/-- Tag use: no two DESK SUM fields name the same tag (R28). -/
def tagUse (f : FormStore) : Bool := decide (deskTags f).Nodup

/-- The tests of FORM END (R28). -/
def formSound (f : FormStore) : Bool := sumLinks f && productLinks f && tagUse f && (f.w = 0 || f.w ≤ f.d)

/-- The form with its values and lines created (R28). -/
def activated (f : FormStore) : FormStore :=
  { f with state := .active, vals := newVals f, lines := List.replicate f.d (newLine f) }

/-- Each tag with a local contribution of 0 (R24). -/
def zeroShares : List Nat → List (Nat × Share)
  | [] => []
  | t :: ts => assocPut (zeroShares ts) t (.value 0)

/-- The full repaint (R28, R109). -/
def fullRepaint (f : FormStore) : List Item :=
  Item.clear :: Item.labels :: fieldItems (f.fields.map (·.number)) ++ allBodyRows f ++ [Item.status]

/-- A FORM END whose tests pass (R24, R28, R106). -/
def activate (s : State) : State :=
  let f := activated s.form
  let s1 := { s with form := f, desk := { s.desk with active := zeroShares (deskTags f) } }
  let s2 := placeAll .tally (deskTags f) (recompute 0 f.d s1)
  requestAll (fullRepaint f)
    { s2 with
      key := { s2.key with keyboard := .free }
      cur := { row := (homeCell f).1, col := (homeCell f).2, top := 0 } }

/-- FORM END in READY (R28). -/
def formEndBody (s : State) : Verdict :=
  if s.form.state ≠ .define then .error .refusedState
  else if formSound s.form then .ok (activate s) else .error .badArgument

/-- FORM END (R28). -/
def execFormEnd (s : State) (ignored : Nat := 0) : Out := runOrder ignored formEndBody s

/-! ## LABEL WRITE -/

/-- The arguments of a LABEL WRITE: the LINE plane or the SCREEN plane, the rectangle, DOWN or ACROSS, the format. -/
structure LabelArgs where
  linePlane : Bool
  r0 : Nat
  c0 : Nat
  r1 : Nat
  c1 : Nat
  down : Bool
  format : Format
  deriving DecidableEq, Repr

/-- A choice byte with the codes 0 and 1 (R193). -/
def choiceOf (b : Byte) : Option Bool :=
  match b.toNat with
  | 0 => some false
  | 1 => some true
  | _ => none

/-- The arguments as clocked; none for a byte no table lists (R193, R194). -/
def labelArgs (plane r0 c0 r1 c1 direction format : Byte) : Option LabelArgs :=
  match choiceOf plane, choiceOf direction, formatOf format with
  | some p, some d, some f =>
    some { linePlane := p, r0 := r0.toNat, c0 := c0.toNat, r1 := r1.toNat, c1 := c1.toNat, down := d, format := f }
  | _, _, _ => none

/-- The rectangle is legal (R29). -/
def rectLegal (f : FormStore) (a : LabelArgs) : Bool :=
  a.r0 ≤ a.r1 && a.c0 ≤ a.c1 && a.c1 < screenCols
    && (if a.linePlane then a.r0 = 0 && a.r1 = 0 && f.w > 0
        else a.r1 < formRows && (List.range (a.r1 + 1 - a.r0)).all (fun k => isFixedRow f (a.r0 + k)))

/-- The cells of the rectangle in the order they are written (R30). -/
def rectCells (a : LabelArgs) : List Nat :=
  let rows := (List.range (a.r1 + 1 - a.r0)).map (a.r0 + ·)
  let cols := (List.range (a.c1 + 1 - a.c0)).map (a.c0 + ·)
  if a.down then cols.flatMap (fun c => rows.map (fun r => cellKey r c))
  else rows.flatMap (fun r => cols.map (fun c => cellKey r c))

/-- Characters written one by one into the cells, after the last cell into the first again (R30); `rest` are the
cells still ahead in this round. -/
def writeLabel (cells : List Nat) : List Nat → Text → List (Nat × Byte) → List (Nat × Byte)
  | _, [], plane => plane
  | [], b :: bs, plane =>
    match cells with
    | [] => plane
    | k :: ks => writeLabel cells ks bs (cellWrite blank plane k b)
  | k :: ks, b :: bs, plane => writeLabel cells ks bs (cellWrite blank plane k b)

/-- The form with the characters written into a plane (R30). The key of a LINE cell is its column: row 0. -/
def labelled (a : LabelArgs) (t : Text) (f : FormStore) : FormStore :=
  if a.linePlane then { f with linePlane := writeLabel (rectCells a) (rectCells a) t f.linePlane }
  else { f with screenPlane := writeLabel (rectCells a) (rectCells a) t f.screenPlane }

/-- What a LABEL WRITE queues in ACTIVE (R30). -/
def labelItems (f : FormStore) (a : LabelArgs) : List Item :=
  if f.state = .active then (if a.linePlane then allBodyRows f else [Item.labels]) else []

/-- LABEL WRITE in READY (R29, R30). -/
def labelWriteBody (args : Option LabelArgs) (data : List Byte) (s : State) : Verdict :=
  if s.form.state = .empty then .error .refusedState
  else match args with
    | none => .error .badArgument
    | some a =>
      if rectLegal s.form a = false then .error .badArgument
      else match decodeData a.format data with
        | none => .error .badValue
        | some t => .ok (requestAll (labelItems s.form a) { s with form := labelled a t s.form })

/-- LABEL WRITE (R29, R30). -/
def execLabelWrite (plane r0 c0 r1 c1 direction format : Byte) (data : List Byte) (s : State) : Out :=
  runOrder (7 + data.length) (labelWriteBody (labelArgs plane r0 c0 r1 c1 direction format) data) s

end Sys2Proof.Machine
end

