-- ==== Sys2Proof/Machine/ContentOrders.lean ====
section
/-!
DEFINITION. System writes, streams, reads, ENTRIES CLEAR, and the cursor and window orders (2.6 to 2.10).
-/
namespace Sys2Proof.Machine

/-- The tests of form state and send state that a content order refused BUSY makes first (R22, R135). -/
def contentGate (s : State) : Option OrderOutcome :=
  if s.form.state ≠ .active then some .refusedState
  else if s.send.state = .assembling then some .refusedBusy
  else none

/-! ## System writes -/

/-- The arguments that FIELD WRITE and CELL WRITE share: overlay, mark-modified, start offset and input format. -/
structure WriteArgs where
  overlay : Bool
  mark : Bool
  start : Nat
  format : Format
  deriving DecidableEq, Repr

/-- Write mode, start offset and input format as clocked; none for a byte no table lists (R193). -/
def writeArgs (mode start format : Byte) : Option WriteArgs :=
  if 3 < mode.toNat then none
  else (formatOf format).map (fun f =>
    { overlay := mode.getLsbD 0, mark := mode.getLsbD 1, start := start.toNat, format := f })

/-- The write of decoded data to an instance that may be written: BAD ARGUMENT for a start offset outside the
instance, BAD VALUE for data its format or its destination refuses (R31 to R38). -/
def writeInst (i : Inst) (sh : Shape) (a : WriteArgs) (data : List Byte) (s : State) : Verdict :=
  if sh.length ≤ a.start then .error .badArgument
  else match decodeData a.format data with
    | none => .error .badValue
    | some t =>
      match writtenValue sh a.overlay a.start ((instValue s.form i).getD .absent) t with
      | none => .error .badValue
      | some v => .ok (storeSystem i sh a.mark v s)

/-- FIELD WRITE in READY (R33). -/
def fieldWriteBody (n : Nat) (args : Option WriteArgs) (data : List Byte) (s : State) : Verdict :=
  match contentGate s with
  | some o => .error o
  | none =>
    match findField s.form n, args with
    | some fd, some a =>
      if isSumKind fd.shape.kind then .error .badArgument else writeInst (.field n) fd.shape a data s
    | _, _ => .error .badArgument

/-- FIELD WRITE (R33, R34, R36 to R38). -/
def execFieldWrite (field mode start format : Byte) (data : List Byte) (s : State) : Out :=
  runOrder (4 + data.length) (fieldWriteBody field.toNat (writeArgs mode start format) data) s

/-- CELL WRITE in READY (R35). -/
def cellWriteBody (l c : Nat) (args : Option WriteArgs) (data : List Byte) (s : State) : Verdict :=
  match contentGate s with
  | some o => .error o
  | none =>
    if s.form.d ≤ l then .error .badArgument
    else match findCol s.form c, args with
      | some cd, some a =>
        if cd.shape.kind = .product ∨ cd.shape.kind = .ordinal then .error .badArgument
        else writeInst (.cell l c) cd.shape a data s
      | _, _ => .error .badArgument

/-- CELL WRITE (R34 to R38). -/
def execCellWrite (line col mode start format : Byte) (data : List Byte) (s : State) : Out :=
  runOrder (5 + data.length) (cellWriteBody line.toNat col.toNat (writeArgs mode start format) data) s

/-! ## Streams -/

/-- STREAM BEGIN in READY (R39). -/
def streamBeginBody (n : Nat) (s : State) : Verdict :=
  if s.form.state ≠ .active then .error .refusedState
  else match findField s.form n with
    | some fd =>
      if isSumKind fd.shape.kind then .error .badArgument
      else .ok { s with tp := { s.tp with stream := some { field := n, header := decide (fd.row < s.form.h) } } }
    | none => .error .badArgument

/-- STREAM BEGIN (R39). -/
def execStreamBegin (field : Byte) (s : State) (ignored : Nat := 0) : Out := runOrder (1 + ignored) (streamBeginBody field.toNat) s

/-- The field is in the stream's region and may be written (R40). -/
def streamTakes (f : FormStore) (header : Bool) (fd : FieldDef) : Bool :=
  !isSumKind fd.shape.kind && (decide (fd.row < f.h) == header)

/-- The stream after a write of its pointed field: the next field in screen order that the stream takes (R40). -/
def nextStream (f : FormStore) (st : Stream) : Option Stream :=
  (((f.fields.dropWhile (fun fd => fd.number ≠ st.field)).drop 1).find? (streamTakes f st.header)).map
    (fun fd => { st with field := fd.number })

/-- STREAM NEXT in READY (R40): as a FIELD WRITE in replace mode at offset 0 without mark-modified. DESIGN CHOICE: with no
stream it is refused REFUSED STATE while a send is being assembled too, since the stream is tested before the send state:
R40 and R41 give REFUSED STATE there, R135 and the table of 2.1 REFUSED BUSY (notes/assumptions/35.md). -/
def streamNextBody (format : Option Format) (data : List Byte) (s : State) : Verdict :=
  match s.tp.stream with
  | none => .error .refusedState
  | some st =>
    if s.send.state = .assembling then .error .refusedBusy
    else match findField s.form st.field, format with
      | some fd, some f =>
        match writeInst (.field st.field) fd.shape { overlay := false, mark := false, start := 0, format := f } data s with
        | .ok t => .ok { t with tp := { t.tp with stream := nextStream s.form st } }
        | .error o => .error o
      | _, _ => .error .badArgument

/-- STREAM NEXT (R40). -/
def execStreamNext (format : Byte) (data : List Byte) (s : State) : Out :=
  runStreamOrder (1 + data.length) (streamNextBody (formatOf format) data) s

/-! ## Reads -/

/-- The text a read returns of an instance (R42). -/
def readText (f : FormStore) (i : Inst) (sh : Shape) : Text :=
  match sh.kind, i with
  | .ordinal, .cell l _ => decText (l + 1)
  | _, _ => canonicalText sh.decimals ((instValue f i).getD .absent)

/-- The reply of FIELD READ and CELL READ: a length and the text (R42, R194). -/
def instReply (s : State) (i : Inst) : Except OrderOutcome (List Byte) :=
  if s.form.state ≠ .active then .error .refusedState
  else if instExists s.form i = false then .error .badArgument
  else match instShape s.form i with
    | some sh => .ok (BitVec.ofNat 8 (readText s.form i sh).length :: readText s.form i sh)
    | none => .error .badArgument

/-- FIELD READ (R42). -/
def execFieldRead (field : Byte) (n : Nat) (s : State) : Out :=
  runRead 1 n (fun t => instReply t (.field field.toNat)) id s

/-- CELL READ (R42). -/
def execCellRead (line col : Byte) (n : Nat) (s : State) : Out :=
  runRead 2 n (fun t => instReply t (.cell line.toNat col.toNat)) id s

/-- A line, or 0xFF for none (R193). -/
def lineByte : Option Nat → Byte
  | some l => BitVec.ofNat 8 l
  | none => 0xFF

/-- The line under the cursor as CURSOR READ and a send block report it: none while the form is not ACTIVE, when T is
0 and no line exists (R45, R66). -/
def reportedLine (s : State) : Option Nat := if s.form.state = .active then cursorLine s else none

/-- The reply of CURSOR READ (R45, R194). -/
def cursorReply (s : State) : List Byte :=
  [BitVec.ofNat 8 s.cur.row, BitVec.ofNat 8 s.cur.col, lineByte (reportedLine s)]

/-- CURSOR READ (R45). -/
def execCursorRead (n : Nat) (s : State) : Out := runRead 0 n (fun t => .ok (cursorReply t)) id s

/-! ## ENTRIES CLEAR -/

/-- ENTRIES CLEAR in READY (R43). -/
def entriesClearBody (s : State) : Verdict :=
  match contentGate s with
  | some o => .error o
  | none => .ok (clearEntries false s)

/-- ENTRIES CLEAR (R43). -/
def execEntriesClear (s : State) (ignored : Nat := 0) : Out := runOrder ignored entriesClearBody s

/-! ## Cursor and window orders -/

/-- The abandoned edit's item, queued after what the move of cursor or window queues (R44, R46). -/
def abandonedItem (before s : State) : State :=
  match editInst before with
  | some i => requestInst i s
  | none => s

/-- The pending edit abandoned, and the cursor and T set (R44, R46). -/
def abandonAndPlace (r c top : Nat) (s : State) : State := abandonedItem s (placeCursor r c top (dropEdit s))

/-- The target of CURSOR SET: row, column and T (R44, R194). -/
def cursorTarget (form a b : Byte) (s : State) : Option (Nat × Nat × Nat) :=
  if form.toNat = 3 then
    (if a.toNat < formRows ∧ b.toNat < screenCols then some (a.toNat, b.toNat, s.cur.top) else none)
  else (instOf form a b).bind (seekInst s)

/-- CURSOR SET in READY (R44). -/
def cursorSetBody (form a b : Byte) (s : State) : Verdict :=
  match contentGate s with
  | some o => .error o
  | none =>
    match cursorTarget form a b s with
    | some (r, c, top) => .ok (abandonAndPlace r c top s)
    | none => .error .badArgument

/-- CURSOR SET (R44). -/
def execCursorSet (form a b : Byte) (s : State) (ignored : Nat := 0) : Out := runOrder (3 + ignored) (cursorSetBody form a b) s

/-- WINDOW SET in READY (R46): the value is clamped to 0 to D - W. -/
def windowSetBody (t : Nat) (s : State) : Verdict :=
  match contentGate s with
  | some o => .error o
  | none => .ok (abandonAndPlace s.cur.row s.cur.col (min t (s.form.d - s.form.w)) s)

/-- WINDOW SET (R46). -/
def execWindowSet (t : Byte) (s : State) (ignored : Nat := 0) : Out := runOrder (1 + ignored) (windowSetBody t.toNat) s

end Sys2Proof.Machine
end

