-- ==== Sys2Proof/Machine/SendOrders.lean ====
section
/-!
DEFINITION. SEND and the signal keys, the assembly, BLOCK READ, RELEASE and REJECT (chapter 7).
-/
namespace Sys2Proof.Machine

/-! ## The mandatory check (R125) -/

/-- The instance is empty: its value is absent. -/
def instEmpty (f : FormStore) (i : Inst) : Bool := valueAbsent ((instValue f i).getD .absent)

/-- The mandatory fields of the header or the footer, in the order of the table. -/
def mandatoryFields (f : FormStore) (header : Bool) : List Inst :=
  (f.fields.filter (fun fd => fd.shape.opts.mandatory && (decide (fd.row < f.h) == header))).map (fun fd => Inst.field fd.number)

/-- The mandatory body instances of one line, in the order of the column table. -/
def mandatoryCells (f : FormStore) (l : Nat) : List Inst :=
  if lineEnteredAt f l then (f.cols.filter (fun cd => cd.shape.opts.mandatory)).map (fun cd => Inst.cell l cd.number) else []

/-- The instances the check examines, in its order: header, lines 0 to D - 1, footer. -/
def examined (f : FormStore) : List Inst :=
  mandatoryFields f true ++ (List.range f.d).flatMap (mandatoryCells f) ++ mandatoryFields f false

/-- The first empty mandatory instance (R125). -/
def offender (f : FormStore) : Option Inst := (examined f).find? (instEmpty f)

/-! ## SEND and the signal keys -/

/-- The keyboard LOCKED and the send state ASSEMBLING, with the key code and the cursor recorded (R126, R127). -/
def beginAssembly (code : Byte) (s : State) : State :=
  setKeyboard .locked
    { s with send := { state := .assembling
                       record := some { code := code, row := s.cur.row, col := s.cur.col, line := cursorLine s }
                       block := [], readPos := 0 } }

/-- The cursor placed on an instance as CURSOR SET places it (R44, R125, R137). -/
def placeOn (i : Inst) (s : State) : State :=
  match seekInst s i with
  | some (r, c, top) => placeCursor r c top s
  | none => s

/-- SEND after its completion: the mandatory check, then the assembly (R125, R126). -/
def sendChecked (s : State) : State :=
  match offender s.form with
  | some i => raiseError .mandatoryEmpty (placeOn i s)
  | none => beginAssembly sendCode s

/-- SEND (R124). -/
def execSend (s : State) : Out := takeKey .send (fun _ t => afterCompletion sendChecked t) s

/-- A signal key (R127). -/
def execSignalKey (s : State) : Out := takeKey .signal (fun b t => beginAssembly b (abandonEdit t)) s

/-! ## The block (R129, R130, R197) -/

/-- The text of a value in an item (R130). -/
def itemText (sh : Shape) (v : Value) : Text :=
  match sh.kind, v with
  | .text, .text t => (t.reverse.dropWhile (fun b => b = blank)).reverse
  | _, _ => canonicalText sh.decimals v

/-- A length and the text (R197). -/
def lengthText (t : Text) : List Byte := BitVec.ofNat 8 t.length :: t

/-- A FIELD item (R129). -/
def fieldItem (f : FormStore) (fd : FieldDef) : List Byte :=
  0x01 :: BitVec.ofNat 8 fd.number :: lengthText (itemText fd.shape ((instValue f (.field fd.number)).getD .absent))

/-- The screen field has its modified flag set. -/
def fieldModified (f : FormStore) (fd : FieldDef) : Bool := ((valFind f.vals fd.number).map (·.modified)).getD false

/-- The FIELD items, in the order of the screen field table. -/
def fieldItemList (f : FormStore) : List (List Byte) := (f.fields.filter (fieldModified f)).map (fieldItem f)

/-- The entry columns in column-number order (R129). -/
def entryColumns (f : FormStore) : List ColumnDef :=
  (List.range (maxColumns + 1)).filterMap (fun n =>
    match findCol f n with
    | some cd => if isEntryKind cd.shape.kind then some cd else none
    | none => none)

/-- A LINE item (R129). -/
def lineItem (f : FormStore) (l : Nat) (ln : LineRec) : List Byte :=
  0x02 :: BitVec.ofNat 8 l :: BitVec.ofNat 8 (bit (lineEntered f ln))
    :: (entryColumns f).flatMap (fun cd => lengthText (itemText cd.shape (lineValue ln cd.number)))

/-- The LINE items, in position order counted from `i`. -/
def lineItemList (f : FormStore) : Nat → List LineRec → List (List Byte)
  | _, [] => []
  | i, ln :: lns => if ln.modified then lineItem f i ln :: lineItemList f (i + 1) lns else lineItemList f (i + 1) lns

/-- The items of the block; none for a signal key (R127, R129). -/
def blockItems (f : FormStore) (code : Byte) : List (List Byte) :=
  if code = sendCode then fieldItemList f ++ lineItemList f 0 f.lines else []

/-- Two bytes, most significant first (R193). -/
def twoBytes (n : Nat) : List Byte := [BitVec.ofNat 8 (n / 256), BitVec.ofNat 8 n]

/-- The send block (R129, R197). -/
def sendBlock (f : FormStore) (r : SendRec) : List Byte :=
  [r.code, BitVec.ofNat 8 r.row, BitVec.ofNat 8 r.col, lineByte r.line]
    ++ twoBytes (blockItems f r.code).length ++ (blockItems f r.code).flatten

/-- An assembly that ends with the block too large (R131). -/
def blockTooLarge (s : State) : State := raiseError .blockTooLarge { s with send := SendAssembler.afterReset }

/-- ASSEMBLY_COMPLETE (R131, R132). -/
def execAssemblyComplete (s : State) : Out :=
  match s.send.state, s.send.record with
  | .assembling, some r =>
    if blockSize < (sendBlock s.form r).length then ok (blockTooLarge s)
    else ok { s with send := { s.send with state := .ready, block := sendBlock s.form r, readPos := 0 } }
  | _, _ => noEvent s

/-! ## BLOCK READ -/

/-- The reply of BLOCK READ: the block from the read position on (R133). -/
def blockReply (s : State) : Except OrderOutcome (List Byte) :=
  if s.send.state = .ready then .ok (s.send.block.drop s.send.readPos) else .error .refusedState

/-- The read position after `n` bytes wholly clocked; it stays at the end (R133). -/
def advanceRead (n : Nat) (s : State) : State :=
  { s with send := { s.send with readPos := min (s.send.readPos + n) s.send.block.length } }

/-- BLOCK READ (R133, R134). -/
def execBlockRead (n : Nat) (s : State) : Out := runRead 0 n blockReply (advanceRead n) s

/-! ## RELEASE and REJECT -/

/-- The send discarded, ASSEMBLING or READY (R136, R137). -/
def dropSend (s : State) : State := { s with send := SendAssembler.afterReset }

/-- A RELEASE that is taken (R136). -/
def releaseSend (clear toHome : Bool) (s : State) : State :=
  let s1 := dropSend s
  let s2 := if clear then { s1 with form := unmarkForm s1.form } else s1
  let s3 := if toHome then placeCursor (homeCell s2.form).1 (homeCell s2.form).2 s2.cur.top s2 else s2
  setKeyboard .free s3

/-- RELEASE in READY (R136). -/
def releaseBody (opts : Byte) (s : State) : Verdict :=
  if s.key.keyboard ≠ .locked then .error .refusedState
  else if 3 < opts.toNat then .error .badArgument
  else .ok (releaseSend (opts.getLsbD 0) (opts.getLsbD 1) s)

/-- RELEASE (R136). -/
def execRelease (opts : Byte) (s : State) (ignored : Nat := 0) : Out := runOrder (1 + ignored) (releaseBody opts) s

/-- A REJECT that is taken, with the instance it names (R137). -/
def rejectSend (code : Nat) (i : Option Inst) (message : Text) (s : State) : State :=
  let s1 := dropSend s
  let s2 := match i with
    | some x => placeOn x s1
    | none => s1
  setKeyboard .error { s2 with key := { s2.key with lastError := some (.reject code message) } }

/-- The cursor instance of a REJECT: none for form 0, an instance of the form for 1 and 2; the outer none refuses
(R137, R194). -/
def rejectInst (form a b : Byte) (f : FormStore) : Option (Option Inst) :=
  if form = 0 then some none
  else match instOf form a b with
    | some i => if instExists f i then some (some i) else none
    | none => none

/-- REJECT in READY (R137). -/
def rejectBody (code form a b : Byte) (message : List Byte) (s : State) : Verdict :=
  if s.key.keyboard ≠ .locked then .error .refusedState
  else match rejectInst form a b s.form with
    | none => .error .badArgument
    | some i =>
      if code.toNat < 20 ∨ 99 < code.toNat ∨ rejectMessageSize < message.length then .error .badArgument
      else .ok (rejectSend code.toNat i (message.map plainChar) s)

/-- REJECT (R137). -/
def execReject (code form a b : Byte) (message : List Byte) (s : State) : Out :=
  runOrder (4 + message.length) (rejectBody code form a b message) s

end Sys2Proof.Machine
end

