-- ==== Sys2Proof/Machine/DeskLine.lean ====
section
/-!
DEFINITION. The Desk Line Unit: the receiver and its FIFO (8.1, 8.2), the frame assembler (8.3), the transmitter
(8.4), loopback (8.5), and the retiring of outbound frames in the Desk Exchange (R172).
-/
namespace Sys2Proof.Machine

/-! ## The receiver -/

/-- The transmitter drives the line in normal mode, where the receiver takes nothing (R141). -/
def ownFrame (l : DeskLineUnit) : Bool := l.tx = .send && !l.loopback

/-- The characters of a frame before its check byte (R144). -/
def frameBody (f : Frame) : List Byte :=
  [f.dest, f.source, BitVec.ofNat 8 (kindCode f.kind), BitVec.ofNat 8 f.payload.length] ++ f.payload

/-- The sum of bytes mod 256. -/
def byteSum : List Byte → Byte := List.foldr (· + ·) 0

/-- The data bytes of a frame, the check byte last (R144). -/
def frameBytes (f : Frame) : List Byte := frameBody f ++ [0 - byteSum (frameBody f)]

/-- The characters of a frame: data and mark bit, the mark set on the head only (R144, R198). -/
def frameChars (f : Frame) : List (Byte × Bool) :=
  match frameBytes f with
  | [] => []
  | h :: t => (h, true) :: t.map (fun b => (b, false))

/-- The 11 bit times of a character on DTX, in their order: the start bit low, the data bits least significant first,
the mark bit, the stop bit high (R140). -/
def charBits (c : Byte × Bool) : List Bool := false :: (List.range 8).map c.1.getLsbD ++ [c.2, true]

/-- The bit times of a frame: its characters back to back (R140). -/
def frameBits (f : Frame) : List Bool := (frameChars f).flatMap charBits

/-- The level that the transmitter gives the line, or in loopback the loopback path, in bit time `n` of its frame;
where it sends nothing, both are high (R139, R140, R156). -/
def sentLevel (l : DeskLineUnit) (n : Nat) : Bool :=
  if l.tx = .send then ((l.frame.bind (fun f => (frameBits f)[n]?)).getD true) else true

/-- The byte of 8 data samples, least significant first. -/
def byteOfBits (bits : List Bool) : Byte :=
  bits.foldr (fun b acc => (if b then 1 else 0) + 2 * acc) 0

/-- What the receiver makes of the mid-bit samples of the 11 bit times after a falling edge: no character where the
start sample is high, else the data bits, the mark flag and the framing flag (R141). -/
def sampledChar (bits : List Bool) : Option (Byte × Bool × Bool) :=
  if bits.getD 0 true then none
  else some (byteOfBits ((bits.drop 1).take 8), bits.getD 9 true, !bits.getD 10 true)

/-- The character that the loopback path carries next (R156). -/
def loopedChar (l : DeskLineUnit) : Option (Byte × Bool) := l.frame.bind (fun f => (frameChars f)[l.looped]?)

/-- The receiver can take this character: after start-up and the receive listen, not in a break, not while this station
sends in normal mode; in loopback only the character the transmitter sends (R141, R142, R156, R158). -/
def canReceive (s : State) (data : Byte) (mark framing : Bool) : Bool :=
  s.tp.phase = .ready && s.line.rxOpen && !s.line.breakHold && !ownFrame s.line
    && (!s.line.loopback || (s.line.tx = .send && !framing && decide (loopedChar s.line = some (data, mark))))

/-- The gap timer starts at the end of the character, but is stopped while this station is in SEND, as in loopback it
is; the gap recorded before the character is spent (R147). -/
def endCharacter (framing : Bool) (l : DeskLineUnit) : DeskLineUnit :=
  { l with
    sampling := false, gapRunning := decide (l.tx ≠ .send), gapRecorded := false
    looped := if l.loopback then l.looped + 1 else l.looped
    flags := if framing then { l.flags with framing := true } else l.flags }

/-- A completed character enters the FIFO, or is lost with everything that was being built (R143). -/
def acceptChar (c : RxChar) (l : DeskLineUnit) : DeskLineUnit :=
  if l.fifo.length < fifoSize then { l with fifo := l.fifo ++ [c] }
  else { l with fifo := [], buffer := [], rxState := .hunt, flags := { l.flags with overrun := true } }

/-- CHARACTER_RECEIVED (R141, R143, R147). -/
def execCharacterReceived (data : Byte) (mark framing : Bool) (s : State) : Out :=
  if canReceive s data mark framing then
    ok { s with
      line := acceptChar { data := data, mark := mark, framing := framing, late := s.line.gapRecorded }
        (endCharacter framing s.line) }
  else noEvent s

/-- The receiver watches the line DRX: after start-up and the receive listen, in normal mode and not sending. -/
def watchesLine (s : State) : Bool :=
  s.tp.phase = .ready && s.line.rxOpen && !s.line.breakHold && !s.line.loopback && !ownFrame s.line

/-- BREAK_DETECTED (R142): BREAK is set, and the receiver takes no character until the line has gone high. -/
def execBreakDetected (s : State) : Out :=
  if watchesLine s then
    ok { s with line := { s.line with breakHold := true, sampling := false, flags := { s.line.flags with brk := true } } }
  else noEvent s

/-- LINE_HIGH_AFTER_BREAK (R142). -/
def execLineHighAfterBreak (s : State) : Out :=
  if s.line.breakHold then ok { s with line := { s.line with breakHold := false } } else noEvent s

/-- RECEIVE_LISTEN_COMPLETE (R141, R158). -/
def execReceiveListenComplete (s : State) : Out :=
  if s.tp.phase = .ready ∧ s.line.rxOpen = false then ok { s with line := { s.line with rxOpen := true } } else noEvent s

/-- A falling edge can come: on the line, unless a break holds it low or this station drives it; on the loopback path
while the transmitter sends (R141, R156). -/
def edgePossible (s : State) : Bool :=
  s.tp.phase = .ready && !s.line.breakHold && (if s.line.loopback then s.line.tx = .send else !ownFrame s.line)

/-- START_BIT (R141, R147, R150): the gap timer stops, and once the receive listen has completed a character is
sampled; while it is, no count of line-high of more than a character can be reached (see `lineQuiet`). -/
def execStartBit (s : State) : Out :=
  if edgePossible s then ok { s with line := { s.line with gapRunning := false, sampling := s.line.rxOpen } }
  else noEvent s

/-! ## The frame assembler -/

/-- GAP_TIMER_EXPIRY (R147). -/
def execGapTimerExpiry (s : State) : Out :=
  if s.line.gapRunning then
    let l := { s.line with gapRunning := false, gapRecorded := true }
    ok { s with
      line := if l.rxState = .accept ∧ l.fifo = [] then
          { l with rxState := .hunt, buffer := [], flags := { l.flags with timeout := true } }
        else l }
  else noEvent s

/-- A head is accepted when it is addressed to all stations, or to this one where it is not listen-only (R145). -/
def acceptsHead (l : DeskLineUnit) (dest : Byte) : Bool :=
  dest = allStations || (dest.toNat = l.station.toNat && l.station.toNat < firstListenOnly)

/-- A character judged as in HUNT and SKIP: only a head counts (R145). -/
def judgeHead (c : RxChar) (l : DeskLineUnit) : DeskLineUnit :=
  if c.mark = true ∧ c.framing = false then
    (if acceptsHead l c.data then { l with rxState := .accept, buffer := [c.data] }
     else { l with rxState := .skip, buffer := [] })
  else l

/-- The frame in progress is abandoned: HUNT, with an empty frame buffer. -/
def abandonFrame (l : DeskLineUnit) : DeskLineUnit := { l with rxState := .hunt, buffer := [] }

/-- The LENGTH link flag set. -/
def flagLength (l : DeskLineUnit) : DeskLineUnit := { l with flags := { l.flags with length := true } }

/-- The payload lengths of a kind (R144). -/
def lengthLegal (k : FrameKind) (n : Nat) : Bool :=
  match k with
  | .greet | .pause | .resume => n = 0
  | .tally => n = 12
  | .retract => n = 1
  | .banner => n ≤ maxBannerText
  | .pass => 1 ≤ n && n ≤ maxPassText

/-- The destinations of a kind (R144): 31, or one station for a PASS. -/
def destLegal (k : FrameKind) (dest : Byte) : Bool :=
  match k with
  | .pass => dest.toNat < firstListenOnly
  | _ => dest = allStations

/-- The kinds a looped frame is handed on for (R156). -/
def loopedKind : FrameKind → Bool
  | .pass | .banner => true
  | _ => false

/-- Validation of a frame whose check passed, and its hand-off (R148, R156). -/
def validate (bytes : List Byte) (l : DeskLineUnit) : DeskLineUnit :=
  let src := bytes.getD 1 0
  let n := (bytes.getD 3 0).toNat
  if firstListenOnly ≤ src.toNat then flagLength l
  else if l.loopback = false ∧ src.toNat = l.station.toNat then { l with flags := { l.flags with clash := true } }
  else match frameKindOf (bytes.getD 2 0) with
    | none => flagLength l
    | some k =>
      if lengthLegal k n = false ∨ destLegal k (bytes.getD 0 0) = false then flagLength l
      else if l.loopback = true ∧ loopedKind k = false then l
      else { l with
        handoff := some { dest := bytes.getD 0 0, source := src, kind := k, payload := (bytes.drop 4).take n } }

/-- The check of a complete frame (R148); the receiver state then becomes HUNT. -/
def checkFrame (l : DeskLineUnit) : DeskLineUnit :=
  let h := abandonFrame l
  if byteSum l.buffer = 0 then validate l.buffer h else { h with flags := { h.flags with check := true } }

/-- A character appended in ACCEPT: a length above 72 abandons the frame, a full frame goes to the check (R146). -/
def appendChar (b : Byte) (l : DeskLineUnit) : DeskLineUnit :=
  let t := { l with buffer := l.buffer ++ [b] }
  let n := (t.buffer.getD 3 0).toNat
  if t.buffer.length < 4 then t
  else if t.buffer.length = 4 ∧ maxLengthByte < n then flagLength (abandonFrame t)
  else if t.buffer.length = 5 + n then checkFrame t
  else t

/-- The frame assembler acts on a character by the receiver state (R145, R146). -/
def assemble (c : RxChar) (l : DeskLineUnit) : DeskLineUnit :=
  match l.rxState with
  | .hunt | .skip => judgeHead c l
  | .accept =>
    if c.late then
      judgeHead c (abandonFrame { l with flags := { l.flags with timeout := true } })
    else if c.framing then abandonFrame l
    else if c.mark then judgeHead c (flagLength (abandonFrame l))
    else appendChar c.data l

/-- FRAME_ASSEMBLER_CHARACTER (R143, R145, R146): the head of the FIFO is taken while the holding place is empty. -/
def execFrameAssemblerCharacter (s : State) : Out :=
  match s.line.fifo, s.line.handoff with
  | c :: cs, none => ok { s with line := assemble c { s.line with fifo := cs } }
  | _, _ => noEvent s

/-! ## Supplying and retiring a selection (R172) -/

/-- The content of a message frame to be sent by station `n`. -/
def messageFrame (n : Byte) : OutMsg → Frame
  | .pass dest text => { dest := dest, source := n, kind := .pass, payload := text }
  | .banner text => { dest := allStations, source := n, kind := .banner, payload := text }

/-- This station's number as a source. -/
def ownNumber (l : DeskLineUnit) : Byte := BitVec.ofNat 8 l.station.toNat

/-- The content of a selected place as it stands (R172); none for an empty place, which no selection names. -/
def supply (d : DeskExchange) (n : Byte) : Place → Option Frame
  | .greet => some { dest := allStations, source := n, kind := .greet, payload := [] }
  | .flow => d.flow.map (fun f =>
      { dest := allStations, source := n, kind := match f with | .pause => .pause | .resume => .resume, payload := [] })
  | .tag t =>
    match assocGet d.tallies t with
    | some .tally => (assocGet d.active t).map (fun sh =>
        { dest := allStations, source := n, kind := .tally, payload := BitVec.ofNat 8 t :: shareBytes sh })
    | some .retract => some { dest := allStations, source := n, kind := .retract, payload := [BitVec.ofNat 8 t] }
    | none => none
  | .message i => (d.messages[i]?).map (messageFrame n)

/-- A place emptied (R172). -/
def emptyPlace (d : DeskExchange) : Place → DeskExchange
  | .greet => { d with greet := false }
  | .flow => { d with flow := none }
  | .tag t => { d with tallies := assocDel d.tallies t }
  | .message i => { d with messages := dropAt d.messages i }

/-- The selection retired at the completion or the drop of its frame: a place still marked taken is emptied; SPACE is
raised when the message queue goes from 6 frames to 5 (R170, R172). -/
def retire (s : State) : State :=
  match s.line.selection with
  | none => s
  | some p =>
    let d := if s.line.taken then emptyPlace s.desk p else s.desk
    let t := { s with desk := d, line := { s.line with selection := none, taken := false, frame := none } }
    if s.desk.messages.length = messageQueueSize ∧ d.messages.length + 1 = messageQueueSize then raiseSpace t else t

/-! ## The transmitter -/

/-- The line, or the loopback path, can be quiet: no break holds it low and no character is being sampled. A count of
more than 11 bit times of line-high can be reached only then (R150, R153, R158). -/
def lineQuiet (s : State) : Bool := s.tp.phase = .ready && !s.line.breakHold && !s.line.sampling

/-- JOIN_LISTEN_COMPLETE (R158): the transmitter may now ask, which the end of the command does. -/
def execJoinListenComplete (s : State) : Out :=
  if lineQuiet s = true ∧ s.line.joined = false then ok { s with line := { s.line with joined := true } } else noEvent s

/-- The entry to SEND (R149, R151, R172): the place is marked taken; in normal mode a frame in ACCEPT is abandoned with
LENGTH (R146) and the gap timer stops (R147). -/
def enterSend (f : Frame) (l : DeskLineUnit) : DeskLineUnit :=
  let t := { l with tx := .send, need := 0, taken := true, frame := some f, looped := 0, gapRunning := false, sampling := false }
  if t.loopback = false ∧ t.rxState = .accept then flagLength (abandonFrame t) else t

/-- ACCESS_GAP_REACHED (R150). -/
def execAccessGapReached (s : State) : Out :=
  if lineQuiet s = true ∧ s.line.tx = .defer then
    match s.line.selection.bind (supply s.desk (ownNumber s.line)) with
    | some f => ok { s with line := enterSend f s.line }
    | none => noEvent s
  else noEvent s

/-- The transmitter leaves SEND: a held change of link mode is applied (R155). -/
def leaveSend (l : DeskLineUnit) : DeskLineUnit :=
  match l.held with
  | some on => applyLoopback on l
  | none => { l with sampling := false }

/-- The transmitter enters YIELD after a frame completed or was dropped (R151, R152, R153). -/
def enterYield (s : State) : State :=
  let t := retire s
  { t with line := leaveSend { t.line with tx := .yield, need := yieldTime, attempts := 0, frame := none } }

/-- Every character of the frame being sent has gone where it goes: in loopback each goes to the receiver, once its
listen has completed, before the frame is complete (R141, R156). -/
def charsDelivered (l : DeskLineUnit) : Bool := !l.loopback || !l.rxOpen || decide (loopedChar l = none)

/-- FRAME_SENT (R151, R156): the last character has been sent, and in loopback received. -/
def execFrameSent (s : State) : Out :=
  if s.line.tx = .send ∧ charsDelivered s.line = true then ok (enterYield s) else noEvent s

/-- A collision that is not the sixth: BACKOFF with the same selection (R152). -/
def enterBackoff (s : State) : State :=
  let k := s.line.attempts + 1
  { s with line := leaveSend { s.line with
      tx := .backoff, need := backoffTime k s.line.station.toNat, attempts := k, frame := none } }

/-- The sixth collision: the frame is dropped (R152). -/
def dropFrame (s : State) : State :=
  enterYield { s with
    line := { s.line with
      flags := { s.line.flags with dropped := true }
      lastDropped := s.line.frame.map (·.kind) } }

/-- COLLISION (R152). In loopback a character always comes back the same (R156). -/
def execCollision (s : State) : Out :=
  if s.line.tx = .send ∧ s.line.loopback = false then
    (if s.line.attempts + 1 < dropAttempts then ok (enterBackoff s) else ok (dropFrame s))
  else noEvent s

/-- BACKOFF_COMPLETE (R152). The count may be shorter than a character, so only a break holds it back. -/
def execBackoffComplete (s : State) : Out :=
  if s.tp.phase = .ready ∧ s.line.tx = .backoff ∧ s.line.breakHold = false then
    ok { s with line := { s.line with tx := .defer, need := accessGap s.line.station.toNat } }
  else noEvent s

/-- YIELD_COMPLETE (R153). -/
def execYieldComplete (s : State) : Out :=
  if lineQuiet s = true ∧ s.line.tx = .yield then ok (askArbiter s) else noEvent s

end Sys2Proof.Machine
end

