-- ==== Sys2Proof/Machine/DeskExchange.lean ====
section
/-!
DEFINITION. The Desk Exchange: the application of received frames (9.1), desk ticks (9.2, 9.3, 9.7, 9.8), the message
orders (9.4, 9.6), and DESK READ (R157, R166).
-/
namespace Sys2Proof.Machine

/-! ## The application of a received frame (R160) -/

/-- The frame in the hand-off holding place, when it is of kind `k` and the device is READY. -/
def handedOff (k : FrameKind) (s : State) : Option Frame :=
  match s.line.handoff with
  | some f => if s.tp.phase = .ready ∧ f.kind = k then some f else none
  | none => none

/-- The completion of an application empties the holding place (R160). -/
def clearHandoff (s : State) : State := { s with line := { s.line with handoff := none } }

/-- The completion of the application of a frame of kind `k`, with the effect `effect` (R160). -/
def applyFrame (k : FrameKind) (effect : Frame → State → State) (s : State) : Out :=
  match handedOff k s with
  | some f => ok (effect f (clearHandoff s))
  | none => noEvent s

/-- The source of a frame. -/
def sourceOf (f : Frame) : Nat := f.source.toNat

/-- The contribution table changed, and the desk sums that follow from it (R105). -/
def retable (g : List (Nat × Entry) → List (Nat × Entry)) (s : State) : State :=
  recomputeDesk { s with desk := { s.desk with table := g s.desk.table } }

/-- The table without the entries of a source. -/
def dropSource (src : Nat) (m : List (Nat × Entry)) : List (Nat × Entry) := m.filter (fun p => keySource p.1 ≠ src)

/-- A station leaves the paused-station set with its hold timer (R176). -/
def unpause (src : Nat) (s : State) : State := { s with desk := { s.desk with paused := assocDel s.desk.paused src } }

/-- The effect of a GREET (R163). -/
def greetEffect (f : Frame) (s : State) : State :=
  retable (dropSource (sourceOf f)) (placeAll .tally (activeTags s.desk) (unpause (sourceOf f) s))

/-- GREET (R163). -/
def execGreet (s : State) : Out := applyFrame .greet greetEffect s

/-- The tag and the share a TALLY payload carries; none for a payload that R161 refuses. -/
def tallyOf : List Byte → Option (Nat × Share)
  | [] => none
  | t :: bs => if oneTo 8 t.toNat then (shareOfBytes bs).map (fun sh => (t.toNat, sh)) else none

/-- The effect of a TALLY (R161). -/
def tallyEffect (f : Frame) (s : State) : State :=
  match tallyOf f.payload with
  | some (t, sh) => retable (fun m => assocPut m (entryKey t (sourceOf f)) { share := sh, age := 0 }) s
  | none => setLength s

/-- TALLY (R161). -/
def execTally (s : State) : Out := applyFrame .tally tallyEffect s

/-- The effect of a RETRACT (R162). -/
def retractEffect (f : Frame) (s : State) : State :=
  let t := (f.payload.getD 0 0).toNat
  if 8 < t then setLength s
  else if t = 0 then retable (dropSource (sourceOf f)) s
  else retable (fun m => assocDel m (entryKey t (sourceOf f))) s

/-- RETRACT (R162). -/
def execRetract (s : State) : Out := applyFrame .retract retractEffect s

/-- A banner of a text: the empty text is no banner (R177). -/
def bannerOf : Text → Option Banner
  | [] => none
  | c :: cs => some { text := c :: cs, age := 0 }

/-- The banner replaced (R177). -/
def setBanner (t : Text) (s : State) : State :=
  request .status { s with desk := { s.desk with banner := bannerOf t } }

/-- The effect of a BANNER (R177). -/
def bannerEffect (f : Frame) (s : State) : State := setBanner (f.payload.map plainChar) s

/-- BANNER (R177). -/
def execBanner (s : State) : Out := applyFrame .banner bannerEffect s

/-- A record stored at the tail of the inbound queue. -/
def storeInbound (m : InMsg) (s : State) : State := { s with desk := { s.desk with inbound := s.desk.inbound ++ [m] } }

/-- The flow hold after a record was stored (R175). -/
def holdAfterStore (s : State) : State :=
  if pauseFill ≤ inboundFill s.desk ∧ s.desk.pauseSent = false then
    placeFlow .pause { s with desk := { s.desk with pauseSent := true } }
  else s

/-- A record that fits is stored, any other is discarded and the inbound-lost flag is set (R173). -/
def deliver (m : InMsg) (s : State) : State :=
  if inboundFill s.desk + recordSize m ≤ inboundSize then holdAfterStore (storeInbound m s)
  else { s with desk := { s.desk with inboundLost := true } }

/-- The effect of a PASS (R173). -/
def passEffect (f : Frame) (s : State) : State := deliver { source := f.source, text := f.payload } s

/-- PASS (R173). -/
def execPass (s : State) : Out := applyFrame .pass passEffect s

/-- The effect of a PAUSE (R176). -/
def pauseEffect (f : Frame) (s : State) : State :=
  { s with desk := { s.desk with paused := assocPut s.desk.paused (sourceOf f) holdTime } }

/-- PAUSE (R176). -/
def execPause (s : State) : Out := applyFrame .pause pauseEffect s

/-- RESUME (R176). -/
def execResume (s : State) : Out := applyFrame .resume (fun f t => unpause (sourceOf f) t) s

/-! ## Messages out (R170) -/

/-- A frame at the tail of the message queue. -/
def queueMessage (m : OutMsg) (s : State) : State := { s with desk := { s.desk with messages := s.desk.messages ++ [m] } }

/-- The tests that PASS SEND and BANNER SEND make after those of their arguments: the data decodes, its length lies
in the range, the queue has room (R170). -/
def decodeMessage (f : Format) (lo hi : Nat) (data : List Byte) (s : State) : Except OrderOutcome Text :=
  match decodeData f data with
  | none => .error .badValue
  | some t =>
    if t.length < lo ∨ hi < t.length then .error .badArgument
    else if messageQueueSize ≤ s.desk.messages.length then .error .full
    else .ok t

/-- PASS SEND in READY (R170). -/
def passSendBody (dest : Byte) (format : Option Format) (data : List Byte) (s : State) : Verdict :=
  if s.line.listenOnly then .error .refusedState
  else if firstListenOnly ≤ dest.toNat then .error .badArgument
  else match format with
    | none => .error .badArgument
    | some f =>
      match decodeMessage f 1 maxPassText data s with
      | .error o => .error o
      | .ok t => .ok (queueMessage (.pass dest t) s)

/-- PASS SEND (R170). -/
def execPassSend (dest format : Byte) (data : List Byte) (s : State) : Out :=
  runOrder (2 + data.length) (passSendBody dest (formatOf format) data) s

/-- BANNER SEND in READY: the frame is queued and the local banner replaced (R170, R177). -/
def bannerSendBody (format : Option Format) (data : List Byte) (s : State) : Verdict :=
  if s.line.listenOnly then .error .refusedState
  else match format with
    | none => .error .badArgument
    | some f =>
      match decodeMessage f 0 maxBannerText data s with
      | .error o => .error o
      | .ok t => .ok (setBanner t (queueMessage (.banner t) s))

/-- BANNER SEND (R170). -/
def execBannerSend (format : Byte) (data : List Byte) (s : State) : Out :=
  runOrder (1 + data.length) (bannerSendBody (formatOf format) data) s

/-! ## PASS READ (R174) -/

/-- The reply of PASS READ: source, length and text of the oldest record, or 0xFF and a length of 0. -/
def passReply (s : State) : List Byte :=
  match s.desk.inbound with
  | [] => [0xFF, 0x00]
  | m :: _ => m.source :: lengthText m.text

/-- The flow hold after a record was removed (R175). -/
def holdAfterRemove (s : State) : State :=
  if inboundFill s.desk ≤ resumeFill ∧ s.desk.pauseSent = true then
    placeFlow .resume { s with desk := { s.desk with pauseSent := false } }
  else s

/-- The record that PASS READ took leaves the queue. -/
def removeInbound (s : State) : State :=
  match s.desk.inbound with
  | [] => s
  | _ :: ms => holdAfterRemove { s with desk := { s.desk with inbound := ms } }

/-- PASS READ (R174). -/
def execPassRead (n : Nat) (s : State) : Out := runRead 0 n (fun t => .ok (passReply t)) removeInbound s

/-! ## DESK READ -/

/-- The four bytes of a set of stations: bit n of the 32-bit value stands for station n, the most significant byte
first (R193, R197). -/
def stationBytes (ns : List Nat) : List Byte :=
  [3, 2, 1, 0].map (fun k => BitVec.ofNat 8 (((List.range 8).map (fun j => if 8 * k + j ∈ ns then 2 ^ j else 0)).sum))

/-- The byte of the last dropped kind, 0 for none (R197). -/
def droppedByte : Option FrameKind → Byte
  | some k => BitVec.ofNat 8 (kindCode k)
  | none => 0

/-- The link status record (R157, R197). -/
def linkRecord (s : State) : List Byte :=
  [BitVec.ofNat 8 (linkMode s.line), BitVec.ofNat 8 (txCode s.line.tx), BitVec.ofNat 8 (rxCode s.line.rxState),
    linkByte s.line.flags, droppedByte s.line.lastDropped]
    ++ stationBytes (s.desk.paused.map (·.1)) ++ twoBytes (inboundFill s.desk)
    ++ [BitVec.ofNat 8 s.desk.messages.length]

/-- The local contribution of a tag report: none outside the active-tag set (R166). -/
def localBytes (d : DeskExchange) (t : Nat) : List Byte :=
  match assocGet d.active t with
  | some sh => shareBytes sh
  | none => noneBytes

/-- The value field and the age byte of an entry (R166, R197). -/
def entryBytes (d : DeskExchange) (t src : Nat) : List Byte :=
  match assocGet d.table (entryKey t src) with
  | some e => shareBytes e.share ++ [BitVec.ofNat 8 e.age]
  | none => noneBytes ++ [0]

/-- The tag report (R166, R197). -/
def tagReport (d : DeskExchange) (t : Nat) : List Byte :=
  localBytes d t ++ (List.range firstListenOnly).flatMap (entryBytes d t)

/-- The reply of DESK READ by its selector (R157, R166). -/
def deskReply (sel : Byte) (s : State) : Except OrderOutcome (List Byte) :=
  if sel = 0 then .ok (linkRecord s)
  else if sel.toNat ≤ 8 then .ok (tagReport s.desk sel.toNat)
  else .error .badArgument

/-- The capture of the link status record clears every link flag (R157). -/
def clearLink (sel : Byte) (s : State) : State :=
  if sel = 0 then { s with line := { s.line with flags := LinkFlags.clear } } else s

/-- The frame of DESK READ. -/
def deskRead (sel : Byte) (n : Nat) (s : State) : Out := runRead 1 n (deskReply sel) (clearLink sel) s

/-- DESK READ with selector 0 (R157). -/
def execDeskReadLinkStatus (n : Nat) (s : State) : Out := deskRead 0 n s

/-- DESK READ with another selector (R166). -/
def execDeskReadTagReport (sel : Byte) (n : Nat) (s : State) : Out := deskRead sel n s

/-! ## The desk tick (R165) -/

/-- Every entry one tick older, those that reach 30 emptied (R165). -/
def ageTable (m : List (Nat × Entry)) : List (Nat × Entry) :=
  (m.map (fun p => (p.1, { p.2 with age := p.2.age + 1 }))).filter (fun p => p.2.age < entryLife)

/-- The refresh: a pending TALLY for every active tag (R168). -/
def refreshAll (s : State) : State :=
  placeAll .tally (activeTags s.desk) { s with desk := { s.desk with refresh := 0 } }

/-- The refresh counter at a tick (R168). -/
def tickRefresh (s : State) : State :=
  if s.desk.refresh + 1 < refreshPeriod then { s with desk := { s.desk with refresh := s.desk.refresh + 1 } }
  else refreshAll s

/-- The PAUSE renewal at a tick (R175). -/
def tickPause (s : State) : State := if s.desk.pauseSent then placeFlow .pause s else s

/-- Every hold timer one tick lower, the stations that reach 0 removed (R176). -/
def tickHolds (m : List (Nat × Nat)) : List (Nat × Nat) :=
  (m.map (fun p => (p.1, p.2 - 1))).filter (fun p => 0 < p.2)

/-- The banner emptied with its request of STATUS (R177). -/
def dropBanner (s : State) : State := request .status { s with desk := { s.desk with banner := none } }

/-- The banner one tick older, emptied at 60 (R177). -/
def tickBanner (s : State) : State :=
  match s.desk.banner with
  | none => s
  | some b =>
    if b.age + 1 < bannerLife then
      { s with desk := { s.desk with banner := some { b with age := b.age + 1 } } }
    else dropBanner s

/-- What a desk tick does (R165, R168, R175, R176, R177). -/
def tick (s : State) : State :=
  let s1 := tickPause (tickRefresh (retable ageTable s))
  tickBanner { s1 with desk := { s1.desk with paused := tickHolds s1.desk.paused } }

/-- DESK_TICK (R165). -/
def execDeskTick (s : State) : Out := if s.tp.phase = .ready then ok (tick s) else noEvent s

/-- An entry that the coming tick brings to age 30. -/
def agesOut (d : DeskExchange) (tag source : Nat) : Bool :=
  match assocGet d.table (entryKey tag source) with
  | some e => oneTo 8 tag && decide (source < firstListenOnly) && decide (entryLife ≤ e.age + 1)
  | none => false

/-- CONTRIBUTION_AGE_OUT (R165): the part of the tick that empties one entry (notes/assumptions/24.md). -/
def execContributionAgeOut (tag source : Nat) (s : State) : Out :=
  if s.tp.phase = .ready ∧ agesOut s.desk tag source = true then
    ok (retable (fun m => assocDel m (entryKey tag source)) s)
  else noEvent s

/-- REFRESH (R168): the part of the tick that brings the refresh counter to 8. -/
def execRefresh (s : State) : Out :=
  if s.tp.phase = .ready ∧ refreshPeriod ≤ s.desk.refresh + 1 then ok (refreshAll s) else noEvent s

/-- The station's hold timer is one that the coming tick brings to 0. -/
def holdEnds (d : DeskExchange) (station : Nat) : Bool :=
  match assocGet d.paused station with
  | some n => decide (n ≤ 1)
  | none => false

/-- HOLD_TIMER_EXPIRY (R176): the part of the tick that removes one station. -/
def execHoldTimerExpiry (station : Nat) (s : State) : Out :=
  if s.tp.phase = .ready ∧ holdEnds s.desk station = true then ok (unpause station s) else noEvent s

/-- The banner is one that the coming tick brings to age 60. -/
def bannerEnds (d : DeskExchange) : Bool :=
  match d.banner with
  | some b => decide (bannerLife ≤ b.age + 1)
  | none => false

/-- BANNER_EXPIRY (R177): the part of the tick that empties the banner. -/
def execBannerExpiry (s : State) : Out :=
  if s.tp.phase = .ready ∧ bannerEnds s.desk = true then ok (dropBanner s) else noEvent s

end Sys2Proof.Machine
end

