-- ==== Sys2Proof/Machine/Startup.lean ====
section
/-!
DEFINITION. Resets and start-up (10.7), and the alarm timer (R89).
-/
namespace Sys2Proof.Machine

/-! ## The three resets (R189) -/

/-- Every block at the values its chapter gives after reset (R189), with the straps and the port that the reset that
came leaves. The queue of waiting commands is outside the device. -/
def resetTo (station : Station) (rate : Rate) (listenOnly : Bool) (tp : TpPort) (s : State) : State :=
  { pending := s.pending
    tp := tp
    form := FormStore.afterReset
    cur := CursorEngine.afterReset
    key := KeyEngine.afterReset
    comp := Composer.afterReset
    send := SendAssembler.afterReset
    line := DeskLineUnit.afterReset station rate listenOnly
    desk := DeskExchange.afterReset }

/-- POWER_ON (R189, R192): the level of RESETN is a pin's, and stands as it was. -/
def execPowerOn (s : State) : Out :=
  .next (resetTo 0 0 false (TpPort.afterReset s.tp.resetnLow false false true) s)

/-- RESETN_ASSERTED (R189, R191, R192). -/
def execResetnAsserted (s : State) : Out :=
  .next (resetTo 0 0 false (TpPort.afterReset true s.tp.supplySteady false true) s)

/-- The machine right after an accepted SOFT RESET: the straps stand, and the clearing begins at once (R190, R192). -/
def softReset (s : State) : State :=
  resetTo s.line.station s.line.rate s.line.listenOnly (TpPort.afterReset s.tp.resetnLow s.tp.supplySteady true false) s

/-- SOFT RESET (R189): it records no outcome; in STARTING it is refused as every order is (R183). `sdo` keeps what the
frame drove. -/
def execSoftReset (s : State) (ignored : Nat := 0) : Out :=
  if s.tp.phase = .starting then runOrder ignored (fun _ => .error .refusedState) s
  else .next (closeFrame (zeros (1 + ignored)) (softReset s))

/-! ## Start-up (R190) -/

/-- The straps sampled and the clearing begun: stations 30 and 31 are listen-only (R154, R190). -/
def beginClearing (stn : Station) (rate : Rate) (s : State) : State :=
  { s with
    tp := { s.tp with clearing := true }
    line := { s.line with station := stn, rate := rate, listenOnly := decide (firstListenOnly ≤ stn.toNat) } }

/-- RESETN_RELEASED (R190). While the supply is not steady the device waits for it whatever RESETN shows (R189). -/
def execResetnReleased (stn : Station) (rate : Rate) (s : State) : Out :=
  if s.tp.resetnLow then
    let t := { s with tp := { s.tp with resetnLow := false } }
    .next (if s.tp.supplySteady then beginClearing stn rate t else t)
  else noEvent s

/-- SUPPLY_STEADY (R190). With RESETN low the clearing waits for its rising edge. -/
def execSupplySteady (stn : Station) (rate : Rate) (s : State) : Out :=
  if s.tp.phase = .starting ∧ s.tp.supplySteady = false then
    let t := { s with tp := { s.tp with supplySteady := true } }
    .next (if s.tp.resetnLow then t else beginClearing stn rate t)
  else noEvent s

/-- What follows at the completion of the clearing (R190): READY, STARTED raised, STATUS requested; the receive listen
and the join listen begin. -/
def startUp (s : State) : State :=
  request .status (raiseStarted
    { s with
      tp := { s.tp with phase := .ready, clearing := false }
      line := { s.line with rxOpen := false, joined := false } })

/-- START_UP_COMPLETE (R190). -/
def execStartUpComplete (s : State) : Out :=
  if s.tp.phase = .starting ∧ s.tp.clearing = true then ok (startUp s) else noEvent s

/-! ## ALARM -/

/-- ALARM_TIMER_EXPIRY (R89). -/
def execAlarmTimerExpiry (s : State) : Out :=
  if s.key.alarm then ok { s with key := { s.key with alarm := false } } else noEvent s

end Sys2Proof.Machine
end

