-- ==== Sys2Proof/Machine/Abandon.lean ====
section
/-!
DEFINITION. Frames that SELN closes before they are finished (R181).
-/
namespace Sys2Proof.Machine

/-- The whole bytes of a reply that an unfinished frame of a read order clocked: none captured yet, or the reply of the
order on its argument bytes `rest` (R179, R181). -/
def openReply (code : Byte) (rest : List Byte) (s : State) : Except OrderOutcome (List Byte) :=
  match code.toNat with
  | 0x35 => instReply s (.field (rest.getD 0 0).toNat)
  | 0x36 => instReply s (.cell (rest.getD 0 0).toNat (rest.getD 1 0).toNat)
  | 0x39 => .ok (cursorReply s)
  | 0x51 => blockReply s
  | 0x62 => .ok (passReply s)
  | 0x64 => deskReply (rest.getD 0 0) s
  | _ => .ok []

/-- The bytes of a reply, or of a refusal. -/
def driven : Except OrderOutcome (List Byte) → List Byte
  | .ok r => r
  | .error _ => []

/-- What SDO drove in the whole bytes of an unfinished frame whose order has `k` argument bytes (R179, R183). -/
def openSdo (code : Byte) (k : Nat) (rest : List Byte) (s : State) : List Byte :=
  if s.tp.phase = .ready then
    zeros (1 + min k rest.length) ++ replyBytes (rest.length - k) (driven (openReply code rest s))
  else zeros (1 + rest.length)

/-- The effects an unfinished frame has made byte by byte, in READY (R180, R181): KEY bytes offered, the read position of
BLOCK READ advanced, the link flags cleared at the capture of selector 0. -/
def openEffect (code : Byte) (rest : List Byte) (s : State) : State :=
  if s.tp.phase = .ready then
    match code.toNat, rest with
    | 0x41, bs => offerKeys bs s
    | 0x51, bs => if s.send.state = .ready then advanceRead bs.length s else s
    | 0x64, sel :: _ => clearLink sel s
    | _, _ => s
  else s

/-- The stream of an unfinished frame: kept after STREAM NEXT alone (R41). -/
def openStream (code : Byte) (s : State) : State := if code = 0x34 then s else endStream s

/-- An unfinished frame of a known order, STATUS READ and CAUSE READ apart (R181). -/
def abandonOrder (code : Byte) (k : Nat) (rest : List Byte) (s : State) : State :=
  record .abandoned (openStream code (closeFrame (openSdo code k rest s) (openEffect code rest s)))

/-- An unfinished frame of a known order whose code has been clocked (R181). -/
def abandonKnown (code : Byte) (k : Nat) (rest : List Byte) (s : State) : State :=
  if code = 0x11 then statusFrame rest.length s
  else if code = 0x12 then
    (if s.tp.phase = .ready then causeFrame rest.length s else closeFrame (zeros (1 + rest.length)) s)
  else abandonOrder code k rest s

/-- The frame is unfinished: a byte is part-clocked, or a fixed argument is missing (R181). -/
def unfinished (k : Nat) (rest : List Byte) (part : Bool) : Bool := part || decide (rest.length < k)

/-- FRAME_ABANDONED (R181). Without a whole order code byte there is no order: ABANDONED where SCLK was clocked at all,
and the stream stays. An unknown code is UNKNOWN, whole or not (R182). -/
def execFrameAbandoned (bytes : List Byte) (part : Bool) (s : State) : Out :=
  match bytes with
  | [] => ok (if part then record .abandoned (closeFrame [] s) else closeFrame [] s)
  | code :: rest =>
    match argCount code with
    | none => ok (unknownFrame rest.length s)
    | some k => if unfinished k rest part then ok (abandonKnown code k rest s) else noEvent s

end Sys2Proof.Machine
end

