-- ==== Sys2Proof/Machine/Dispatch.lean ====
section
/-!
DEFINITION. `exec`: one arm for each command of the block, each one call of its meaning.
-/
namespace Sys2Proof.Machine

/-- The effect of a command on everything but the queue of waiting commands. -/
def exec (i : Instr) (s : State) : Host.Outcome State Fault Refusal :=
  match i with
  | .frameOpen => Sys2Proof.Machine.execFrameOpen s
  | .frameAbandoned bytes part => Sys2Proof.Machine.execFrameAbandoned bytes part s
  | .unknownOrderCode code bytes => Sys2Proof.Machine.execUnknownOrderCode code bytes s
  | .statusRead n => Sys2Proof.Machine.execStatusRead n s
  | .causeRead n => Sys2Proof.Machine.execCauseRead n s
  | .causeEnable set ignored => Sys2Proof.Machine.execCauseEnable set s ignored
  | .displaySet opts ignored => Sys2Proof.Machine.execDisplaySet opts s ignored
  | .loopbackSet opts ignored => Sys2Proof.Machine.execLoopbackSet opts s ignored
  | .softReset ignored => Sys2Proof.Machine.execSoftReset s ignored
  | .formBegin h w d ignored => Sys2Proof.Machine.execFormBegin h w d s ignored
  | .fieldDefine number row col length kind decimals form attrs sumCol tag ignored => Sys2Proof.Machine.execFieldDefine number row col length kind decimals form attrs sumCol tag s ignored
  | .fieldDrop number ignored => Sys2Proof.Machine.execFieldDrop number s ignored
  | .columnDefine number col length kind decimals form attrs opA opB ignored => Sys2Proof.Machine.execColumnDefine number col length kind decimals form attrs opA opB s ignored
  | .columnDrop number ignored => Sys2Proof.Machine.execColumnDrop number s ignored
  | .labelWrite plane r0 c0 r1 c1 direction format data => Sys2Proof.Machine.execLabelWrite plane r0 c0 r1 c1 direction format data s
  | .formEnd ignored => Sys2Proof.Machine.execFormEnd s ignored
  | .fieldWrite field mode start format data => Sys2Proof.Machine.execFieldWrite field mode start format data s
  | .cellWrite line col mode start format data => Sys2Proof.Machine.execCellWrite line col mode start format data s
  | .streamBegin field ignored => Sys2Proof.Machine.execStreamBegin field s ignored
  | .streamNext format data => Sys2Proof.Machine.execStreamNext format data s
  | .fieldRead field n => Sys2Proof.Machine.execFieldRead field n s
  | .cellRead line col n => Sys2Proof.Machine.execCellRead line col n s
  | .entriesClear ignored => Sys2Proof.Machine.execEntriesClear s ignored
  | .cursorSet form a b ignored => Sys2Proof.Machine.execCursorSet form a b s ignored
  | .cursorRead n => Sys2Proof.Machine.execCursorRead n s
  | .windowSet t ignored => Sys2Proof.Machine.execWindowSet t s ignored
  | .key codes => Sys2Proof.Machine.execKey codes s
  | .blockRead n => Sys2Proof.Machine.execBlockRead n s
  | .release opts ignored => Sys2Proof.Machine.execRelease opts s ignored
  | .reject code form a b message => Sys2Proof.Machine.execReject code form a b message s
  | .passSend dest format data => Sys2Proof.Machine.execPassSend dest format data s
  | .bannerSend format data => Sys2Proof.Machine.execBannerSend format data s
  | .passRead n => Sys2Proof.Machine.execPassRead n s
  | .deskReadLinkStatus n => Sys2Proof.Machine.execDeskReadLinkStatus n s
  | .deskReadTagReport sel n => Sys2Proof.Machine.execDeskReadTagReport sel n s
  | .dataKey => Sys2Proof.Machine.execDataKey s
  | .tab => Sys2Proof.Machine.execTab s
  | .backtab => Sys2Proof.Machine.execBacktab s
  | .home => Sys2Proof.Machine.execHome s
  | .newline => Sys2Proof.Machine.execNewline s
  | .left => Sys2Proof.Machine.execLeft s
  | .right => Sys2Proof.Machine.execRight s
  | .up => Sys2Proof.Machine.execUp s
  | .down => Sys2Proof.Machine.execDown s
  | .pageForward => Sys2Proof.Machine.execPageForward s
  | .pageBack => Sys2Proof.Machine.execPageBack s
  | .backspace => Sys2Proof.Machine.execBackspace s
  | .delete => Sys2Proof.Machine.execDelete s
  | .insert => Sys2Proof.Machine.execInsert s
  | .clearToEnd => Sys2Proof.Machine.execClearToEnd s
  | .clearAll => Sys2Proof.Machine.execClearAll s
  | .repeatAbove => Sys2Proof.Machine.execRepeatAbove s
  | .lineInsert => Sys2Proof.Machine.execLineInsert s
  | .lineDelete => Sys2Proof.Machine.execLineDelete s
  | .reset => Sys2Proof.Machine.execReset s
  | .send => Sys2Proof.Machine.execSend s
  | .signalKey => Sys2Proof.Machine.execSignalKey s
  | .assemblyComplete => Sys2Proof.Machine.execAssemblyComplete s
  | .renderComplete => Sys2Proof.Machine.execRenderComplete s
  | .alarmTimerExpiry => Sys2Proof.Machine.execAlarmTimerExpiry s
  | .powerOn => Sys2Proof.Machine.execPowerOn s
  | .resetnAsserted => Sys2Proof.Machine.execResetnAsserted s
  | .resetnReleased stn rate => Sys2Proof.Machine.execResetnReleased stn rate s
  | .supplySteady stn rate => Sys2Proof.Machine.execSupplySteady stn rate s
  | .startUpComplete => Sys2Proof.Machine.execStartUpComplete s
  | .characterReceived data mark framing => Sys2Proof.Machine.execCharacterReceived data mark framing s
  | .breakDetected => Sys2Proof.Machine.execBreakDetected s
  | .receiveListenComplete => Sys2Proof.Machine.execReceiveListenComplete s
  | .gapTimerExpiry => Sys2Proof.Machine.execGapTimerExpiry s
  | .frameAssemblerCharacter => Sys2Proof.Machine.execFrameAssemblerCharacter s
  | .greet => Sys2Proof.Machine.execGreet s
  | .tally => Sys2Proof.Machine.execTally s
  | .retract => Sys2Proof.Machine.execRetract s
  | .banner => Sys2Proof.Machine.execBanner s
  | .pass => Sys2Proof.Machine.execPass s
  | .pause => Sys2Proof.Machine.execPause s
  | .resume => Sys2Proof.Machine.execResume s
  | .joinListenComplete => Sys2Proof.Machine.execJoinListenComplete s
  | .accessGapReached => Sys2Proof.Machine.execAccessGapReached s
  | .frameSent => Sys2Proof.Machine.execFrameSent s
  | .collision => Sys2Proof.Machine.execCollision s
  | .backoffComplete => Sys2Proof.Machine.execBackoffComplete s
  | .yieldComplete => Sys2Proof.Machine.execYieldComplete s
  | .deskTick => Sys2Proof.Machine.execDeskTick s
  | .contributionAgeOut tag source => Sys2Proof.Machine.execContributionAgeOut tag source s
  | .refresh => Sys2Proof.Machine.execRefresh s
  | .holdTimerExpiry station => Sys2Proof.Machine.execHoldTimerExpiry station s
  | .bannerExpiry => Sys2Proof.Machine.execBannerExpiry s
  | .startBit => Sys2Proof.Machine.execStartBit s
  | .lineHighAfterBreak => Sys2Proof.Machine.execLineHighAfterBreak s

end Sys2Proof.Machine
end

