-- ==== Sys2Proof/Decode.lean ====
section
/-!
DEFINITION. The command that a word spells by the table's bits, the bytes of an order's frame by the order table and the
argument table (R184, R194), and the commands and the levels of SDO that the edges of the port's pins make (10.1, R179).
-/
namespace Sys2Proof

/-- No row of spec/opcode_table.json gives bits, so no word spells a command (notes/assumptions/4.md). -/
def decodeTableWord (_nbits _w : Nat) : Option Instr := none

/-- The bytes that the terminal processor clocks in the frame of an order: its order code, its fixed arguments in the
order of R194, and its data; the `n` bytes of a read order and the `ignored` bytes of an order without data or reply
have no meaning, and stand here as 0x00 (notes/assumptions/8.md). None for a command that is no
order with a whole frame of a known code. -/
def frameOf : Instr → Option (List Byte)
  | .statusRead n => some (0x11 :: List.replicate n 0)
  | .causeRead n => some (0x12 :: List.replicate n 0)
  | .causeEnable set ignored => some ([0x13, set] ++ List.replicate ignored 0)
  | .displaySet opts ignored => some ([0x14, opts] ++ List.replicate ignored 0)
  | .loopbackSet opts ignored => some ([0x15, opts] ++ List.replicate ignored 0)
  | .softReset ignored => some (0x1F :: List.replicate ignored 0)
  | .formBegin h w d ignored => some ([0x21, h, w, d] ++ List.replicate ignored 0)
  | .fieldDefine number row col length kind decimals form attrs sumCol tag ignored =>
    some ([0x22, number, row, col, length, kind, decimals, form, attrs, sumCol, tag] ++ List.replicate ignored 0)
  | .fieldDrop number ignored => some ([0x23, number] ++ List.replicate ignored 0)
  | .columnDefine number col length kind decimals form attrs opA opB ignored =>
    some ([0x24, number, col, length, kind, decimals, form, attrs, opA, opB] ++ List.replicate ignored 0)
  | .columnDrop number ignored => some ([0x25, number] ++ List.replicate ignored 0)
  | .labelWrite plane r0 c0 r1 c1 direction format data =>
    some ([0x26, plane, r0, c0, r1, c1, direction, format] ++ data)
  | .formEnd ignored => some (0x27 :: List.replicate ignored 0)
  | .fieldWrite field mode start format data => some ([0x31, field, mode, start, format] ++ data)
  | .cellWrite line col mode start format data => some ([0x32, line, col, mode, start, format] ++ data)
  | .streamBegin field ignored => some ([0x33, field] ++ List.replicate ignored 0)
  | .streamNext format data => some ([0x34, format] ++ data)
  | .fieldRead field n => some ([0x35, field] ++ List.replicate n 0)
  | .cellRead line col n => some ([0x36, line, col] ++ List.replicate n 0)
  | .entriesClear ignored => some (0x37 :: List.replicate ignored 0)
  | .cursorSet form a b ignored => some ([0x38, form, a, b] ++ List.replicate ignored 0)
  | .cursorRead n => some (0x39 :: List.replicate n 0)
  | .windowSet t ignored => some ([0x3A, t] ++ List.replicate ignored 0)
  | .key codes => some (0x41 :: codes)
  | .blockRead n => some (0x51 :: List.replicate n 0)
  | .release opts ignored => some ([0x52, opts] ++ List.replicate ignored 0)
  | .reject code form a b message => some ([0x53, code, form, a, b] ++ message)
  | .passSend dest format data => some ([0x61, dest, format] ++ data)
  | .bannerSend format data => some ([0x63, format] ++ data)
  | .passRead n => some (0x62 :: List.replicate n 0)
  | .deskReadLinkStatus n => some ([0x64, 0] ++ List.replicate n 0)
  | .deskReadTagReport sel n => some ([0x64, sel] ++ List.replicate n 0)
  | .frameOpen | .frameAbandoned _ _ | .unknownOrderCode _ _ => none
  | .dataKey | .tab | .backtab | .home | .newline | .left | .right | .up | .down | .pageForward | .pageBack => none
  | .backspace | .delete | .insert | .clearToEnd | .clearAll | .repeatAbove | .lineInsert | .lineDelete => none
  | .reset | .send | .signalKey | .assemblyComplete | .renderComplete | .alarmTimerExpiry => none
  | .powerOn | .resetnAsserted | .resetnReleased _ _ | .supplySteady _ _ | .startUpComplete => none
  | .characterReceived _ _ _ | .breakDetected | .receiveListenComplete | .gapTimerExpiry => none
  | .frameAssemblerCharacter | .greet | .tally | .retract | .banner | .pass | .pause | .resume => none
  | .joinListenComplete | .accessGapReached | .frameSent | .collision | .backoffComplete | .yieldComplete => none
  | .deskTick | .contributionAgeOut _ _ | .refresh | .holdTimerExpiry _ | .bannerExpiry => none
  | .startBit | .lineHighAfterBreak => none

/-- The data bytes of an order frame taken apart: all arguments there, by position. -/
def argAt (args : List Byte) (k : Nat) : Byte := args.getD k 0

/-- The order that a known code, its fixed arguments and the bytes clocked after them make (R184, R194): the frame
decoder's reading of a whole frame. Bytes after the arguments are data, clock out a reply, or are ignored (R179). -/
def orderFrom (code : Byte) (a : Nat → Byte) (rest : List Byte) : Option Instr :=
  match code.toNat with
  | 0x11 => some (.statusRead rest.length)
  | 0x12 => some (.causeRead rest.length)
  | 0x13 => some (.causeEnable (a 0) rest.length)
  | 0x14 => some (.displaySet (a 0) rest.length)
  | 0x15 => some (.loopbackSet (a 0) rest.length)
  | 0x1F => some (.softReset rest.length)
  | 0x21 => some (.formBegin (a 0) (a 1) (a 2) rest.length)
  | 0x22 => some (.fieldDefine (a 0) (a 1) (a 2) (a 3) (a 4) (a 5) (a 6) (a 7) (a 8) (a 9) rest.length)
  | 0x23 => some (.fieldDrop (a 0) rest.length)
  | 0x24 => some (.columnDefine (a 0) (a 1) (a 2) (a 3) (a 4) (a 5) (a 6) (a 7) (a 8) rest.length)
  | 0x25 => some (.columnDrop (a 0) rest.length)
  | 0x26 => some (.labelWrite (a 0) (a 1) (a 2) (a 3) (a 4) (a 5) (a 6) rest)
  | 0x27 => some (.formEnd rest.length)
  | 0x31 => some (.fieldWrite (a 0) (a 1) (a 2) (a 3) rest)
  | 0x32 => some (.cellWrite (a 0) (a 1) (a 2) (a 3) (a 4) rest)
  | 0x33 => some (.streamBegin (a 0) rest.length)
  | 0x34 => some (.streamNext (a 0) rest)
  | 0x35 => some (.fieldRead (a 0) rest.length)
  | 0x36 => some (.cellRead (a 0) (a 1) rest.length)
  | 0x37 => some (.entriesClear rest.length)
  | 0x38 => some (.cursorSet (a 0) (a 1) (a 2) rest.length)
  | 0x39 => some (.cursorRead rest.length)
  | 0x3A => some (.windowSet (a 0) rest.length)
  | 0x41 => some (.key rest)
  | 0x51 => some (.blockRead rest.length)
  | 0x52 => some (.release (a 0) rest.length)
  | 0x53 => some (.reject (a 0) (a 1) (a 2) (a 3) rest)
  | 0x61 => some (.passSend (a 0) (a 1) rest)
  | 0x62 => some (.passRead rest.length)
  | 0x63 => some (.bannerSend (a 0) rest)
  | 0x64 => some (if a 0 = 0 then .deskReadLinkStatus rest.length else .deskReadTagReport (a 0) rest.length)
  | _ => none

/-- The command that the whole bytes of a frame make, `part` when SELN rose with a byte part-clocked (R179 to R182). A
frame closed with no SCLK edge at all is the row that closes the decoder and records nothing (R181). -/
def commandOf (bytes : List Byte) (part : Bool) : Option Instr :=
  match bytes with
  | [] => some (.frameAbandoned [] part)
  | code :: rest =>
    match Machine.argCount code with
    | none => some (.unknownOrderCode code rest)
    | some k =>
      if part || decide (rest.length < k) then some (.frameAbandoned bytes part)
      else orderFrom code (argAt (rest.take k)) (rest.drop k)

/-! ## The pins of the port -/

/-- What happens at the pins of the port: the edges of SELN, a rising edge of SCLK with the level of SDI, and a reset,
whose command comes by its own row. -/
inductive PortEvent where
  | selnFalls
  | sclkRises (sdi : Bool)
  | selnRises
  | reset
  deriving DecidableEq, Repr

/-- An event at the pins, with the frame open before it: the frame open after it, and the command that it completes. A
falling edge of SELN opens a frame, which is FRAME_OPEN; its rising edge closes it; SCLK is ignored while no frame is open;
a frame open at a reset is lost, and the next opens at the next falling edge (10.1, R179, R181, R191). -/
def portEvent : PortEvent → Option Machine.PortFrame → Option Machine.PortFrame × Option Instr
  | .selnFalls, none => (some Machine.openedFrame, some .frameOpen)
  | .selnFalls, some f => (some f, none)
  | .sclkRises sdi, o => (o.map (Machine.clockBit · sdi), none)
  | .selnRises, o => (none, o.bind (fun f => commandOf f.bytes (!f.part.isEmpty)))
  | .reset, _ => (none, none)

/-- The commands that events at the pins make, in their order, from the frame open before them (R179 to R182). No step
uses it: the commands come into the queue from outside (notes/assumptions/4.md). -/
def portCommands : List PortEvent → Option Machine.PortFrame → List Instr
  | [], _ => []
  | e :: es, o => (portEvent e o).2.toList ++ portCommands es (portEvent e o).1

/-- The byte that SDO drives while the byte after the whole bytes of an open frame is clocked: what SDO would have driven
last, did SELN rise after that byte. The value of that byte is not known yet and does not matter (R179, R180). `s` is the
state in which the frame's command is taken (notes/assumptions/6.md). -/
def sdoByte (bytes : List Byte) (s : Machine.State) : Byte :=
  match (commandOf (bytes ++ [0]) false).map (Machine.exec · s) with
  | some (.next t) => t.tp.sdo.getLast?.getD 0
  | _ => 0

/-- The level of SDO that is stable at the next rising edge of SCLK: the bits of its byte most significant first while a
frame is open, and none, for released, while SELN is high (10.1, R179). -/
def sdoLevel (o : Option Machine.PortFrame) (s : Machine.State) : Option Bool :=
  o.map (fun f => (sdoByte f.bytes s).getMsbD f.part.length)

end Sys2Proof
end

