-- ==== Sys2Proof/Machine/Step.lean ====
section
/-!
DEFINITION. `step`: the command at the front of the queue runs on the machine with the queue's rest.
-/
namespace Sys2Proof.Machine

/-- One step: the command at the front of the queue; with no command waiting the block idles
(notes/assumptions/5.md). -/
def step (s : State) : Host.Outcome State Fault Refusal :=
  match s.pending with
  | [] => .next s
  | c :: rest => exec c { s with pending := rest }

/-- The machine with a command put at the front of its queue. -/
def State.push (s : State) (c : Instr) : State := { s with pending := c :: s.pending }

/-- The machine with the command that a word spells at the front of its queue. -/
def State.withFetchWord (s : State) (nbits w : Nat) : State :=
  match decodeTableWord nbits w with
  | some c => s.push c
  | none => s

end Sys2Proof.Machine
end

