-- ==== Sys2Proof/Laws/State.lean ====
section
/-!
SUPPORT. Frame lemmas: for each shared operation and each field of the state that it leaves alone, that it does.
-/
namespace Sys2Proof.Machine

@[simp] theorem setInstValue_state (i : Inst) (v : Value) (f : FormStore) : (setInstValue i v f).state = f.state := by
  cases i <;> rfl
@[simp] theorem setInstValue_h (i : Inst) (v : Value) (f : FormStore) : (setInstValue i v f).h = f.h := by
  cases i <;> rfl
@[simp] theorem setInstValue_w (i : Inst) (v : Value) (f : FormStore) : (setInstValue i v f).w = f.w := by
  cases i <;> rfl
@[simp] theorem setInstValue_d (i : Inst) (v : Value) (f : FormStore) : (setInstValue i v f).d = f.d := by
  cases i <;> rfl
@[simp] theorem setInstValue_fields (i : Inst) (v : Value) (f : FormStore) : (setInstValue i v f).fields = f.fields := by
  cases i <;> rfl
@[simp] theorem setInstValue_cols (i : Inst) (v : Value) (f : FormStore) : (setInstValue i v f).cols = f.cols := by
  cases i <;> rfl
@[simp] theorem setInstValue_screenPlane (i : Inst) (v : Value) (f : FormStore) : (setInstValue i v f).screenPlane = f.screenPlane := by
  cases i <;> rfl
@[simp] theorem setInstValue_linePlane (i : Inst) (v : Value) (f : FormStore) : (setInstValue i v f).linePlane = f.linePlane := by
  cases i <;> rfl

@[simp] theorem markInst_state (i : Inst) (f : FormStore) : (markInst i f).state = f.state := by
  cases i <;> rfl
@[simp] theorem markInst_h (i : Inst) (f : FormStore) : (markInst i f).h = f.h := by
  cases i <;> rfl
@[simp] theorem markInst_w (i : Inst) (f : FormStore) : (markInst i f).w = f.w := by
  cases i <;> rfl
@[simp] theorem markInst_d (i : Inst) (f : FormStore) : (markInst i f).d = f.d := by
  cases i <;> rfl
@[simp] theorem markInst_fields (i : Inst) (f : FormStore) : (markInst i f).fields = f.fields := by
  cases i <;> rfl
@[simp] theorem markInst_cols (i : Inst) (f : FormStore) : (markInst i f).cols = f.cols := by
  cases i <;> rfl
@[simp] theorem markInst_screenPlane (i : Inst) (f : FormStore) : (markInst i f).screenPlane = f.screenPlane := by
  cases i <;> rfl
@[simp] theorem markInst_linePlane (i : Inst) (f : FormStore) : (markInst i f).linePlane = f.linePlane := by
  cases i <;> rfl

@[simp] theorem deskSums_state (d : DeskExchange) (f : FormStore) : (deskSums d f).state = f.state := rfl
@[simp] theorem columnSums_state (f : FormStore) : (columnSums f).state = f.state := rfl
@[simp] theorem productsFrom_state (lo n : Nat) (f : FormStore) : (productsFrom lo n f).state = f.state := rfl
@[simp] theorem clearedForm_state (m : Bool) (f : FormStore) : (clearedForm m f).state = f.state := rfl
@[simp] theorem unmarkForm_state (f : FormStore) : (unmarkForm f).state = f.state := rfl
@[simp] theorem deskSums_h (d : DeskExchange) (f : FormStore) : (deskSums d f).h = f.h := rfl
@[simp] theorem columnSums_h (f : FormStore) : (columnSums f).h = f.h := rfl
@[simp] theorem productsFrom_h (lo n : Nat) (f : FormStore) : (productsFrom lo n f).h = f.h := rfl
@[simp] theorem clearedForm_h (m : Bool) (f : FormStore) : (clearedForm m f).h = f.h := rfl
@[simp] theorem unmarkForm_h (f : FormStore) : (unmarkForm f).h = f.h := rfl
@[simp] theorem deskSums_w (d : DeskExchange) (f : FormStore) : (deskSums d f).w = f.w := rfl
@[simp] theorem columnSums_w (f : FormStore) : (columnSums f).w = f.w := rfl
@[simp] theorem productsFrom_w (lo n : Nat) (f : FormStore) : (productsFrom lo n f).w = f.w := rfl
@[simp] theorem clearedForm_w (m : Bool) (f : FormStore) : (clearedForm m f).w = f.w := rfl
@[simp] theorem unmarkForm_w (f : FormStore) : (unmarkForm f).w = f.w := rfl
@[simp] theorem deskSums_d (d : DeskExchange) (f : FormStore) : (deskSums d f).d = f.d := rfl
@[simp] theorem columnSums_d (f : FormStore) : (columnSums f).d = f.d := rfl
@[simp] theorem productsFrom_d (lo n : Nat) (f : FormStore) : (productsFrom lo n f).d = f.d := rfl
@[simp] theorem clearedForm_d (m : Bool) (f : FormStore) : (clearedForm m f).d = f.d := rfl
@[simp] theorem unmarkForm_d (f : FormStore) : (unmarkForm f).d = f.d := rfl
@[simp] theorem deskSums_fields (d : DeskExchange) (f : FormStore) : (deskSums d f).fields = f.fields := rfl
@[simp] theorem columnSums_fields (f : FormStore) : (columnSums f).fields = f.fields := rfl
@[simp] theorem productsFrom_fields (lo n : Nat) (f : FormStore) : (productsFrom lo n f).fields = f.fields := rfl
@[simp] theorem clearedForm_fields (m : Bool) (f : FormStore) : (clearedForm m f).fields = f.fields := rfl
@[simp] theorem unmarkForm_fields (f : FormStore) : (unmarkForm f).fields = f.fields := rfl
@[simp] theorem deskSums_cols (d : DeskExchange) (f : FormStore) : (deskSums d f).cols = f.cols := rfl
@[simp] theorem columnSums_cols (f : FormStore) : (columnSums f).cols = f.cols := rfl
@[simp] theorem productsFrom_cols (lo n : Nat) (f : FormStore) : (productsFrom lo n f).cols = f.cols := rfl
@[simp] theorem clearedForm_cols (m : Bool) (f : FormStore) : (clearedForm m f).cols = f.cols := rfl
@[simp] theorem unmarkForm_cols (f : FormStore) : (unmarkForm f).cols = f.cols := rfl
@[simp] theorem deskSums_screenPlane (d : DeskExchange) (f : FormStore) : (deskSums d f).screenPlane = f.screenPlane := rfl
@[simp] theorem columnSums_screenPlane (f : FormStore) : (columnSums f).screenPlane = f.screenPlane := rfl
@[simp] theorem productsFrom_screenPlane (lo n : Nat) (f : FormStore) : (productsFrom lo n f).screenPlane = f.screenPlane := rfl
@[simp] theorem clearedForm_screenPlane (m : Bool) (f : FormStore) : (clearedForm m f).screenPlane = f.screenPlane := rfl
@[simp] theorem unmarkForm_screenPlane (f : FormStore) : (unmarkForm f).screenPlane = f.screenPlane := rfl
@[simp] theorem deskSums_linePlane (d : DeskExchange) (f : FormStore) : (deskSums d f).linePlane = f.linePlane := rfl
@[simp] theorem columnSums_linePlane (f : FormStore) : (columnSums f).linePlane = f.linePlane := rfl
@[simp] theorem productsFrom_linePlane (lo n : Nat) (f : FormStore) : (productsFrom lo n f).linePlane = f.linePlane := rfl
@[simp] theorem clearedForm_linePlane (m : Bool) (f : FormStore) : (clearedForm m f).linePlane = f.linePlane := rfl
@[simp] theorem unmarkForm_linePlane (f : FormStore) : (unmarkForm f).linePlane = f.linePlane := rfl

/-! ### request -/

@[simp] theorem request_pending (i : Item) (s : State) : (request i s).pending = s.pending := rfl

@[simp] theorem request_tp (i : Item) (s : State) : (request i s).tp = s.tp := rfl

@[simp] theorem request_form (i : Item) (s : State) : (request i s).form = s.form := rfl

@[simp] theorem request_cur (i : Item) (s : State) : (request i s).cur = s.cur := rfl

@[simp] theorem request_key (i : Item) (s : State) : (request i s).key = s.key := rfl

@[simp] theorem request_comp_image (i : Item) (s : State) : (request i s).comp.image = s.comp.image := by
  unfold request requestIn; repeat' split
  all_goals rfl

@[simp] theorem request_comp_rendering (i : Item) (s : State) : (request i s).comp.rendering = s.comp.rendering := by
  unfold request requestIn; repeat' split
  all_goals rfl

@[simp] theorem request_send (i : Item) (s : State) : (request i s).send = s.send := rfl

@[simp] theorem request_line (i : Item) (s : State) : (request i s).line = s.line := rfl

@[simp] theorem request_desk (i : Item) (s : State) : (request i s).desk = s.desk := rfl

/-! ### requestAll -/

@[simp] theorem requestAll_pending (is : List Item) (s : State) : (requestAll is s).pending = s.pending := by
  induction is generalizing s with
  | nil => rfl
  | cons x xs ih => simp [requestAll, ih]

@[simp] theorem requestAll_tp (is : List Item) (s : State) : (requestAll is s).tp = s.tp := by
  induction is generalizing s with
  | nil => rfl
  | cons x xs ih => simp [requestAll, ih]

@[simp] theorem requestAll_form (is : List Item) (s : State) : (requestAll is s).form = s.form := by
  induction is generalizing s with
  | nil => rfl
  | cons x xs ih => simp [requestAll, ih]

@[simp] theorem requestAll_cur (is : List Item) (s : State) : (requestAll is s).cur = s.cur := by
  induction is generalizing s with
  | nil => rfl
  | cons x xs ih => simp [requestAll, ih]

@[simp] theorem requestAll_key (is : List Item) (s : State) : (requestAll is s).key = s.key := by
  induction is generalizing s with
  | nil => rfl
  | cons x xs ih => simp [requestAll, ih]

@[simp] theorem requestAll_comp_image (is : List Item) (s : State) : (requestAll is s).comp.image = s.comp.image := by
  induction is generalizing s with
  | nil => rfl
  | cons x xs ih => simp [requestAll, ih]

@[simp] theorem requestAll_comp_rendering (is : List Item) (s : State) : (requestAll is s).comp.rendering = s.comp.rendering := by
  induction is generalizing s with
  | nil => rfl
  | cons x xs ih => simp [requestAll, ih]

@[simp] theorem requestAll_send (is : List Item) (s : State) : (requestAll is s).send = s.send := by
  induction is generalizing s with
  | nil => rfl
  | cons x xs ih => simp [requestAll, ih]

@[simp] theorem requestAll_line (is : List Item) (s : State) : (requestAll is s).line = s.line := by
  induction is generalizing s with
  | nil => rfl
  | cons x xs ih => simp [requestAll, ih]

@[simp] theorem requestAll_desk (is : List Item) (s : State) : (requestAll is s).desk = s.desk := by
  induction is generalizing s with
  | nil => rfl
  | cons x xs ih => simp [requestAll, ih]

/-! ### pulseAlarm -/

@[simp] theorem pulseAlarm_pending (s : State) : (pulseAlarm s).pending = s.pending := rfl

@[simp] theorem pulseAlarm_tp (s : State) : (pulseAlarm s).tp = s.tp := rfl

@[simp] theorem pulseAlarm_form (s : State) : (pulseAlarm s).form = s.form := rfl

@[simp] theorem pulseAlarm_cur (s : State) : (pulseAlarm s).cur = s.cur := rfl

@[simp] theorem pulseAlarm_key_queue (s : State) : (pulseAlarm s).key.queue = s.key.queue := rfl

@[simp] theorem pulseAlarm_key_keyboard (s : State) : (pulseAlarm s).key.keyboard = s.key.keyboard := rfl

@[simp] theorem pulseAlarm_key_insertMode (s : State) : (pulseAlarm s).key.insertMode = s.key.insertMode := rfl

@[simp] theorem pulseAlarm_key_edit (s : State) : (pulseAlarm s).key.edit = s.key.edit := rfl

@[simp] theorem pulseAlarm_comp (s : State) : (pulseAlarm s).comp = s.comp := rfl

@[simp] theorem pulseAlarm_send (s : State) : (pulseAlarm s).send = s.send := rfl

@[simp] theorem pulseAlarm_line (s : State) : (pulseAlarm s).line = s.line := rfl

@[simp] theorem pulseAlarm_desk (s : State) : (pulseAlarm s).desk = s.desk := rfl

/-! ### raiseKeyError -/

@[simp] theorem raiseKeyError_pending (s : State) : (raiseKeyError s).pending = s.pending := rfl

@[simp] theorem raiseKeyError_tp_phase (s : State) : (raiseKeyError s).tp.phase = s.tp.phase := rfl

@[simp] theorem raiseKeyError_tp_resetnLow (s : State) : (raiseKeyError s).tp.resetnLow = s.tp.resetnLow := rfl

@[simp] theorem raiseKeyError_tp_supplySteady (s : State) : (raiseKeyError s).tp.supplySteady = s.tp.supplySteady := rfl

@[simp] theorem raiseKeyError_tp_clearing (s : State) : (raiseKeyError s).tp.clearing = s.tp.clearing := rfl

@[simp] theorem raiseKeyError_tp_decoder (s : State) : (raiseKeyError s).tp.decoder = s.tp.decoder := rfl

@[simp] theorem raiseKeyError_tp_outcome (s : State) : (raiseKeyError s).tp.outcome = s.tp.outcome := rfl

@[simp] theorem raiseKeyError_tp_stream (s : State) : (raiseKeyError s).tp.stream = s.tp.stream := rfl

@[simp] theorem raiseKeyError_form (s : State) : (raiseKeyError s).form = s.form := rfl

@[simp] theorem raiseKeyError_cur (s : State) : (raiseKeyError s).cur = s.cur := rfl

@[simp] theorem raiseKeyError_key (s : State) : (raiseKeyError s).key = s.key := rfl

@[simp] theorem raiseKeyError_comp (s : State) : (raiseKeyError s).comp = s.comp := rfl

@[simp] theorem raiseKeyError_send (s : State) : (raiseKeyError s).send = s.send := rfl

@[simp] theorem raiseKeyError_line (s : State) : (raiseKeyError s).line = s.line := rfl

@[simp] theorem raiseKeyError_desk (s : State) : (raiseKeyError s).desk = s.desk := rfl

/-! ### raiseStarted -/

@[simp] theorem raiseStarted_pending (s : State) : (raiseStarted s).pending = s.pending := rfl

@[simp] theorem raiseStarted_tp_phase (s : State) : (raiseStarted s).tp.phase = s.tp.phase := rfl

@[simp] theorem raiseStarted_tp_resetnLow (s : State) : (raiseStarted s).tp.resetnLow = s.tp.resetnLow := rfl

@[simp] theorem raiseStarted_tp_supplySteady (s : State) : (raiseStarted s).tp.supplySteady = s.tp.supplySteady := rfl

@[simp] theorem raiseStarted_tp_clearing (s : State) : (raiseStarted s).tp.clearing = s.tp.clearing := rfl

@[simp] theorem raiseStarted_tp_decoder (s : State) : (raiseStarted s).tp.decoder = s.tp.decoder := rfl

@[simp] theorem raiseStarted_tp_outcome (s : State) : (raiseStarted s).tp.outcome = s.tp.outcome := rfl

@[simp] theorem raiseStarted_tp_stream (s : State) : (raiseStarted s).tp.stream = s.tp.stream := rfl

@[simp] theorem raiseStarted_form (s : State) : (raiseStarted s).form = s.form := rfl

@[simp] theorem raiseStarted_cur (s : State) : (raiseStarted s).cur = s.cur := rfl

@[simp] theorem raiseStarted_key (s : State) : (raiseStarted s).key = s.key := rfl

@[simp] theorem raiseStarted_comp (s : State) : (raiseStarted s).comp = s.comp := rfl

@[simp] theorem raiseStarted_send (s : State) : (raiseStarted s).send = s.send := rfl

@[simp] theorem raiseStarted_line (s : State) : (raiseStarted s).line = s.line := rfl

@[simp] theorem raiseStarted_desk (s : State) : (raiseStarted s).desk = s.desk := rfl

/-! ### raiseDeskChange -/

@[simp] theorem raiseDeskChange_pending (s : State) : (raiseDeskChange s).pending = s.pending := rfl

@[simp] theorem raiseDeskChange_tp_phase (s : State) : (raiseDeskChange s).tp.phase = s.tp.phase := rfl

@[simp] theorem raiseDeskChange_tp_resetnLow (s : State) : (raiseDeskChange s).tp.resetnLow = s.tp.resetnLow := rfl

@[simp] theorem raiseDeskChange_tp_supplySteady (s : State) : (raiseDeskChange s).tp.supplySteady = s.tp.supplySteady := rfl

@[simp] theorem raiseDeskChange_tp_clearing (s : State) : (raiseDeskChange s).tp.clearing = s.tp.clearing := rfl

@[simp] theorem raiseDeskChange_tp_decoder (s : State) : (raiseDeskChange s).tp.decoder = s.tp.decoder := rfl

@[simp] theorem raiseDeskChange_tp_outcome (s : State) : (raiseDeskChange s).tp.outcome = s.tp.outcome := rfl

@[simp] theorem raiseDeskChange_tp_stream (s : State) : (raiseDeskChange s).tp.stream = s.tp.stream := rfl

@[simp] theorem raiseDeskChange_form (s : State) : (raiseDeskChange s).form = s.form := rfl

@[simp] theorem raiseDeskChange_cur (s : State) : (raiseDeskChange s).cur = s.cur := rfl

@[simp] theorem raiseDeskChange_key (s : State) : (raiseDeskChange s).key = s.key := rfl

@[simp] theorem raiseDeskChange_comp (s : State) : (raiseDeskChange s).comp = s.comp := rfl

@[simp] theorem raiseDeskChange_send (s : State) : (raiseDeskChange s).send = s.send := rfl

@[simp] theorem raiseDeskChange_line (s : State) : (raiseDeskChange s).line = s.line := rfl

@[simp] theorem raiseDeskChange_desk (s : State) : (raiseDeskChange s).desk = s.desk := rfl

/-! ### raiseSpace -/

@[simp] theorem raiseSpace_pending (s : State) : (raiseSpace s).pending = s.pending := rfl

@[simp] theorem raiseSpace_tp_phase (s : State) : (raiseSpace s).tp.phase = s.tp.phase := rfl

@[simp] theorem raiseSpace_tp_resetnLow (s : State) : (raiseSpace s).tp.resetnLow = s.tp.resetnLow := rfl

@[simp] theorem raiseSpace_tp_supplySteady (s : State) : (raiseSpace s).tp.supplySteady = s.tp.supplySteady := rfl

@[simp] theorem raiseSpace_tp_clearing (s : State) : (raiseSpace s).tp.clearing = s.tp.clearing := rfl

@[simp] theorem raiseSpace_tp_decoder (s : State) : (raiseSpace s).tp.decoder = s.tp.decoder := rfl

@[simp] theorem raiseSpace_tp_outcome (s : State) : (raiseSpace s).tp.outcome = s.tp.outcome := rfl

@[simp] theorem raiseSpace_tp_stream (s : State) : (raiseSpace s).tp.stream = s.tp.stream := rfl

@[simp] theorem raiseSpace_form (s : State) : (raiseSpace s).form = s.form := rfl

@[simp] theorem raiseSpace_cur (s : State) : (raiseSpace s).cur = s.cur := rfl

@[simp] theorem raiseSpace_key (s : State) : (raiseSpace s).key = s.key := rfl

@[simp] theorem raiseSpace_comp (s : State) : (raiseSpace s).comp = s.comp := rfl

@[simp] theorem raiseSpace_send (s : State) : (raiseSpace s).send = s.send := rfl

@[simp] theorem raiseSpace_line (s : State) : (raiseSpace s).line = s.line := rfl

@[simp] theorem raiseSpace_desk (s : State) : (raiseSpace s).desk = s.desk := rfl

/-! ### setKeyboard -/

@[simp] theorem setKeyboard_pending (k : Keyboard) (s : State) : (setKeyboard k s).pending = s.pending := by
  simp [setKeyboard]

@[simp] theorem setKeyboard_tp (k : Keyboard) (s : State) : (setKeyboard k s).tp = s.tp := by
  simp [setKeyboard]

@[simp] theorem setKeyboard_form (k : Keyboard) (s : State) : (setKeyboard k s).form = s.form := by
  simp [setKeyboard]

@[simp] theorem setKeyboard_cur (k : Keyboard) (s : State) : (setKeyboard k s).cur = s.cur := by
  simp [setKeyboard]

@[simp] theorem setKeyboard_key_queue (k : Keyboard) (s : State) : (setKeyboard k s).key.queue = s.key.queue := by
  simp [setKeyboard]

@[simp] theorem setKeyboard_key_insertMode (k : Keyboard) (s : State) : (setKeyboard k s).key.insertMode = s.key.insertMode := by
  simp [setKeyboard]

@[simp] theorem setKeyboard_key_edit (k : Keyboard) (s : State) : (setKeyboard k s).key.edit = s.key.edit := by
  simp [setKeyboard]

@[simp] theorem setKeyboard_key_alarm (k : Keyboard) (s : State) : (setKeyboard k s).key.alarm = s.key.alarm := by
  simp [setKeyboard]

@[simp] theorem setKeyboard_comp_image (k : Keyboard) (s : State) : (setKeyboard k s).comp.image = s.comp.image := by
  simp [setKeyboard]

@[simp] theorem setKeyboard_comp_rendering (k : Keyboard) (s : State) : (setKeyboard k s).comp.rendering = s.comp.rendering := by
  simp [setKeyboard]

@[simp] theorem setKeyboard_send (k : Keyboard) (s : State) : (setKeyboard k s).send = s.send := by
  simp [setKeyboard]

@[simp] theorem setKeyboard_line (k : Keyboard) (s : State) : (setKeyboard k s).line = s.line := by
  simp [setKeyboard]

@[simp] theorem setKeyboard_desk (k : Keyboard) (s : State) : (setKeyboard k s).desk = s.desk := by
  simp [setKeyboard]

/-! ### raiseError -/

@[simp] theorem raiseError_pending (e : OpError) (s : State) : (raiseError e s).pending = s.pending := by
  simp [raiseError]

@[simp] theorem raiseError_tp_phase (e : OpError) (s : State) : (raiseError e s).tp.phase = s.tp.phase := by
  simp [raiseError]

@[simp] theorem raiseError_tp_resetnLow (e : OpError) (s : State) : (raiseError e s).tp.resetnLow = s.tp.resetnLow := by
  simp [raiseError]

@[simp] theorem raiseError_tp_supplySteady (e : OpError) (s : State) : (raiseError e s).tp.supplySteady = s.tp.supplySteady := by
  simp [raiseError]

@[simp] theorem raiseError_tp_clearing (e : OpError) (s : State) : (raiseError e s).tp.clearing = s.tp.clearing := by
  simp [raiseError]

@[simp] theorem raiseError_tp_decoder (e : OpError) (s : State) : (raiseError e s).tp.decoder = s.tp.decoder := by
  simp [raiseError]

@[simp] theorem raiseError_tp_outcome (e : OpError) (s : State) : (raiseError e s).tp.outcome = s.tp.outcome := by
  simp [raiseError]

@[simp] theorem raiseError_tp_stream (e : OpError) (s : State) : (raiseError e s).tp.stream = s.tp.stream := by
  simp [raiseError]

@[simp] theorem raiseError_form (e : OpError) (s : State) : (raiseError e s).form = s.form := by
  simp [raiseError]

@[simp] theorem raiseError_cur (e : OpError) (s : State) : (raiseError e s).cur = s.cur := by
  simp [raiseError]

@[simp] theorem raiseError_key_queue (e : OpError) (s : State) : (raiseError e s).key.queue = s.key.queue := by
  simp [raiseError]

@[simp] theorem raiseError_key_insertMode (e : OpError) (s : State) : (raiseError e s).key.insertMode = s.key.insertMode := by
  simp [raiseError]

@[simp] theorem raiseError_key_edit (e : OpError) (s : State) : (raiseError e s).key.edit = s.key.edit := by
  simp [raiseError]

@[simp] theorem raiseError_comp_image (e : OpError) (s : State) : (raiseError e s).comp.image = s.comp.image := by
  simp [raiseError]

@[simp] theorem raiseError_comp_rendering (e : OpError) (s : State) : (raiseError e s).comp.rendering = s.comp.rendering := by
  simp [raiseError]

@[simp] theorem raiseError_send (e : OpError) (s : State) : (raiseError e s).send = s.send := by
  simp [raiseError]

@[simp] theorem raiseError_line (e : OpError) (s : State) : (raiseError e s).line = s.line := by
  simp [raiseError]

@[simp] theorem raiseError_desk (e : OpError) (s : State) : (raiseError e s).desk = s.desk := by
  simp [raiseError]

/-! ### placeAnnounce -/

@[simp] theorem placeAnnounce_pending (a : Announce) (n : Nat) (s : State) : (placeAnnounce a n s).pending = s.pending := rfl

@[simp] theorem placeAnnounce_tp (a : Announce) (n : Nat) (s : State) : (placeAnnounce a n s).tp = s.tp := rfl

@[simp] theorem placeAnnounce_form (a : Announce) (n : Nat) (s : State) : (placeAnnounce a n s).form = s.form := rfl

@[simp] theorem placeAnnounce_cur (a : Announce) (n : Nat) (s : State) : (placeAnnounce a n s).cur = s.cur := rfl

@[simp] theorem placeAnnounce_key (a : Announce) (n : Nat) (s : State) : (placeAnnounce a n s).key = s.key := rfl

@[simp] theorem placeAnnounce_comp (a : Announce) (n : Nat) (s : State) : (placeAnnounce a n s).comp = s.comp := rfl

@[simp] theorem placeAnnounce_send (a : Announce) (n : Nat) (s : State) : (placeAnnounce a n s).send = s.send := rfl

@[simp] theorem placeAnnounce_line_station (a : Announce) (n : Nat) (s : State) : (placeAnnounce a n s).line.station = s.line.station := by
  unfold placeAnnounce unmark; dsimp only; split <;> rfl

@[simp] theorem placeAnnounce_line_listenOnly (a : Announce) (n : Nat) (s : State) : (placeAnnounce a n s).line.listenOnly = s.line.listenOnly := by
  unfold placeAnnounce unmark; dsimp only; split <;> rfl

@[simp] theorem placeAnnounce_line_fifo (a : Announce) (n : Nat) (s : State) : (placeAnnounce a n s).line.fifo = s.line.fifo := by
  unfold placeAnnounce unmark; dsimp only; split <;> rfl

@[simp] theorem placeAnnounce_line_rxState (a : Announce) (n : Nat) (s : State) : (placeAnnounce a n s).line.rxState = s.line.rxState := by
  unfold placeAnnounce unmark; dsimp only; split <;> rfl

@[simp] theorem placeAnnounce_line_handoff (a : Announce) (n : Nat) (s : State) : (placeAnnounce a n s).line.handoff = s.line.handoff := by
  unfold placeAnnounce unmark; dsimp only; split <;> rfl

@[simp] theorem placeAnnounce_line_joined (a : Announce) (n : Nat) (s : State) : (placeAnnounce a n s).line.joined = s.line.joined := by
  unfold placeAnnounce unmark; dsimp only; split <;> rfl

@[simp] theorem placeAnnounce_line_tx (a : Announce) (n : Nat) (s : State) : (placeAnnounce a n s).line.tx = s.line.tx := by
  unfold placeAnnounce unmark; dsimp only; split <;> rfl

@[simp] theorem placeAnnounce_line_selection (a : Announce) (n : Nat) (s : State) : (placeAnnounce a n s).line.selection = s.line.selection := by
  unfold placeAnnounce unmark; dsimp only; split <;> rfl

@[simp] theorem placeAnnounce_line_flags (a : Announce) (n : Nat) (s : State) : (placeAnnounce a n s).line.flags = s.line.flags := by
  unfold placeAnnounce unmark; dsimp only; split <;> rfl

@[simp] theorem placeAnnounce_line_loopback (a : Announce) (n : Nat) (s : State) : (placeAnnounce a n s).line.loopback = s.line.loopback := by
  unfold placeAnnounce unmark; dsimp only; split <;> rfl

@[simp] theorem placeAnnounce_desk_table (a : Announce) (n : Nat) (s : State) : (placeAnnounce a n s).desk.table = s.desk.table := rfl

@[simp] theorem placeAnnounce_desk_active (a : Announce) (n : Nat) (s : State) : (placeAnnounce a n s).desk.active = s.desk.active := rfl

@[simp] theorem placeAnnounce_desk_greet (a : Announce) (n : Nat) (s : State) : (placeAnnounce a n s).desk.greet = s.desk.greet := rfl

@[simp] theorem placeAnnounce_desk_flow (a : Announce) (n : Nat) (s : State) : (placeAnnounce a n s).desk.flow = s.desk.flow := rfl

@[simp] theorem placeAnnounce_desk_messages (a : Announce) (n : Nat) (s : State) : (placeAnnounce a n s).desk.messages = s.desk.messages := rfl

@[simp] theorem placeAnnounce_desk_inbound (a : Announce) (n : Nat) (s : State) : (placeAnnounce a n s).desk.inbound = s.desk.inbound := rfl

@[simp] theorem placeAnnounce_desk_inboundLost (a : Announce) (n : Nat) (s : State) : (placeAnnounce a n s).desk.inboundLost = s.desk.inboundLost := rfl

@[simp] theorem placeAnnounce_desk_pauseSent (a : Announce) (n : Nat) (s : State) : (placeAnnounce a n s).desk.pauseSent = s.desk.pauseSent := rfl

@[simp] theorem placeAnnounce_desk_paused (a : Announce) (n : Nat) (s : State) : (placeAnnounce a n s).desk.paused = s.desk.paused := rfl

@[simp] theorem placeAnnounce_desk_banner (a : Announce) (n : Nat) (s : State) : (placeAnnounce a n s).desk.banner = s.desk.banner := rfl

@[simp] theorem placeAnnounce_desk_refresh (a : Announce) (n : Nat) (s : State) : (placeAnnounce a n s).desk.refresh = s.desk.refresh := rfl

/-! ### placeAll -/

@[simp] theorem placeAll_pending (a : Announce) (ts : List Nat) (s : State) : (placeAll a ts s).pending = s.pending := by
  induction ts generalizing s with
  | nil => rfl
  | cons x xs ih => simp [placeAll, ih]

@[simp] theorem placeAll_tp (a : Announce) (ts : List Nat) (s : State) : (placeAll a ts s).tp = s.tp := by
  induction ts generalizing s with
  | nil => rfl
  | cons x xs ih => simp [placeAll, ih]

@[simp] theorem placeAll_form (a : Announce) (ts : List Nat) (s : State) : (placeAll a ts s).form = s.form := by
  induction ts generalizing s with
  | nil => rfl
  | cons x xs ih => simp [placeAll, ih]

@[simp] theorem placeAll_cur (a : Announce) (ts : List Nat) (s : State) : (placeAll a ts s).cur = s.cur := by
  induction ts generalizing s with
  | nil => rfl
  | cons x xs ih => simp [placeAll, ih]

@[simp] theorem placeAll_key (a : Announce) (ts : List Nat) (s : State) : (placeAll a ts s).key = s.key := by
  induction ts generalizing s with
  | nil => rfl
  | cons x xs ih => simp [placeAll, ih]

@[simp] theorem placeAll_comp (a : Announce) (ts : List Nat) (s : State) : (placeAll a ts s).comp = s.comp := by
  induction ts generalizing s with
  | nil => rfl
  | cons x xs ih => simp [placeAll, ih]

@[simp] theorem placeAll_send (a : Announce) (ts : List Nat) (s : State) : (placeAll a ts s).send = s.send := by
  induction ts generalizing s with
  | nil => rfl
  | cons x xs ih => simp [placeAll, ih]

@[simp] theorem placeAll_line_station (a : Announce) (ts : List Nat) (s : State) : (placeAll a ts s).line.station = s.line.station := by
  induction ts generalizing s with
  | nil => rfl
  | cons x xs ih => simp [placeAll, ih]

@[simp] theorem placeAll_line_listenOnly (a : Announce) (ts : List Nat) (s : State) : (placeAll a ts s).line.listenOnly = s.line.listenOnly := by
  induction ts generalizing s with
  | nil => rfl
  | cons x xs ih => simp [placeAll, ih]

@[simp] theorem placeAll_line_fifo (a : Announce) (ts : List Nat) (s : State) : (placeAll a ts s).line.fifo = s.line.fifo := by
  induction ts generalizing s with
  | nil => rfl
  | cons x xs ih => simp [placeAll, ih]

@[simp] theorem placeAll_line_rxState (a : Announce) (ts : List Nat) (s : State) : (placeAll a ts s).line.rxState = s.line.rxState := by
  induction ts generalizing s with
  | nil => rfl
  | cons x xs ih => simp [placeAll, ih]

@[simp] theorem placeAll_line_handoff (a : Announce) (ts : List Nat) (s : State) : (placeAll a ts s).line.handoff = s.line.handoff := by
  induction ts generalizing s with
  | nil => rfl
  | cons x xs ih => simp [placeAll, ih]

@[simp] theorem placeAll_line_joined (a : Announce) (ts : List Nat) (s : State) : (placeAll a ts s).line.joined = s.line.joined := by
  induction ts generalizing s with
  | nil => rfl
  | cons x xs ih => simp [placeAll, ih]

@[simp] theorem placeAll_line_tx (a : Announce) (ts : List Nat) (s : State) : (placeAll a ts s).line.tx = s.line.tx := by
  induction ts generalizing s with
  | nil => rfl
  | cons x xs ih => simp [placeAll, ih]

@[simp] theorem placeAll_line_selection (a : Announce) (ts : List Nat) (s : State) : (placeAll a ts s).line.selection = s.line.selection := by
  induction ts generalizing s with
  | nil => rfl
  | cons x xs ih => simp [placeAll, ih]

@[simp] theorem placeAll_line_flags (a : Announce) (ts : List Nat) (s : State) : (placeAll a ts s).line.flags = s.line.flags := by
  induction ts generalizing s with
  | nil => rfl
  | cons x xs ih => simp [placeAll, ih]

@[simp] theorem placeAll_line_loopback (a : Announce) (ts : List Nat) (s : State) : (placeAll a ts s).line.loopback = s.line.loopback := by
  induction ts generalizing s with
  | nil => rfl
  | cons x xs ih => simp [placeAll, ih]

@[simp] theorem placeAll_desk_table (a : Announce) (ts : List Nat) (s : State) : (placeAll a ts s).desk.table = s.desk.table := by
  induction ts generalizing s with
  | nil => rfl
  | cons x xs ih => simp [placeAll, ih]

@[simp] theorem placeAll_desk_active (a : Announce) (ts : List Nat) (s : State) : (placeAll a ts s).desk.active = s.desk.active := by
  induction ts generalizing s with
  | nil => rfl
  | cons x xs ih => simp [placeAll, ih]

@[simp] theorem placeAll_desk_greet (a : Announce) (ts : List Nat) (s : State) : (placeAll a ts s).desk.greet = s.desk.greet := by
  induction ts generalizing s with
  | nil => rfl
  | cons x xs ih => simp [placeAll, ih]

@[simp] theorem placeAll_desk_flow (a : Announce) (ts : List Nat) (s : State) : (placeAll a ts s).desk.flow = s.desk.flow := by
  induction ts generalizing s with
  | nil => rfl
  | cons x xs ih => simp [placeAll, ih]

@[simp] theorem placeAll_desk_messages (a : Announce) (ts : List Nat) (s : State) : (placeAll a ts s).desk.messages = s.desk.messages := by
  induction ts generalizing s with
  | nil => rfl
  | cons x xs ih => simp [placeAll, ih]

@[simp] theorem placeAll_desk_inbound (a : Announce) (ts : List Nat) (s : State) : (placeAll a ts s).desk.inbound = s.desk.inbound := by
  induction ts generalizing s with
  | nil => rfl
  | cons x xs ih => simp [placeAll, ih]

@[simp] theorem placeAll_desk_inboundLost (a : Announce) (ts : List Nat) (s : State) : (placeAll a ts s).desk.inboundLost = s.desk.inboundLost := by
  induction ts generalizing s with
  | nil => rfl
  | cons x xs ih => simp [placeAll, ih]

@[simp] theorem placeAll_desk_pauseSent (a : Announce) (ts : List Nat) (s : State) : (placeAll a ts s).desk.pauseSent = s.desk.pauseSent := by
  induction ts generalizing s with
  | nil => rfl
  | cons x xs ih => simp [placeAll, ih]

@[simp] theorem placeAll_desk_paused (a : Announce) (ts : List Nat) (s : State) : (placeAll a ts s).desk.paused = s.desk.paused := by
  induction ts generalizing s with
  | nil => rfl
  | cons x xs ih => simp [placeAll, ih]

@[simp] theorem placeAll_desk_banner (a : Announce) (ts : List Nat) (s : State) : (placeAll a ts s).desk.banner = s.desk.banner := by
  induction ts generalizing s with
  | nil => rfl
  | cons x xs ih => simp [placeAll, ih]

@[simp] theorem placeAll_desk_refresh (a : Announce) (ts : List Nat) (s : State) : (placeAll a ts s).desk.refresh = s.desk.refresh := by
  induction ts generalizing s with
  | nil => rfl
  | cons x xs ih => simp [placeAll, ih]

/-! ### placeFlow -/

@[simp] theorem placeFlow_pending (f : Flow) (s : State) : (placeFlow f s).pending = s.pending := rfl

@[simp] theorem placeFlow_tp (f : Flow) (s : State) : (placeFlow f s).tp = s.tp := rfl

@[simp] theorem placeFlow_form (f : Flow) (s : State) : (placeFlow f s).form = s.form := rfl

@[simp] theorem placeFlow_cur (f : Flow) (s : State) : (placeFlow f s).cur = s.cur := rfl

@[simp] theorem placeFlow_key (f : Flow) (s : State) : (placeFlow f s).key = s.key := rfl

@[simp] theorem placeFlow_comp (f : Flow) (s : State) : (placeFlow f s).comp = s.comp := rfl

@[simp] theorem placeFlow_send (f : Flow) (s : State) : (placeFlow f s).send = s.send := rfl

@[simp] theorem placeFlow_line_station (f : Flow) (s : State) : (placeFlow f s).line.station = s.line.station := by
  unfold placeFlow unmark; dsimp only; split <;> rfl

@[simp] theorem placeFlow_line_listenOnly (f : Flow) (s : State) : (placeFlow f s).line.listenOnly = s.line.listenOnly := by
  unfold placeFlow unmark; dsimp only; split <;> rfl

@[simp] theorem placeFlow_line_fifo (f : Flow) (s : State) : (placeFlow f s).line.fifo = s.line.fifo := by
  unfold placeFlow unmark; dsimp only; split <;> rfl

@[simp] theorem placeFlow_line_rxState (f : Flow) (s : State) : (placeFlow f s).line.rxState = s.line.rxState := by
  unfold placeFlow unmark; dsimp only; split <;> rfl

@[simp] theorem placeFlow_line_handoff (f : Flow) (s : State) : (placeFlow f s).line.handoff = s.line.handoff := by
  unfold placeFlow unmark; dsimp only; split <;> rfl

@[simp] theorem placeFlow_line_joined (f : Flow) (s : State) : (placeFlow f s).line.joined = s.line.joined := by
  unfold placeFlow unmark; dsimp only; split <;> rfl

@[simp] theorem placeFlow_line_tx (f : Flow) (s : State) : (placeFlow f s).line.tx = s.line.tx := by
  unfold placeFlow unmark; dsimp only; split <;> rfl

@[simp] theorem placeFlow_line_selection (f : Flow) (s : State) : (placeFlow f s).line.selection = s.line.selection := by
  unfold placeFlow unmark; dsimp only; split <;> rfl

@[simp] theorem placeFlow_line_flags (f : Flow) (s : State) : (placeFlow f s).line.flags = s.line.flags := by
  unfold placeFlow unmark; dsimp only; split <;> rfl

@[simp] theorem placeFlow_line_loopback (f : Flow) (s : State) : (placeFlow f s).line.loopback = s.line.loopback := by
  unfold placeFlow unmark; dsimp only; split <;> rfl

@[simp] theorem placeFlow_desk_table (f : Flow) (s : State) : (placeFlow f s).desk.table = s.desk.table := rfl

@[simp] theorem placeFlow_desk_active (f : Flow) (s : State) : (placeFlow f s).desk.active = s.desk.active := rfl

@[simp] theorem placeFlow_desk_tallies (f : Flow) (s : State) : (placeFlow f s).desk.tallies = s.desk.tallies := rfl

@[simp] theorem placeFlow_desk_greet (f : Flow) (s : State) : (placeFlow f s).desk.greet = s.desk.greet := rfl

@[simp] theorem placeFlow_desk_messages (f : Flow) (s : State) : (placeFlow f s).desk.messages = s.desk.messages := rfl

@[simp] theorem placeFlow_desk_inbound (f : Flow) (s : State) : (placeFlow f s).desk.inbound = s.desk.inbound := rfl

@[simp] theorem placeFlow_desk_inboundLost (f : Flow) (s : State) : (placeFlow f s).desk.inboundLost = s.desk.inboundLost := rfl

@[simp] theorem placeFlow_desk_pauseSent (f : Flow) (s : State) : (placeFlow f s).desk.pauseSent = s.desk.pauseSent := rfl

@[simp] theorem placeFlow_desk_paused (f : Flow) (s : State) : (placeFlow f s).desk.paused = s.desk.paused := rfl

@[simp] theorem placeFlow_desk_banner (f : Flow) (s : State) : (placeFlow f s).desk.banner = s.desk.banner := rfl

@[simp] theorem placeFlow_desk_refresh (f : Flow) (s : State) : (placeFlow f s).desk.refresh = s.desk.refresh := rfl

/-! ### askArbiter -/

@[simp] theorem askArbiter_pending (s : State) : (askArbiter s).pending = s.pending := by
  unfold askArbiter; split <;> rfl

@[simp] theorem askArbiter_tp (s : State) : (askArbiter s).tp = s.tp := by
  unfold askArbiter; split <;> rfl

@[simp] theorem askArbiter_form (s : State) : (askArbiter s).form = s.form := by
  unfold askArbiter; split <;> rfl

@[simp] theorem askArbiter_cur (s : State) : (askArbiter s).cur = s.cur := by
  unfold askArbiter; split <;> rfl

@[simp] theorem askArbiter_key (s : State) : (askArbiter s).key = s.key := by
  unfold askArbiter; split <;> rfl

@[simp] theorem askArbiter_comp (s : State) : (askArbiter s).comp = s.comp := by
  unfold askArbiter; split <;> rfl

@[simp] theorem askArbiter_send (s : State) : (askArbiter s).send = s.send := by
  unfold askArbiter; split <;> rfl

@[simp] theorem askArbiter_line_station (s : State) : (askArbiter s).line.station = s.line.station := by
  unfold askArbiter; split <;> rfl

@[simp] theorem askArbiter_line_listenOnly (s : State) : (askArbiter s).line.listenOnly = s.line.listenOnly := by
  unfold askArbiter; split <;> rfl

@[simp] theorem askArbiter_line_fifo (s : State) : (askArbiter s).line.fifo = s.line.fifo := by
  unfold askArbiter; split <;> rfl

@[simp] theorem askArbiter_line_rxState (s : State) : (askArbiter s).line.rxState = s.line.rxState := by
  unfold askArbiter; split <;> rfl

@[simp] theorem askArbiter_line_handoff (s : State) : (askArbiter s).line.handoff = s.line.handoff := by
  unfold askArbiter; split <;> rfl

@[simp] theorem askArbiter_line_joined (s : State) : (askArbiter s).line.joined = s.line.joined := by
  unfold askArbiter; split <;> rfl

@[simp] theorem askArbiter_line_flags (s : State) : (askArbiter s).line.flags = s.line.flags := by
  unfold askArbiter; split <;> rfl

@[simp] theorem askArbiter_line_loopback (s : State) : (askArbiter s).line.loopback = s.line.loopback := by
  unfold askArbiter; split <;> rfl

@[simp] theorem askArbiter_desk (s : State) : (askArbiter s).desk = s.desk := by
  unfold askArbiter; split <;> rfl

/-! ### startRender -/

@[simp] theorem startRender_pending (s : State) : (startRender s).pending = s.pending := rfl

@[simp] theorem startRender_tp (s : State) : (startRender s).tp = s.tp := rfl

@[simp] theorem startRender_form (s : State) : (startRender s).form = s.form := rfl

@[simp] theorem startRender_cur (s : State) : (startRender s).cur = s.cur := rfl

@[simp] theorem startRender_key (s : State) : (startRender s).key = s.key := rfl

@[simp] theorem startRender_comp_image (s : State) : (startRender s).comp.image = s.comp.image := rfl

@[simp] theorem startRender_comp_items (s : State) : (startRender s).comp.items = s.comp.items := rfl

@[simp] theorem startRender_comp_remark (s : State) : (startRender s).comp.remark = s.comp.remark := rfl

@[simp] theorem startRender_send (s : State) : (startRender s).send = s.send := rfl

@[simp] theorem startRender_line (s : State) : (startRender s).line = s.line := rfl

@[simp] theorem startRender_desk (s : State) : (startRender s).desk = s.desk := rfl

/-! ### idleAsk -/

@[simp] theorem idleAsk_pending (s : State) : (idleAsk s).pending = s.pending := by
  unfold idleAsk; split <;> simp

@[simp] theorem idleAsk_tp (s : State) : (idleAsk s).tp = s.tp := by
  unfold idleAsk; split <;> simp

@[simp] theorem idleAsk_form (s : State) : (idleAsk s).form = s.form := by
  unfold idleAsk; split <;> simp

@[simp] theorem idleAsk_cur (s : State) : (idleAsk s).cur = s.cur := by
  unfold idleAsk; split <;> simp

@[simp] theorem idleAsk_key (s : State) : (idleAsk s).key = s.key := by
  unfold idleAsk; split <;> simp

@[simp] theorem idleAsk_comp (s : State) : (idleAsk s).comp = s.comp := by
  unfold idleAsk; split <;> simp

@[simp] theorem idleAsk_send (s : State) : (idleAsk s).send = s.send := by
  unfold idleAsk; split <;> simp

@[simp] theorem idleAsk_line_station (s : State) : (idleAsk s).line.station = s.line.station := by
  unfold idleAsk; split <;> simp

@[simp] theorem idleAsk_line_listenOnly (s : State) : (idleAsk s).line.listenOnly = s.line.listenOnly := by
  unfold idleAsk; split <;> simp

@[simp] theorem idleAsk_line_fifo (s : State) : (idleAsk s).line.fifo = s.line.fifo := by
  unfold idleAsk; split <;> simp

@[simp] theorem idleAsk_line_rxState (s : State) : (idleAsk s).line.rxState = s.line.rxState := by
  unfold idleAsk; split <;> simp

@[simp] theorem idleAsk_line_handoff (s : State) : (idleAsk s).line.handoff = s.line.handoff := by
  unfold idleAsk; split <;> simp

@[simp] theorem idleAsk_line_joined (s : State) : (idleAsk s).line.joined = s.line.joined := by
  unfold idleAsk; split <;> simp

@[simp] theorem idleAsk_line_flags (s : State) : (idleAsk s).line.flags = s.line.flags := by
  unfold idleAsk; split <;> simp

@[simp] theorem idleAsk_line_loopback (s : State) : (idleAsk s).line.loopback = s.line.loopback := by
  unfold idleAsk; split <;> simp

@[simp] theorem idleAsk_desk (s : State) : (idleAsk s).desk = s.desk := by
  unfold idleAsk; split <;> simp

/-! ### settle -/

@[simp] theorem settle_pending (s : State) : (settle s).pending = s.pending := by
  simp [settle]

@[simp] theorem settle_tp (s : State) : (settle s).tp = s.tp := by
  simp [settle]

@[simp] theorem settle_form (s : State) : (settle s).form = s.form := by
  simp [settle]

@[simp] theorem settle_cur (s : State) : (settle s).cur = s.cur := by
  simp [settle]

@[simp] theorem settle_key (s : State) : (settle s).key = s.key := by
  simp [settle]

@[simp] theorem settle_comp_image (s : State) : (settle s).comp.image = s.comp.image := by
  simp [settle]

@[simp] theorem settle_comp_items (s : State) : (settle s).comp.items = s.comp.items := by
  simp [settle]

@[simp] theorem settle_comp_remark (s : State) : (settle s).comp.remark = s.comp.remark := by
  simp [settle]

@[simp] theorem settle_send (s : State) : (settle s).send = s.send := by
  simp [settle]

@[simp] theorem settle_line_station (s : State) : (settle s).line.station = s.line.station := by
  simp [settle]

@[simp] theorem settle_line_listenOnly (s : State) : (settle s).line.listenOnly = s.line.listenOnly := by
  simp [settle]

@[simp] theorem settle_line_fifo (s : State) : (settle s).line.fifo = s.line.fifo := by
  simp [settle]

@[simp] theorem settle_line_rxState (s : State) : (settle s).line.rxState = s.line.rxState := by
  simp [settle]

@[simp] theorem settle_line_handoff (s : State) : (settle s).line.handoff = s.line.handoff := by
  simp [settle]

@[simp] theorem settle_line_joined (s : State) : (settle s).line.joined = s.line.joined := by
  simp [settle]

@[simp] theorem settle_line_flags (s : State) : (settle s).line.flags = s.line.flags := by
  simp [settle]

@[simp] theorem settle_line_loopback (s : State) : (settle s).line.loopback = s.line.loopback := by
  simp [settle]

@[simp] theorem settle_desk (s : State) : (settle s).desk = s.desk := by
  simp [settle]

/-! ### requestInst -/

@[simp] theorem requestInst_pending (i : Inst) (s : State) : (requestInst i s).pending = s.pending := by
  unfold requestInst; split <;> simp

@[simp] theorem requestInst_tp (i : Inst) (s : State) : (requestInst i s).tp = s.tp := by
  unfold requestInst; split <;> simp

@[simp] theorem requestInst_form (i : Inst) (s : State) : (requestInst i s).form = s.form := by
  unfold requestInst; split <;> simp

@[simp] theorem requestInst_cur (i : Inst) (s : State) : (requestInst i s).cur = s.cur := by
  unfold requestInst; split <;> simp

@[simp] theorem requestInst_key (i : Inst) (s : State) : (requestInst i s).key = s.key := by
  unfold requestInst; split <;> simp

@[simp] theorem requestInst_comp_image (i : Inst) (s : State) : (requestInst i s).comp.image = s.comp.image := by
  unfold requestInst; split <;> simp

@[simp] theorem requestInst_comp_rendering (i : Inst) (s : State) : (requestInst i s).comp.rendering = s.comp.rendering := by
  unfold requestInst; split <;> simp

@[simp] theorem requestInst_send (i : Inst) (s : State) : (requestInst i s).send = s.send := by
  unfold requestInst; split <;> simp

@[simp] theorem requestInst_line (i : Inst) (s : State) : (requestInst i s).line = s.line := by
  unfold requestInst; split <;> simp

@[simp] theorem requestInst_desk (i : Inst) (s : State) : (requestInst i s).desk = s.desk := by
  unfold requestInst; split <;> simp

/-! ### recompute -/

@[simp] theorem recompute_pending (lo n : Nat) (s : State) : (recompute lo n s).pending = s.pending := rfl

@[simp] theorem recompute_tp (lo n : Nat) (s : State) : (recompute lo n s).tp = s.tp := rfl

@[simp] theorem recompute_form_state (lo n : Nat) (s : State) : (recompute lo n s).form.state = s.form.state := rfl

@[simp] theorem recompute_form_h (lo n : Nat) (s : State) : (recompute lo n s).form.h = s.form.h := rfl

@[simp] theorem recompute_form_w (lo n : Nat) (s : State) : (recompute lo n s).form.w = s.form.w := rfl

@[simp] theorem recompute_form_d (lo n : Nat) (s : State) : (recompute lo n s).form.d = s.form.d := rfl

@[simp] theorem recompute_form_fields (lo n : Nat) (s : State) : (recompute lo n s).form.fields = s.form.fields := rfl

@[simp] theorem recompute_form_cols (lo n : Nat) (s : State) : (recompute lo n s).form.cols = s.form.cols := rfl

@[simp] theorem recompute_form_screenPlane (lo n : Nat) (s : State) : (recompute lo n s).form.screenPlane = s.form.screenPlane := rfl

@[simp] theorem recompute_form_linePlane (lo n : Nat) (s : State) : (recompute lo n s).form.linePlane = s.form.linePlane := rfl

@[simp] theorem recompute_cur (lo n : Nat) (s : State) : (recompute lo n s).cur = s.cur := rfl

@[simp] theorem recompute_key (lo n : Nat) (s : State) : (recompute lo n s).key = s.key := rfl

@[simp] theorem recompute_comp (lo n : Nat) (s : State) : (recompute lo n s).comp = s.comp := rfl

@[simp] theorem recompute_send (lo n : Nat) (s : State) : (recompute lo n s).send = s.send := rfl

@[simp] theorem recompute_line (lo n : Nat) (s : State) : (recompute lo n s).line = s.line := rfl

@[simp] theorem recompute_desk_table (lo n : Nat) (s : State) : (recompute lo n s).desk.table = s.desk.table := rfl

@[simp] theorem recompute_desk_tallies (lo n : Nat) (s : State) : (recompute lo n s).desk.tallies = s.desk.tallies := rfl

@[simp] theorem recompute_desk_greet (lo n : Nat) (s : State) : (recompute lo n s).desk.greet = s.desk.greet := rfl

@[simp] theorem recompute_desk_flow (lo n : Nat) (s : State) : (recompute lo n s).desk.flow = s.desk.flow := rfl

@[simp] theorem recompute_desk_messages (lo n : Nat) (s : State) : (recompute lo n s).desk.messages = s.desk.messages := rfl

@[simp] theorem recompute_desk_inbound (lo n : Nat) (s : State) : (recompute lo n s).desk.inbound = s.desk.inbound := rfl

@[simp] theorem recompute_desk_inboundLost (lo n : Nat) (s : State) : (recompute lo n s).desk.inboundLost = s.desk.inboundLost := rfl

@[simp] theorem recompute_desk_pauseSent (lo n : Nat) (s : State) : (recompute lo n s).desk.pauseSent = s.desk.pauseSent := rfl

@[simp] theorem recompute_desk_paused (lo n : Nat) (s : State) : (recompute lo n s).desk.paused = s.desk.paused := rfl

@[simp] theorem recompute_desk_banner (lo n : Nat) (s : State) : (recompute lo n s).desk.banner = s.desk.banner := rfl

@[simp] theorem recompute_desk_refresh (lo n : Nat) (s : State) : (recompute lo n s).desk.refresh = s.desk.refresh := rfl

/-! ### deskChange -/

@[simp] theorem deskChange_pending (b : State) (s : State) : (deskChange b s).pending = s.pending := by
  unfold deskChange; split <;> simp

@[simp] theorem deskChange_tp_phase (b : State) (s : State) : (deskChange b s).tp.phase = s.tp.phase := by
  unfold deskChange; split <;> simp

@[simp] theorem deskChange_tp_resetnLow (b : State) (s : State) : (deskChange b s).tp.resetnLow = s.tp.resetnLow := by
  unfold deskChange; split <;> simp

@[simp] theorem deskChange_tp_supplySteady (b : State) (s : State) : (deskChange b s).tp.supplySteady = s.tp.supplySteady := by
  unfold deskChange; split <;> simp

@[simp] theorem deskChange_tp_clearing (b : State) (s : State) : (deskChange b s).tp.clearing = s.tp.clearing := by
  unfold deskChange; split <;> simp

@[simp] theorem deskChange_tp_decoder (b : State) (s : State) : (deskChange b s).tp.decoder = s.tp.decoder := by
  unfold deskChange; split <;> simp

@[simp] theorem deskChange_tp_outcome (b : State) (s : State) : (deskChange b s).tp.outcome = s.tp.outcome := by
  unfold deskChange; split <;> simp

@[simp] theorem deskChange_tp_stream (b : State) (s : State) : (deskChange b s).tp.stream = s.tp.stream := by
  unfold deskChange; split <;> simp

@[simp] theorem deskChange_form (b : State) (s : State) : (deskChange b s).form = s.form := by
  unfold deskChange; split <;> simp

@[simp] theorem deskChange_cur (b : State) (s : State) : (deskChange b s).cur = s.cur := by
  unfold deskChange; split <;> simp

@[simp] theorem deskChange_key (b : State) (s : State) : (deskChange b s).key = s.key := by
  unfold deskChange; split <;> simp

@[simp] theorem deskChange_comp (b : State) (s : State) : (deskChange b s).comp = s.comp := by
  unfold deskChange; split <;> simp

@[simp] theorem deskChange_send (b : State) (s : State) : (deskChange b s).send = s.send := by
  unfold deskChange; split <;> simp

@[simp] theorem deskChange_line (b : State) (s : State) : (deskChange b s).line = s.line := by
  unfold deskChange; split <;> simp

@[simp] theorem deskChange_desk (b : State) (s : State) : (deskChange b s).desk = s.desk := by
  unfold deskChange; split <;> simp

/-! ### handOn -/

@[simp] theorem handOn_pending (b : State) (s : State) : (handOn b s).pending = s.pending := by
  simp [handOn]

@[simp] theorem handOn_tp_phase (b : State) (s : State) : (handOn b s).tp.phase = s.tp.phase := by
  simp [handOn]

@[simp] theorem handOn_tp_resetnLow (b : State) (s : State) : (handOn b s).tp.resetnLow = s.tp.resetnLow := by
  simp [handOn]

@[simp] theorem handOn_tp_supplySteady (b : State) (s : State) : (handOn b s).tp.supplySteady = s.tp.supplySteady := by
  simp [handOn]

@[simp] theorem handOn_tp_clearing (b : State) (s : State) : (handOn b s).tp.clearing = s.tp.clearing := by
  simp [handOn]

@[simp] theorem handOn_tp_decoder (b : State) (s : State) : (handOn b s).tp.decoder = s.tp.decoder := by
  simp [handOn]

@[simp] theorem handOn_tp_outcome (b : State) (s : State) : (handOn b s).tp.outcome = s.tp.outcome := by
  simp [handOn]

@[simp] theorem handOn_tp_stream (b : State) (s : State) : (handOn b s).tp.stream = s.tp.stream := by
  simp [handOn]

@[simp] theorem handOn_form (b : State) (s : State) : (handOn b s).form = s.form := by
  simp [handOn]

@[simp] theorem handOn_cur (b : State) (s : State) : (handOn b s).cur = s.cur := by
  simp [handOn]

@[simp] theorem handOn_key (b : State) (s : State) : (handOn b s).key = s.key := by
  simp [handOn]

@[simp] theorem handOn_comp_image (b : State) (s : State) : (handOn b s).comp.image = s.comp.image := by
  simp [handOn]

@[simp] theorem handOn_comp_rendering (b : State) (s : State) : (handOn b s).comp.rendering = s.comp.rendering := by
  simp [handOn]

@[simp] theorem handOn_send (b : State) (s : State) : (handOn b s).send = s.send := by
  simp [handOn]

@[simp] theorem handOn_line_station (b : State) (s : State) : (handOn b s).line.station = s.line.station := by
  simp [handOn]

@[simp] theorem handOn_line_listenOnly (b : State) (s : State) : (handOn b s).line.listenOnly = s.line.listenOnly := by
  simp [handOn]

@[simp] theorem handOn_line_fifo (b : State) (s : State) : (handOn b s).line.fifo = s.line.fifo := by
  simp [handOn]

@[simp] theorem handOn_line_rxState (b : State) (s : State) : (handOn b s).line.rxState = s.line.rxState := by
  simp [handOn]

@[simp] theorem handOn_line_handoff (b : State) (s : State) : (handOn b s).line.handoff = s.line.handoff := by
  simp [handOn]

@[simp] theorem handOn_line_joined (b : State) (s : State) : (handOn b s).line.joined = s.line.joined := by
  simp [handOn]

@[simp] theorem handOn_line_tx (b : State) (s : State) : (handOn b s).line.tx = s.line.tx := by
  simp [handOn]

@[simp] theorem handOn_line_selection (b : State) (s : State) : (handOn b s).line.selection = s.line.selection := by
  simp [handOn]

@[simp] theorem handOn_line_flags (b : State) (s : State) : (handOn b s).line.flags = s.line.flags := by
  simp [handOn]

@[simp] theorem handOn_line_loopback (b : State) (s : State) : (handOn b s).line.loopback = s.line.loopback := by
  simp [handOn]

@[simp] theorem handOn_desk_table (b : State) (s : State) : (handOn b s).desk.table = s.desk.table := by
  simp [handOn]

@[simp] theorem handOn_desk_active (b : State) (s : State) : (handOn b s).desk.active = s.desk.active := by
  simp [handOn]

@[simp] theorem handOn_desk_greet (b : State) (s : State) : (handOn b s).desk.greet = s.desk.greet := by
  simp [handOn]

@[simp] theorem handOn_desk_flow (b : State) (s : State) : (handOn b s).desk.flow = s.desk.flow := by
  simp [handOn]

@[simp] theorem handOn_desk_messages (b : State) (s : State) : (handOn b s).desk.messages = s.desk.messages := by
  simp [handOn]

@[simp] theorem handOn_desk_inbound (b : State) (s : State) : (handOn b s).desk.inbound = s.desk.inbound := by
  simp [handOn]

@[simp] theorem handOn_desk_inboundLost (b : State) (s : State) : (handOn b s).desk.inboundLost = s.desk.inboundLost := by
  simp [handOn]

@[simp] theorem handOn_desk_pauseSent (b : State) (s : State) : (handOn b s).desk.pauseSent = s.desk.pauseSent := by
  simp [handOn]

@[simp] theorem handOn_desk_paused (b : State) (s : State) : (handOn b s).desk.paused = s.desk.paused := by
  simp [handOn]

@[simp] theorem handOn_desk_banner (b : State) (s : State) : (handOn b s).desk.banner = s.desk.banner := by
  simp [handOn]

@[simp] theorem handOn_desk_refresh (b : State) (s : State) : (handOn b s).desk.refresh = s.desk.refresh := by
  simp [handOn]

/-! ### reckon -/

@[simp] theorem reckon_pending (b : State) (lo n : Nat) (s : State) : (reckon b lo n s).pending = s.pending := by
  simp [reckon]

@[simp] theorem reckon_tp_phase (b : State) (lo n : Nat) (s : State) : (reckon b lo n s).tp.phase = s.tp.phase := by
  simp [reckon]

@[simp] theorem reckon_tp_resetnLow (b : State) (lo n : Nat) (s : State) : (reckon b lo n s).tp.resetnLow = s.tp.resetnLow := by
  simp [reckon]

@[simp] theorem reckon_tp_supplySteady (b : State) (lo n : Nat) (s : State) : (reckon b lo n s).tp.supplySteady = s.tp.supplySteady := by
  simp [reckon]

@[simp] theorem reckon_tp_clearing (b : State) (lo n : Nat) (s : State) : (reckon b lo n s).tp.clearing = s.tp.clearing := by
  simp [reckon]

@[simp] theorem reckon_tp_decoder (b : State) (lo n : Nat) (s : State) : (reckon b lo n s).tp.decoder = s.tp.decoder := by
  simp [reckon]

@[simp] theorem reckon_tp_outcome (b : State) (lo n : Nat) (s : State) : (reckon b lo n s).tp.outcome = s.tp.outcome := by
  simp [reckon]

@[simp] theorem reckon_tp_stream (b : State) (lo n : Nat) (s : State) : (reckon b lo n s).tp.stream = s.tp.stream := by
  simp [reckon]

@[simp] theorem reckon_form_state (b : State) (lo n : Nat) (s : State) : (reckon b lo n s).form.state = s.form.state := by
  simp [reckon]

@[simp] theorem reckon_form_h (b : State) (lo n : Nat) (s : State) : (reckon b lo n s).form.h = s.form.h := by
  simp [reckon]

@[simp] theorem reckon_form_w (b : State) (lo n : Nat) (s : State) : (reckon b lo n s).form.w = s.form.w := by
  simp [reckon]

@[simp] theorem reckon_form_d (b : State) (lo n : Nat) (s : State) : (reckon b lo n s).form.d = s.form.d := by
  simp [reckon]

@[simp] theorem reckon_form_fields (b : State) (lo n : Nat) (s : State) : (reckon b lo n s).form.fields = s.form.fields := by
  simp [reckon]

@[simp] theorem reckon_form_cols (b : State) (lo n : Nat) (s : State) : (reckon b lo n s).form.cols = s.form.cols := by
  simp [reckon]

@[simp] theorem reckon_form_screenPlane (b : State) (lo n : Nat) (s : State) : (reckon b lo n s).form.screenPlane = s.form.screenPlane := by
  simp [reckon]

@[simp] theorem reckon_form_linePlane (b : State) (lo n : Nat) (s : State) : (reckon b lo n s).form.linePlane = s.form.linePlane := by
  simp [reckon]

@[simp] theorem reckon_cur (b : State) (lo n : Nat) (s : State) : (reckon b lo n s).cur = s.cur := by
  simp [reckon]

@[simp] theorem reckon_key (b : State) (lo n : Nat) (s : State) : (reckon b lo n s).key = s.key := by
  simp [reckon]

@[simp] theorem reckon_comp_image (b : State) (lo n : Nat) (s : State) : (reckon b lo n s).comp.image = s.comp.image := by
  simp [reckon]

@[simp] theorem reckon_comp_rendering (b : State) (lo n : Nat) (s : State) : (reckon b lo n s).comp.rendering = s.comp.rendering := by
  simp [reckon]

@[simp] theorem reckon_send (b : State) (lo n : Nat) (s : State) : (reckon b lo n s).send = s.send := by
  simp [reckon]

@[simp] theorem reckon_line_station (b : State) (lo n : Nat) (s : State) : (reckon b lo n s).line.station = s.line.station := by
  simp [reckon]

@[simp] theorem reckon_line_listenOnly (b : State) (lo n : Nat) (s : State) : (reckon b lo n s).line.listenOnly = s.line.listenOnly := by
  simp [reckon]

@[simp] theorem reckon_line_fifo (b : State) (lo n : Nat) (s : State) : (reckon b lo n s).line.fifo = s.line.fifo := by
  simp [reckon]

@[simp] theorem reckon_line_rxState (b : State) (lo n : Nat) (s : State) : (reckon b lo n s).line.rxState = s.line.rxState := by
  simp [reckon]

@[simp] theorem reckon_line_handoff (b : State) (lo n : Nat) (s : State) : (reckon b lo n s).line.handoff = s.line.handoff := by
  simp [reckon]

@[simp] theorem reckon_line_joined (b : State) (lo n : Nat) (s : State) : (reckon b lo n s).line.joined = s.line.joined := by
  simp [reckon]

@[simp] theorem reckon_line_tx (b : State) (lo n : Nat) (s : State) : (reckon b lo n s).line.tx = s.line.tx := by
  simp [reckon]

@[simp] theorem reckon_line_selection (b : State) (lo n : Nat) (s : State) : (reckon b lo n s).line.selection = s.line.selection := by
  simp [reckon]

@[simp] theorem reckon_line_flags (b : State) (lo n : Nat) (s : State) : (reckon b lo n s).line.flags = s.line.flags := by
  simp [reckon]

@[simp] theorem reckon_line_loopback (b : State) (lo n : Nat) (s : State) : (reckon b lo n s).line.loopback = s.line.loopback := by
  simp [reckon]

@[simp] theorem reckon_desk_table (b : State) (lo n : Nat) (s : State) : (reckon b lo n s).desk.table = s.desk.table := by
  simp [reckon]

@[simp] theorem reckon_desk_greet (b : State) (lo n : Nat) (s : State) : (reckon b lo n s).desk.greet = s.desk.greet := by
  simp [reckon]

@[simp] theorem reckon_desk_flow (b : State) (lo n : Nat) (s : State) : (reckon b lo n s).desk.flow = s.desk.flow := by
  simp [reckon]

@[simp] theorem reckon_desk_messages (b : State) (lo n : Nat) (s : State) : (reckon b lo n s).desk.messages = s.desk.messages := by
  simp [reckon]

@[simp] theorem reckon_desk_inbound (b : State) (lo n : Nat) (s : State) : (reckon b lo n s).desk.inbound = s.desk.inbound := by
  simp [reckon]

@[simp] theorem reckon_desk_inboundLost (b : State) (lo n : Nat) (s : State) : (reckon b lo n s).desk.inboundLost = s.desk.inboundLost := by
  simp [reckon]

@[simp] theorem reckon_desk_pauseSent (b : State) (lo n : Nat) (s : State) : (reckon b lo n s).desk.pauseSent = s.desk.pauseSent := by
  simp [reckon]

@[simp] theorem reckon_desk_paused (b : State) (lo n : Nat) (s : State) : (reckon b lo n s).desk.paused = s.desk.paused := by
  simp [reckon]

@[simp] theorem reckon_desk_banner (b : State) (lo n : Nat) (s : State) : (reckon b lo n s).desk.banner = s.desk.banner := by
  simp [reckon]

@[simp] theorem reckon_desk_refresh (b : State) (lo n : Nat) (s : State) : (reckon b lo n s).desk.refresh = s.desk.refresh := by
  simp [reckon]

/-! ### recomputeDesk -/

@[simp] theorem recomputeDesk_pending (s : State) : (recomputeDesk s).pending = s.pending := by
  unfold recomputeDesk; split <;> simp [deskSums, setSums]

@[simp] theorem recomputeDesk_tp_phase (s : State) : (recomputeDesk s).tp.phase = s.tp.phase := by
  unfold recomputeDesk; split <;> simp [deskSums, setSums]

@[simp] theorem recomputeDesk_tp_resetnLow (s : State) : (recomputeDesk s).tp.resetnLow = s.tp.resetnLow := by
  unfold recomputeDesk; split <;> simp [deskSums, setSums]

@[simp] theorem recomputeDesk_tp_supplySteady (s : State) : (recomputeDesk s).tp.supplySteady = s.tp.supplySteady := by
  unfold recomputeDesk; split <;> simp [deskSums, setSums]

@[simp] theorem recomputeDesk_tp_clearing (s : State) : (recomputeDesk s).tp.clearing = s.tp.clearing := by
  unfold recomputeDesk; split <;> simp [deskSums, setSums]

@[simp] theorem recomputeDesk_tp_decoder (s : State) : (recomputeDesk s).tp.decoder = s.tp.decoder := by
  unfold recomputeDesk; split <;> simp [deskSums, setSums]

@[simp] theorem recomputeDesk_tp_outcome (s : State) : (recomputeDesk s).tp.outcome = s.tp.outcome := by
  unfold recomputeDesk; split <;> simp [deskSums, setSums]

@[simp] theorem recomputeDesk_tp_stream (s : State) : (recomputeDesk s).tp.stream = s.tp.stream := by
  unfold recomputeDesk; split <;> simp [deskSums, setSums]

@[simp] theorem recomputeDesk_form_state (s : State) : (recomputeDesk s).form.state = s.form.state := by
  unfold recomputeDesk; split <;> simp [deskSums, setSums]

@[simp] theorem recomputeDesk_form_h (s : State) : (recomputeDesk s).form.h = s.form.h := by
  unfold recomputeDesk; split <;> simp [deskSums, setSums]

@[simp] theorem recomputeDesk_form_w (s : State) : (recomputeDesk s).form.w = s.form.w := by
  unfold recomputeDesk; split <;> simp [deskSums, setSums]

@[simp] theorem recomputeDesk_form_d (s : State) : (recomputeDesk s).form.d = s.form.d := by
  unfold recomputeDesk; split <;> simp [deskSums, setSums]

@[simp] theorem recomputeDesk_form_fields (s : State) : (recomputeDesk s).form.fields = s.form.fields := by
  unfold recomputeDesk; split <;> simp [deskSums, setSums]

@[simp] theorem recomputeDesk_form_cols (s : State) : (recomputeDesk s).form.cols = s.form.cols := by
  unfold recomputeDesk; split <;> simp [deskSums, setSums]

@[simp] theorem recomputeDesk_form_screenPlane (s : State) : (recomputeDesk s).form.screenPlane = s.form.screenPlane := by
  unfold recomputeDesk; split <;> simp [deskSums, setSums]

@[simp] theorem recomputeDesk_form_linePlane (s : State) : (recomputeDesk s).form.linePlane = s.form.linePlane := by
  unfold recomputeDesk; split <;> simp [deskSums, setSums]

@[simp] theorem recomputeDesk_form_lines (s : State) : (recomputeDesk s).form.lines = s.form.lines := by
  unfold recomputeDesk; split <;> simp [deskSums, setSums]

@[simp] theorem recomputeDesk_cur (s : State) : (recomputeDesk s).cur = s.cur := by
  unfold recomputeDesk; split <;> simp [deskSums, setSums]

@[simp] theorem recomputeDesk_key (s : State) : (recomputeDesk s).key = s.key := by
  unfold recomputeDesk; split <;> simp [deskSums, setSums]

@[simp] theorem recomputeDesk_comp_image (s : State) : (recomputeDesk s).comp.image = s.comp.image := by
  unfold recomputeDesk; split <;> simp [deskSums, setSums]

@[simp] theorem recomputeDesk_comp_rendering (s : State) : (recomputeDesk s).comp.rendering = s.comp.rendering := by
  unfold recomputeDesk; split <;> simp [deskSums, setSums]

@[simp] theorem recomputeDesk_send (s : State) : (recomputeDesk s).send = s.send := by
  unfold recomputeDesk; split <;> simp [deskSums, setSums]

@[simp] theorem recomputeDesk_line (s : State) : (recomputeDesk s).line = s.line := by
  unfold recomputeDesk; split <;> simp [deskSums, setSums]

@[simp] theorem recomputeDesk_desk (s : State) : (recomputeDesk s).desk = s.desk := by
  unfold recomputeDesk; split <;> simp [deskSums, setSums]

/-! ### dropEdit -/

@[simp] theorem dropEdit_pending (s : State) : (dropEdit s).pending = s.pending := rfl

@[simp] theorem dropEdit_tp (s : State) : (dropEdit s).tp = s.tp := rfl

@[simp] theorem dropEdit_form (s : State) : (dropEdit s).form = s.form := rfl

@[simp] theorem dropEdit_cur (s : State) : (dropEdit s).cur = s.cur := rfl

@[simp] theorem dropEdit_key_queue (s : State) : (dropEdit s).key.queue = s.key.queue := rfl

@[simp] theorem dropEdit_key_keyboard (s : State) : (dropEdit s).key.keyboard = s.key.keyboard := rfl

@[simp] theorem dropEdit_key_insertMode (s : State) : (dropEdit s).key.insertMode = s.key.insertMode := rfl

@[simp] theorem dropEdit_key_alarm (s : State) : (dropEdit s).key.alarm = s.key.alarm := rfl

@[simp] theorem dropEdit_comp (s : State) : (dropEdit s).comp = s.comp := rfl

@[simp] theorem dropEdit_send (s : State) : (dropEdit s).send = s.send := rfl

@[simp] theorem dropEdit_line (s : State) : (dropEdit s).line = s.line := rfl

@[simp] theorem dropEdit_desk (s : State) : (dropEdit s).desk = s.desk := rfl

/-! ### writeForm -/

@[simp] theorem writeForm_pending (m : Bool) (i : Inst) (v : Value) (s : State) : (writeForm m i v s).pending = s.pending := rfl

@[simp] theorem writeForm_tp (m : Bool) (i : Inst) (v : Value) (s : State) : (writeForm m i v s).tp = s.tp := rfl

@[simp] theorem writeForm_form_state (m : Bool) (i : Inst) (v : Value) (s : State) : (writeForm m i v s).form.state = s.form.state := by
  unfold writeForm; split <;> simp

@[simp] theorem writeForm_form_h (m : Bool) (i : Inst) (v : Value) (s : State) : (writeForm m i v s).form.h = s.form.h := by
  unfold writeForm; split <;> simp

@[simp] theorem writeForm_form_w (m : Bool) (i : Inst) (v : Value) (s : State) : (writeForm m i v s).form.w = s.form.w := by
  unfold writeForm; split <;> simp

@[simp] theorem writeForm_form_d (m : Bool) (i : Inst) (v : Value) (s : State) : (writeForm m i v s).form.d = s.form.d := by
  unfold writeForm; split <;> simp

@[simp] theorem writeForm_form_fields (m : Bool) (i : Inst) (v : Value) (s : State) : (writeForm m i v s).form.fields = s.form.fields := by
  unfold writeForm; split <;> simp

@[simp] theorem writeForm_form_cols (m : Bool) (i : Inst) (v : Value) (s : State) : (writeForm m i v s).form.cols = s.form.cols := by
  unfold writeForm; split <;> simp

@[simp] theorem writeForm_form_screenPlane (m : Bool) (i : Inst) (v : Value) (s : State) : (writeForm m i v s).form.screenPlane = s.form.screenPlane := by
  unfold writeForm; split <;> simp

@[simp] theorem writeForm_form_linePlane (m : Bool) (i : Inst) (v : Value) (s : State) : (writeForm m i v s).form.linePlane = s.form.linePlane := by
  unfold writeForm; split <;> simp

@[simp] theorem writeForm_cur (m : Bool) (i : Inst) (v : Value) (s : State) : (writeForm m i v s).cur = s.cur := rfl

@[simp] theorem writeForm_key (m : Bool) (i : Inst) (v : Value) (s : State) : (writeForm m i v s).key = s.key := rfl

@[simp] theorem writeForm_comp (m : Bool) (i : Inst) (v : Value) (s : State) : (writeForm m i v s).comp = s.comp := rfl

@[simp] theorem writeForm_send (m : Bool) (i : Inst) (v : Value) (s : State) : (writeForm m i v s).send = s.send := rfl

@[simp] theorem writeForm_line (m : Bool) (i : Inst) (v : Value) (s : State) : (writeForm m i v s).line = s.line := rfl

@[simp] theorem writeForm_desk (m : Bool) (i : Inst) (v : Value) (s : State) : (writeForm m i v s).desk = s.desk := rfl

/-! ### reckonIf -/

@[simp] theorem reckonIf_pending (c : Bool) (b : State) (i : Inst) (s : State) : (reckonIf c b i s).pending = s.pending := by
  unfold reckonIf; split <;> simp

@[simp] theorem reckonIf_tp_phase (c : Bool) (b : State) (i : Inst) (s : State) : (reckonIf c b i s).tp.phase = s.tp.phase := by
  unfold reckonIf; split <;> simp

@[simp] theorem reckonIf_tp_resetnLow (c : Bool) (b : State) (i : Inst) (s : State) : (reckonIf c b i s).tp.resetnLow = s.tp.resetnLow := by
  unfold reckonIf; split <;> simp

@[simp] theorem reckonIf_tp_supplySteady (c : Bool) (b : State) (i : Inst) (s : State) : (reckonIf c b i s).tp.supplySteady = s.tp.supplySteady := by
  unfold reckonIf; split <;> simp

@[simp] theorem reckonIf_tp_clearing (c : Bool) (b : State) (i : Inst) (s : State) : (reckonIf c b i s).tp.clearing = s.tp.clearing := by
  unfold reckonIf; split <;> simp

@[simp] theorem reckonIf_tp_decoder (c : Bool) (b : State) (i : Inst) (s : State) : (reckonIf c b i s).tp.decoder = s.tp.decoder := by
  unfold reckonIf; split <;> simp

@[simp] theorem reckonIf_tp_outcome (c : Bool) (b : State) (i : Inst) (s : State) : (reckonIf c b i s).tp.outcome = s.tp.outcome := by
  unfold reckonIf; split <;> simp

@[simp] theorem reckonIf_tp_stream (c : Bool) (b : State) (i : Inst) (s : State) : (reckonIf c b i s).tp.stream = s.tp.stream := by
  unfold reckonIf; split <;> simp

@[simp] theorem reckonIf_form_state (c : Bool) (b : State) (i : Inst) (s : State) : (reckonIf c b i s).form.state = s.form.state := by
  unfold reckonIf; split <;> simp

@[simp] theorem reckonIf_form_h (c : Bool) (b : State) (i : Inst) (s : State) : (reckonIf c b i s).form.h = s.form.h := by
  unfold reckonIf; split <;> simp

@[simp] theorem reckonIf_form_w (c : Bool) (b : State) (i : Inst) (s : State) : (reckonIf c b i s).form.w = s.form.w := by
  unfold reckonIf; split <;> simp

@[simp] theorem reckonIf_form_d (c : Bool) (b : State) (i : Inst) (s : State) : (reckonIf c b i s).form.d = s.form.d := by
  unfold reckonIf; split <;> simp

@[simp] theorem reckonIf_form_fields (c : Bool) (b : State) (i : Inst) (s : State) : (reckonIf c b i s).form.fields = s.form.fields := by
  unfold reckonIf; split <;> simp

@[simp] theorem reckonIf_form_cols (c : Bool) (b : State) (i : Inst) (s : State) : (reckonIf c b i s).form.cols = s.form.cols := by
  unfold reckonIf; split <;> simp

@[simp] theorem reckonIf_form_screenPlane (c : Bool) (b : State) (i : Inst) (s : State) : (reckonIf c b i s).form.screenPlane = s.form.screenPlane := by
  unfold reckonIf; split <;> simp

@[simp] theorem reckonIf_form_linePlane (c : Bool) (b : State) (i : Inst) (s : State) : (reckonIf c b i s).form.linePlane = s.form.linePlane := by
  unfold reckonIf; split <;> simp

@[simp] theorem reckonIf_cur (c : Bool) (b : State) (i : Inst) (s : State) : (reckonIf c b i s).cur = s.cur := by
  unfold reckonIf; split <;> simp

@[simp] theorem reckonIf_key (c : Bool) (b : State) (i : Inst) (s : State) : (reckonIf c b i s).key = s.key := by
  unfold reckonIf; split <;> simp

@[simp] theorem reckonIf_comp_image (c : Bool) (b : State) (i : Inst) (s : State) : (reckonIf c b i s).comp.image = s.comp.image := by
  unfold reckonIf; split <;> simp

@[simp] theorem reckonIf_comp_rendering (c : Bool) (b : State) (i : Inst) (s : State) : (reckonIf c b i s).comp.rendering = s.comp.rendering := by
  unfold reckonIf; split <;> simp

@[simp] theorem reckonIf_send (c : Bool) (b : State) (i : Inst) (s : State) : (reckonIf c b i s).send = s.send := by
  unfold reckonIf; split <;> simp

@[simp] theorem reckonIf_line_station (c : Bool) (b : State) (i : Inst) (s : State) : (reckonIf c b i s).line.station = s.line.station := by
  unfold reckonIf; split <;> simp

@[simp] theorem reckonIf_line_listenOnly (c : Bool) (b : State) (i : Inst) (s : State) : (reckonIf c b i s).line.listenOnly = s.line.listenOnly := by
  unfold reckonIf; split <;> simp

@[simp] theorem reckonIf_line_fifo (c : Bool) (b : State) (i : Inst) (s : State) : (reckonIf c b i s).line.fifo = s.line.fifo := by
  unfold reckonIf; split <;> simp

@[simp] theorem reckonIf_line_rxState (c : Bool) (b : State) (i : Inst) (s : State) : (reckonIf c b i s).line.rxState = s.line.rxState := by
  unfold reckonIf; split <;> simp

@[simp] theorem reckonIf_line_handoff (c : Bool) (b : State) (i : Inst) (s : State) : (reckonIf c b i s).line.handoff = s.line.handoff := by
  unfold reckonIf; split <;> simp

@[simp] theorem reckonIf_line_joined (c : Bool) (b : State) (i : Inst) (s : State) : (reckonIf c b i s).line.joined = s.line.joined := by
  unfold reckonIf; split <;> simp

@[simp] theorem reckonIf_line_tx (c : Bool) (b : State) (i : Inst) (s : State) : (reckonIf c b i s).line.tx = s.line.tx := by
  unfold reckonIf; split <;> simp

@[simp] theorem reckonIf_line_selection (c : Bool) (b : State) (i : Inst) (s : State) : (reckonIf c b i s).line.selection = s.line.selection := by
  unfold reckonIf; split <;> simp

@[simp] theorem reckonIf_line_flags (c : Bool) (b : State) (i : Inst) (s : State) : (reckonIf c b i s).line.flags = s.line.flags := by
  unfold reckonIf; split <;> simp

@[simp] theorem reckonIf_line_loopback (c : Bool) (b : State) (i : Inst) (s : State) : (reckonIf c b i s).line.loopback = s.line.loopback := by
  unfold reckonIf; split <;> simp

@[simp] theorem reckonIf_desk_table (c : Bool) (b : State) (i : Inst) (s : State) : (reckonIf c b i s).desk.table = s.desk.table := by
  unfold reckonIf; split <;> simp

@[simp] theorem reckonIf_desk_greet (c : Bool) (b : State) (i : Inst) (s : State) : (reckonIf c b i s).desk.greet = s.desk.greet := by
  unfold reckonIf; split <;> simp

@[simp] theorem reckonIf_desk_flow (c : Bool) (b : State) (i : Inst) (s : State) : (reckonIf c b i s).desk.flow = s.desk.flow := by
  unfold reckonIf; split <;> simp

@[simp] theorem reckonIf_desk_messages (c : Bool) (b : State) (i : Inst) (s : State) : (reckonIf c b i s).desk.messages = s.desk.messages := by
  unfold reckonIf; split <;> simp

@[simp] theorem reckonIf_desk_inbound (c : Bool) (b : State) (i : Inst) (s : State) : (reckonIf c b i s).desk.inbound = s.desk.inbound := by
  unfold reckonIf; split <;> simp

@[simp] theorem reckonIf_desk_inboundLost (c : Bool) (b : State) (i : Inst) (s : State) : (reckonIf c b i s).desk.inboundLost = s.desk.inboundLost := by
  unfold reckonIf; split <;> simp

@[simp] theorem reckonIf_desk_pauseSent (c : Bool) (b : State) (i : Inst) (s : State) : (reckonIf c b i s).desk.pauseSent = s.desk.pauseSent := by
  unfold reckonIf; split <;> simp

@[simp] theorem reckonIf_desk_paused (c : Bool) (b : State) (i : Inst) (s : State) : (reckonIf c b i s).desk.paused = s.desk.paused := by
  unfold reckonIf; split <;> simp

@[simp] theorem reckonIf_desk_banner (c : Bool) (b : State) (i : Inst) (s : State) : (reckonIf c b i s).desk.banner = s.desk.banner := by
  unfold reckonIf; split <;> simp

@[simp] theorem reckonIf_desk_refresh (c : Bool) (b : State) (i : Inst) (s : State) : (reckonIf c b i s).desk.refresh = s.desk.refresh := by
  unfold reckonIf; split <;> simp

/-! ### requestIf -/

@[simp] theorem requestIf_pending (c : Bool) (i : Inst) (s : State) : (requestIf c i s).pending = s.pending := by
  unfold requestIf; split <;> simp

@[simp] theorem requestIf_tp (c : Bool) (i : Inst) (s : State) : (requestIf c i s).tp = s.tp := by
  unfold requestIf; split <;> simp

@[simp] theorem requestIf_form (c : Bool) (i : Inst) (s : State) : (requestIf c i s).form = s.form := by
  unfold requestIf; split <;> simp

@[simp] theorem requestIf_cur (c : Bool) (i : Inst) (s : State) : (requestIf c i s).cur = s.cur := by
  unfold requestIf; split <;> simp

@[simp] theorem requestIf_key (c : Bool) (i : Inst) (s : State) : (requestIf c i s).key = s.key := by
  unfold requestIf; split <;> simp

@[simp] theorem requestIf_comp_image (c : Bool) (i : Inst) (s : State) : (requestIf c i s).comp.image = s.comp.image := by
  unfold requestIf; split <;> simp

@[simp] theorem requestIf_comp_rendering (c : Bool) (i : Inst) (s : State) : (requestIf c i s).comp.rendering = s.comp.rendering := by
  unfold requestIf; split <;> simp

@[simp] theorem requestIf_send (c : Bool) (i : Inst) (s : State) : (requestIf c i s).send = s.send := by
  unfold requestIf; split <;> simp

@[simp] theorem requestIf_line (c : Bool) (i : Inst) (s : State) : (requestIf c i s).line = s.line := by
  unfold requestIf; split <;> simp

@[simp] theorem requestIf_desk (c : Bool) (i : Inst) (s : State) : (requestIf c i s).desk = s.desk := by
  unfold requestIf; split <;> simp

/-! ### dropEditOn -/

@[simp] theorem dropEditOn_pending (i : Inst) (s : State) : (dropEditOn i s).pending = s.pending := by
  unfold dropEditOn; split <;> simp

@[simp] theorem dropEditOn_tp (i : Inst) (s : State) : (dropEditOn i s).tp = s.tp := by
  unfold dropEditOn; split <;> simp

@[simp] theorem dropEditOn_form (i : Inst) (s : State) : (dropEditOn i s).form = s.form := by
  unfold dropEditOn; split <;> simp

@[simp] theorem dropEditOn_cur (i : Inst) (s : State) : (dropEditOn i s).cur = s.cur := by
  unfold dropEditOn; split <;> simp

@[simp] theorem dropEditOn_key_queue (i : Inst) (s : State) : (dropEditOn i s).key.queue = s.key.queue := by
  unfold dropEditOn; split <;> simp

@[simp] theorem dropEditOn_key_keyboard (i : Inst) (s : State) : (dropEditOn i s).key.keyboard = s.key.keyboard := by
  unfold dropEditOn; split <;> simp

@[simp] theorem dropEditOn_key_insertMode (i : Inst) (s : State) : (dropEditOn i s).key.insertMode = s.key.insertMode := by
  unfold dropEditOn; split <;> simp

@[simp] theorem dropEditOn_key_alarm (i : Inst) (s : State) : (dropEditOn i s).key.alarm = s.key.alarm := by
  unfold dropEditOn; split <;> simp

@[simp] theorem dropEditOn_comp (i : Inst) (s : State) : (dropEditOn i s).comp = s.comp := by
  unfold dropEditOn; split <;> simp

@[simp] theorem dropEditOn_send (i : Inst) (s : State) : (dropEditOn i s).send = s.send := by
  unfold dropEditOn; split <;> simp

@[simp] theorem dropEditOn_line (i : Inst) (s : State) : (dropEditOn i s).line = s.line := by
  unfold dropEditOn; split <;> simp

@[simp] theorem dropEditOn_desk (i : Inst) (s : State) : (dropEditOn i s).desk = s.desk := by
  unfold dropEditOn; split <;> simp

/-! ### storeSystem -/

@[simp] theorem storeSystem_pending (i : Inst) (sh : Shape) (m : Bool) (v : Value) (s : State) : (storeSystem i sh m v s).pending = s.pending := by
  simp [storeSystem]

@[simp] theorem storeSystem_tp_phase (i : Inst) (sh : Shape) (m : Bool) (v : Value) (s : State) : (storeSystem i sh m v s).tp.phase = s.tp.phase := by
  simp [storeSystem]

@[simp] theorem storeSystem_tp_resetnLow (i : Inst) (sh : Shape) (m : Bool) (v : Value) (s : State) : (storeSystem i sh m v s).tp.resetnLow = s.tp.resetnLow := by
  simp [storeSystem]

@[simp] theorem storeSystem_tp_supplySteady (i : Inst) (sh : Shape) (m : Bool) (v : Value) (s : State) : (storeSystem i sh m v s).tp.supplySteady = s.tp.supplySteady := by
  simp [storeSystem]

@[simp] theorem storeSystem_tp_clearing (i : Inst) (sh : Shape) (m : Bool) (v : Value) (s : State) : (storeSystem i sh m v s).tp.clearing = s.tp.clearing := by
  simp [storeSystem]

@[simp] theorem storeSystem_tp_decoder (i : Inst) (sh : Shape) (m : Bool) (v : Value) (s : State) : (storeSystem i sh m v s).tp.decoder = s.tp.decoder := by
  simp [storeSystem]

@[simp] theorem storeSystem_tp_outcome (i : Inst) (sh : Shape) (m : Bool) (v : Value) (s : State) : (storeSystem i sh m v s).tp.outcome = s.tp.outcome := by
  simp [storeSystem]

@[simp] theorem storeSystem_tp_stream (i : Inst) (sh : Shape) (m : Bool) (v : Value) (s : State) : (storeSystem i sh m v s).tp.stream = s.tp.stream := by
  simp [storeSystem]

@[simp] theorem storeSystem_form_state (i : Inst) (sh : Shape) (m : Bool) (v : Value) (s : State) : (storeSystem i sh m v s).form.state = s.form.state := by
  simp [storeSystem]

@[simp] theorem storeSystem_form_h (i : Inst) (sh : Shape) (m : Bool) (v : Value) (s : State) : (storeSystem i sh m v s).form.h = s.form.h := by
  simp [storeSystem]

@[simp] theorem storeSystem_form_w (i : Inst) (sh : Shape) (m : Bool) (v : Value) (s : State) : (storeSystem i sh m v s).form.w = s.form.w := by
  simp [storeSystem]

@[simp] theorem storeSystem_form_d (i : Inst) (sh : Shape) (m : Bool) (v : Value) (s : State) : (storeSystem i sh m v s).form.d = s.form.d := by
  simp [storeSystem]

@[simp] theorem storeSystem_form_fields (i : Inst) (sh : Shape) (m : Bool) (v : Value) (s : State) : (storeSystem i sh m v s).form.fields = s.form.fields := by
  simp [storeSystem]

@[simp] theorem storeSystem_form_cols (i : Inst) (sh : Shape) (m : Bool) (v : Value) (s : State) : (storeSystem i sh m v s).form.cols = s.form.cols := by
  simp [storeSystem]

@[simp] theorem storeSystem_form_screenPlane (i : Inst) (sh : Shape) (m : Bool) (v : Value) (s : State) : (storeSystem i sh m v s).form.screenPlane = s.form.screenPlane := by
  simp [storeSystem]

@[simp] theorem storeSystem_form_linePlane (i : Inst) (sh : Shape) (m : Bool) (v : Value) (s : State) : (storeSystem i sh m v s).form.linePlane = s.form.linePlane := by
  simp [storeSystem]

@[simp] theorem storeSystem_cur (i : Inst) (sh : Shape) (m : Bool) (v : Value) (s : State) : (storeSystem i sh m v s).cur = s.cur := by
  simp [storeSystem]

@[simp] theorem storeSystem_key_queue (i : Inst) (sh : Shape) (m : Bool) (v : Value) (s : State) : (storeSystem i sh m v s).key.queue = s.key.queue := by
  simp [storeSystem]

@[simp] theorem storeSystem_key_keyboard (i : Inst) (sh : Shape) (m : Bool) (v : Value) (s : State) : (storeSystem i sh m v s).key.keyboard = s.key.keyboard := by
  simp [storeSystem]

@[simp] theorem storeSystem_key_insertMode (i : Inst) (sh : Shape) (m : Bool) (v : Value) (s : State) : (storeSystem i sh m v s).key.insertMode = s.key.insertMode := by
  simp [storeSystem]

@[simp] theorem storeSystem_key_alarm (i : Inst) (sh : Shape) (m : Bool) (v : Value) (s : State) : (storeSystem i sh m v s).key.alarm = s.key.alarm := by
  simp [storeSystem]

@[simp] theorem storeSystem_comp_image (i : Inst) (sh : Shape) (m : Bool) (v : Value) (s : State) : (storeSystem i sh m v s).comp.image = s.comp.image := by
  simp [storeSystem]

@[simp] theorem storeSystem_comp_rendering (i : Inst) (sh : Shape) (m : Bool) (v : Value) (s : State) : (storeSystem i sh m v s).comp.rendering = s.comp.rendering := by
  simp [storeSystem]

@[simp] theorem storeSystem_send (i : Inst) (sh : Shape) (m : Bool) (v : Value) (s : State) : (storeSystem i sh m v s).send = s.send := by
  simp [storeSystem]

@[simp] theorem storeSystem_line_station (i : Inst) (sh : Shape) (m : Bool) (v : Value) (s : State) : (storeSystem i sh m v s).line.station = s.line.station := by
  simp [storeSystem]

@[simp] theorem storeSystem_line_listenOnly (i : Inst) (sh : Shape) (m : Bool) (v : Value) (s : State) : (storeSystem i sh m v s).line.listenOnly = s.line.listenOnly := by
  simp [storeSystem]

@[simp] theorem storeSystem_line_fifo (i : Inst) (sh : Shape) (m : Bool) (v : Value) (s : State) : (storeSystem i sh m v s).line.fifo = s.line.fifo := by
  simp [storeSystem]

@[simp] theorem storeSystem_line_rxState (i : Inst) (sh : Shape) (m : Bool) (v : Value) (s : State) : (storeSystem i sh m v s).line.rxState = s.line.rxState := by
  simp [storeSystem]

@[simp] theorem storeSystem_line_handoff (i : Inst) (sh : Shape) (m : Bool) (v : Value) (s : State) : (storeSystem i sh m v s).line.handoff = s.line.handoff := by
  simp [storeSystem]

@[simp] theorem storeSystem_line_joined (i : Inst) (sh : Shape) (m : Bool) (v : Value) (s : State) : (storeSystem i sh m v s).line.joined = s.line.joined := by
  simp [storeSystem]

@[simp] theorem storeSystem_line_tx (i : Inst) (sh : Shape) (m : Bool) (v : Value) (s : State) : (storeSystem i sh m v s).line.tx = s.line.tx := by
  simp [storeSystem]

@[simp] theorem storeSystem_line_selection (i : Inst) (sh : Shape) (m : Bool) (v : Value) (s : State) : (storeSystem i sh m v s).line.selection = s.line.selection := by
  simp [storeSystem]

@[simp] theorem storeSystem_line_flags (i : Inst) (sh : Shape) (m : Bool) (v : Value) (s : State) : (storeSystem i sh m v s).line.flags = s.line.flags := by
  simp [storeSystem]

@[simp] theorem storeSystem_line_loopback (i : Inst) (sh : Shape) (m : Bool) (v : Value) (s : State) : (storeSystem i sh m v s).line.loopback = s.line.loopback := by
  simp [storeSystem]

@[simp] theorem storeSystem_desk_table (i : Inst) (sh : Shape) (m : Bool) (v : Value) (s : State) : (storeSystem i sh m v s).desk.table = s.desk.table := by
  simp [storeSystem]

@[simp] theorem storeSystem_desk_greet (i : Inst) (sh : Shape) (m : Bool) (v : Value) (s : State) : (storeSystem i sh m v s).desk.greet = s.desk.greet := by
  simp [storeSystem]

@[simp] theorem storeSystem_desk_flow (i : Inst) (sh : Shape) (m : Bool) (v : Value) (s : State) : (storeSystem i sh m v s).desk.flow = s.desk.flow := by
  simp [storeSystem]

@[simp] theorem storeSystem_desk_messages (i : Inst) (sh : Shape) (m : Bool) (v : Value) (s : State) : (storeSystem i sh m v s).desk.messages = s.desk.messages := by
  simp [storeSystem]

@[simp] theorem storeSystem_desk_inbound (i : Inst) (sh : Shape) (m : Bool) (v : Value) (s : State) : (storeSystem i sh m v s).desk.inbound = s.desk.inbound := by
  simp [storeSystem]

@[simp] theorem storeSystem_desk_inboundLost (i : Inst) (sh : Shape) (m : Bool) (v : Value) (s : State) : (storeSystem i sh m v s).desk.inboundLost = s.desk.inboundLost := by
  simp [storeSystem]

@[simp] theorem storeSystem_desk_pauseSent (i : Inst) (sh : Shape) (m : Bool) (v : Value) (s : State) : (storeSystem i sh m v s).desk.pauseSent = s.desk.pauseSent := by
  simp [storeSystem]

@[simp] theorem storeSystem_desk_paused (i : Inst) (sh : Shape) (m : Bool) (v : Value) (s : State) : (storeSystem i sh m v s).desk.paused = s.desk.paused := by
  simp [storeSystem]

@[simp] theorem storeSystem_desk_banner (i : Inst) (sh : Shape) (m : Bool) (v : Value) (s : State) : (storeSystem i sh m v s).desk.banner = s.desk.banner := by
  simp [storeSystem]

@[simp] theorem storeSystem_desk_refresh (i : Inst) (sh : Shape) (m : Bool) (v : Value) (s : State) : (storeSystem i sh m v s).desk.refresh = s.desk.refresh := by
  simp [storeSystem]

/-! ### drawRun -/

@[simp] theorem drawRun_pending (r c : Nat) (cs : List Cell) (s : State) : (drawRun r c cs s).pending = s.pending := rfl

@[simp] theorem drawRun_tp (r c : Nat) (cs : List Cell) (s : State) : (drawRun r c cs s).tp = s.tp := rfl

@[simp] theorem drawRun_form (r c : Nat) (cs : List Cell) (s : State) : (drawRun r c cs s).form = s.form := rfl

@[simp] theorem drawRun_cur (r c : Nat) (cs : List Cell) (s : State) : (drawRun r c cs s).cur = s.cur := rfl

@[simp] theorem drawRun_key (r c : Nat) (cs : List Cell) (s : State) : (drawRun r c cs s).key = s.key := rfl

@[simp] theorem drawRun_comp_items (r c : Nat) (cs : List Cell) (s : State) : (drawRun r c cs s).comp.items = s.comp.items := rfl

@[simp] theorem drawRun_comp_rendering (r c : Nat) (cs : List Cell) (s : State) : (drawRun r c cs s).comp.rendering = s.comp.rendering := rfl

@[simp] theorem drawRun_comp_remark (r c : Nat) (cs : List Cell) (s : State) : (drawRun r c cs s).comp.remark = s.comp.remark := rfl

@[simp] theorem drawRun_send (r c : Nat) (cs : List Cell) (s : State) : (drawRun r c cs s).send = s.send := rfl

@[simp] theorem drawRun_line (r c : Nat) (cs : List Cell) (s : State) : (drawRun r c cs s).line = s.line := rfl

@[simp] theorem drawRun_desk (r c : Nat) (cs : List Cell) (s : State) : (drawRun r c cs s).desk = s.desk := rfl

/-! ### drawInst -/

@[simp] theorem drawInst_pending (i : Inst) (s : State) : (drawInst i s).pending = s.pending := by
  unfold drawInst; split <;> simp

@[simp] theorem drawInst_tp (i : Inst) (s : State) : (drawInst i s).tp = s.tp := by
  unfold drawInst; split <;> simp

@[simp] theorem drawInst_form (i : Inst) (s : State) : (drawInst i s).form = s.form := by
  unfold drawInst; split <;> simp

@[simp] theorem drawInst_cur (i : Inst) (s : State) : (drawInst i s).cur = s.cur := by
  unfold drawInst; split <;> simp

@[simp] theorem drawInst_key (i : Inst) (s : State) : (drawInst i s).key = s.key := by
  unfold drawInst; split <;> simp

@[simp] theorem drawInst_comp_items (i : Inst) (s : State) : (drawInst i s).comp.items = s.comp.items := by
  unfold drawInst; split <;> simp

@[simp] theorem drawInst_comp_rendering (i : Inst) (s : State) : (drawInst i s).comp.rendering = s.comp.rendering := by
  unfold drawInst; split <;> simp

@[simp] theorem drawInst_comp_remark (i : Inst) (s : State) : (drawInst i s).comp.remark = s.comp.remark := by
  unfold drawInst; split <;> simp

@[simp] theorem drawInst_send (i : Inst) (s : State) : (drawInst i s).send = s.send := by
  unfold drawInst; split <;> simp

@[simp] theorem drawInst_line (i : Inst) (s : State) : (drawInst i s).line = s.line := by
  unfold drawInst; split <;> simp

@[simp] theorem drawInst_desk (i : Inst) (s : State) : (drawInst i s).desk = s.desk := by
  unfold drawInst; split <;> simp

/-! ### render -/

@[simp] theorem render_pending (i : Item) (s : State) : (render i s).pending = s.pending := by
  unfold render; repeat' split
  all_goals simp

@[simp] theorem render_tp (i : Item) (s : State) : (render i s).tp = s.tp := by
  unfold render; repeat' split
  all_goals simp

@[simp] theorem render_form (i : Item) (s : State) : (render i s).form = s.form := by
  unfold render; repeat' split
  all_goals simp

@[simp] theorem render_cur (i : Item) (s : State) : (render i s).cur = s.cur := by
  unfold render; repeat' split
  all_goals simp

@[simp] theorem render_key (i : Item) (s : State) : (render i s).key = s.key := by
  unfold render; repeat' split
  all_goals simp

@[simp] theorem render_comp_items (i : Item) (s : State) : (render i s).comp.items = s.comp.items := by
  unfold render; repeat' split
  all_goals simp

@[simp] theorem render_comp_rendering (i : Item) (s : State) : (render i s).comp.rendering = s.comp.rendering := by
  unfold render; repeat' split
  all_goals simp

@[simp] theorem render_comp_remark (i : Item) (s : State) : (render i s).comp.remark = s.comp.remark := by
  unfold render; repeat' split
  all_goals simp

@[simp] theorem render_send (i : Item) (s : State) : (render i s).send = s.send := by
  unfold render; repeat' split
  all_goals simp

@[simp] theorem render_line (i : Item) (s : State) : (render i s).line = s.line := by
  unfold render; repeat' split
  all_goals simp

@[simp] theorem render_desk (i : Item) (s : State) : (render i s).desk = s.desk := by
  unfold render; repeat' split
  all_goals simp

/-! ### setQueue -/

@[simp] theorem setQueue_pending (q : List Byte) (s : State) : (setQueue q s).pending = s.pending := rfl

@[simp] theorem setQueue_tp (q : List Byte) (s : State) : (setQueue q s).tp = s.tp := rfl

@[simp] theorem setQueue_form (q : List Byte) (s : State) : (setQueue q s).form = s.form := rfl

@[simp] theorem setQueue_cur (q : List Byte) (s : State) : (setQueue q s).cur = s.cur := rfl

@[simp] theorem setQueue_key_keyboard (q : List Byte) (s : State) : (setQueue q s).key.keyboard = s.key.keyboard := rfl

@[simp] theorem setQueue_key_insertMode (q : List Byte) (s : State) : (setQueue q s).key.insertMode = s.key.insertMode := rfl

@[simp] theorem setQueue_key_edit (q : List Byte) (s : State) : (setQueue q s).key.edit = s.key.edit := rfl

@[simp] theorem setQueue_key_alarm (q : List Byte) (s : State) : (setQueue q s).key.alarm = s.key.alarm := rfl

@[simp] theorem setQueue_comp (q : List Byte) (s : State) : (setQueue q s).comp = s.comp := rfl

@[simp] theorem setQueue_send (q : List Byte) (s : State) : (setQueue q s).send = s.send := rfl

@[simp] theorem setQueue_line (q : List Byte) (s : State) : (setQueue q s).line = s.line := rfl

@[simp] theorem setQueue_desk (q : List Byte) (s : State) : (setQueue q s).desk = s.desk := rfl

/-! ### discardKey -/

@[simp] theorem discardKey_pending (s : State) : (discardKey s).pending = s.pending := rfl

@[simp] theorem discardKey_tp (s : State) : (discardKey s).tp = s.tp := rfl

@[simp] theorem discardKey_form (s : State) : (discardKey s).form = s.form := rfl

@[simp] theorem discardKey_cur (s : State) : (discardKey s).cur = s.cur := rfl

@[simp] theorem discardKey_key_queue (s : State) : (discardKey s).key.queue = s.key.queue := rfl

@[simp] theorem discardKey_key_keyboard (s : State) : (discardKey s).key.keyboard = s.key.keyboard := rfl

@[simp] theorem discardKey_key_insertMode (s : State) : (discardKey s).key.insertMode = s.key.insertMode := rfl

@[simp] theorem discardKey_key_edit (s : State) : (discardKey s).key.edit = s.key.edit := rfl

@[simp] theorem discardKey_comp (s : State) : (discardKey s).comp = s.comp := rfl

@[simp] theorem discardKey_send (s : State) : (discardKey s).send = s.send := rfl

@[simp] theorem discardKey_line (s : State) : (discardKey s).line = s.line := rfl

@[simp] theorem discardKey_desk (s : State) : (discardKey s).desk = s.desk := rfl

/-! ### placeCursor -/

@[simp] theorem placeCursor_pending (r c n : Nat) (s : State) : (placeCursor r c n s).pending = s.pending := by
  unfold placeCursor; dsimp only; repeat' split
  all_goals simp

@[simp] theorem placeCursor_tp (r c n : Nat) (s : State) : (placeCursor r c n s).tp = s.tp := by
  unfold placeCursor; dsimp only; repeat' split
  all_goals simp

@[simp] theorem placeCursor_form (r c n : Nat) (s : State) : (placeCursor r c n s).form = s.form := by
  unfold placeCursor; dsimp only; repeat' split
  all_goals simp

@[simp] theorem placeCursor_key (r c n : Nat) (s : State) : (placeCursor r c n s).key = s.key := by
  unfold placeCursor; dsimp only; repeat' split
  all_goals simp

@[simp] theorem placeCursor_comp_image (r c n : Nat) (s : State) : (placeCursor r c n s).comp.image = s.comp.image := by
  unfold placeCursor; dsimp only; repeat' split
  all_goals simp

@[simp] theorem placeCursor_comp_rendering (r c n : Nat) (s : State) : (placeCursor r c n s).comp.rendering = s.comp.rendering := by
  unfold placeCursor; dsimp only; repeat' split
  all_goals simp

@[simp] theorem placeCursor_send (r c n : Nat) (s : State) : (placeCursor r c n s).send = s.send := by
  unfold placeCursor; dsimp only; repeat' split
  all_goals simp

@[simp] theorem placeCursor_line (r c n : Nat) (s : State) : (placeCursor r c n s).line = s.line := by
  unfold placeCursor; dsimp only; repeat' split
  all_goals simp

@[simp] theorem placeCursor_desk (r c n : Nat) (s : State) : (placeCursor r c n s).desk = s.desk := by
  unfold placeCursor; dsimp only; repeat' split
  all_goals simp

/-! ### storeCompleted -/

@[simp] theorem storeCompleted_pending (i : Inst) (v : Value) (s : State) : (storeCompleted i v s).pending = s.pending := by
  simp [storeCompleted]

@[simp] theorem storeCompleted_tp_phase (i : Inst) (v : Value) (s : State) : (storeCompleted i v s).tp.phase = s.tp.phase := by
  simp [storeCompleted]

@[simp] theorem storeCompleted_tp_resetnLow (i : Inst) (v : Value) (s : State) : (storeCompleted i v s).tp.resetnLow = s.tp.resetnLow := by
  simp [storeCompleted]

@[simp] theorem storeCompleted_tp_supplySteady (i : Inst) (v : Value) (s : State) : (storeCompleted i v s).tp.supplySteady = s.tp.supplySteady := by
  simp [storeCompleted]

@[simp] theorem storeCompleted_tp_clearing (i : Inst) (v : Value) (s : State) : (storeCompleted i v s).tp.clearing = s.tp.clearing := by
  simp [storeCompleted]

@[simp] theorem storeCompleted_tp_decoder (i : Inst) (v : Value) (s : State) : (storeCompleted i v s).tp.decoder = s.tp.decoder := by
  simp [storeCompleted]

@[simp] theorem storeCompleted_tp_outcome (i : Inst) (v : Value) (s : State) : (storeCompleted i v s).tp.outcome = s.tp.outcome := by
  simp [storeCompleted]

@[simp] theorem storeCompleted_tp_stream (i : Inst) (v : Value) (s : State) : (storeCompleted i v s).tp.stream = s.tp.stream := by
  simp [storeCompleted]

@[simp] theorem storeCompleted_form_state (i : Inst) (v : Value) (s : State) : (storeCompleted i v s).form.state = s.form.state := by
  simp [storeCompleted]

@[simp] theorem storeCompleted_form_h (i : Inst) (v : Value) (s : State) : (storeCompleted i v s).form.h = s.form.h := by
  simp [storeCompleted]

@[simp] theorem storeCompleted_form_w (i : Inst) (v : Value) (s : State) : (storeCompleted i v s).form.w = s.form.w := by
  simp [storeCompleted]

@[simp] theorem storeCompleted_form_d (i : Inst) (v : Value) (s : State) : (storeCompleted i v s).form.d = s.form.d := by
  simp [storeCompleted]

@[simp] theorem storeCompleted_form_fields (i : Inst) (v : Value) (s : State) : (storeCompleted i v s).form.fields = s.form.fields := by
  simp [storeCompleted]

@[simp] theorem storeCompleted_form_cols (i : Inst) (v : Value) (s : State) : (storeCompleted i v s).form.cols = s.form.cols := by
  simp [storeCompleted]

@[simp] theorem storeCompleted_form_screenPlane (i : Inst) (v : Value) (s : State) : (storeCompleted i v s).form.screenPlane = s.form.screenPlane := by
  simp [storeCompleted]

@[simp] theorem storeCompleted_form_linePlane (i : Inst) (v : Value) (s : State) : (storeCompleted i v s).form.linePlane = s.form.linePlane := by
  simp [storeCompleted]

@[simp] theorem storeCompleted_cur (i : Inst) (v : Value) (s : State) : (storeCompleted i v s).cur = s.cur := by
  simp [storeCompleted]

@[simp] theorem storeCompleted_key_queue (i : Inst) (v : Value) (s : State) : (storeCompleted i v s).key.queue = s.key.queue := by
  simp [storeCompleted]

@[simp] theorem storeCompleted_key_keyboard (i : Inst) (v : Value) (s : State) : (storeCompleted i v s).key.keyboard = s.key.keyboard := by
  simp [storeCompleted]

@[simp] theorem storeCompleted_key_insertMode (i : Inst) (v : Value) (s : State) : (storeCompleted i v s).key.insertMode = s.key.insertMode := by
  simp [storeCompleted]

@[simp] theorem storeCompleted_key_alarm (i : Inst) (v : Value) (s : State) : (storeCompleted i v s).key.alarm = s.key.alarm := by
  simp [storeCompleted]

@[simp] theorem storeCompleted_comp_image (i : Inst) (v : Value) (s : State) : (storeCompleted i v s).comp.image = s.comp.image := by
  simp [storeCompleted]

@[simp] theorem storeCompleted_comp_rendering (i : Inst) (v : Value) (s : State) : (storeCompleted i v s).comp.rendering = s.comp.rendering := by
  simp [storeCompleted]

@[simp] theorem storeCompleted_send (i : Inst) (v : Value) (s : State) : (storeCompleted i v s).send = s.send := by
  simp [storeCompleted]

@[simp] theorem storeCompleted_line_station (i : Inst) (v : Value) (s : State) : (storeCompleted i v s).line.station = s.line.station := by
  simp [storeCompleted]

@[simp] theorem storeCompleted_line_listenOnly (i : Inst) (v : Value) (s : State) : (storeCompleted i v s).line.listenOnly = s.line.listenOnly := by
  simp [storeCompleted]

@[simp] theorem storeCompleted_line_fifo (i : Inst) (v : Value) (s : State) : (storeCompleted i v s).line.fifo = s.line.fifo := by
  simp [storeCompleted]

@[simp] theorem storeCompleted_line_rxState (i : Inst) (v : Value) (s : State) : (storeCompleted i v s).line.rxState = s.line.rxState := by
  simp [storeCompleted]

@[simp] theorem storeCompleted_line_handoff (i : Inst) (v : Value) (s : State) : (storeCompleted i v s).line.handoff = s.line.handoff := by
  simp [storeCompleted]

@[simp] theorem storeCompleted_line_joined (i : Inst) (v : Value) (s : State) : (storeCompleted i v s).line.joined = s.line.joined := by
  simp [storeCompleted]

@[simp] theorem storeCompleted_line_tx (i : Inst) (v : Value) (s : State) : (storeCompleted i v s).line.tx = s.line.tx := by
  simp [storeCompleted]

@[simp] theorem storeCompleted_line_selection (i : Inst) (v : Value) (s : State) : (storeCompleted i v s).line.selection = s.line.selection := by
  simp [storeCompleted]

@[simp] theorem storeCompleted_line_flags (i : Inst) (v : Value) (s : State) : (storeCompleted i v s).line.flags = s.line.flags := by
  simp [storeCompleted]

@[simp] theorem storeCompleted_line_loopback (i : Inst) (v : Value) (s : State) : (storeCompleted i v s).line.loopback = s.line.loopback := by
  simp [storeCompleted]

@[simp] theorem storeCompleted_desk_table (i : Inst) (v : Value) (s : State) : (storeCompleted i v s).desk.table = s.desk.table := by
  simp [storeCompleted]

@[simp] theorem storeCompleted_desk_greet (i : Inst) (v : Value) (s : State) : (storeCompleted i v s).desk.greet = s.desk.greet := by
  simp [storeCompleted]

@[simp] theorem storeCompleted_desk_flow (i : Inst) (v : Value) (s : State) : (storeCompleted i v s).desk.flow = s.desk.flow := by
  simp [storeCompleted]

@[simp] theorem storeCompleted_desk_messages (i : Inst) (v : Value) (s : State) : (storeCompleted i v s).desk.messages = s.desk.messages := by
  simp [storeCompleted]

@[simp] theorem storeCompleted_desk_inbound (i : Inst) (v : Value) (s : State) : (storeCompleted i v s).desk.inbound = s.desk.inbound := by
  simp [storeCompleted]

@[simp] theorem storeCompleted_desk_inboundLost (i : Inst) (v : Value) (s : State) : (storeCompleted i v s).desk.inboundLost = s.desk.inboundLost := by
  simp [storeCompleted]

@[simp] theorem storeCompleted_desk_pauseSent (i : Inst) (v : Value) (s : State) : (storeCompleted i v s).desk.pauseSent = s.desk.pauseSent := by
  simp [storeCompleted]

@[simp] theorem storeCompleted_desk_paused (i : Inst) (v : Value) (s : State) : (storeCompleted i v s).desk.paused = s.desk.paused := by
  simp [storeCompleted]

@[simp] theorem storeCompleted_desk_banner (i : Inst) (v : Value) (s : State) : (storeCompleted i v s).desk.banner = s.desk.banner := by
  simp [storeCompleted]

@[simp] theorem storeCompleted_desk_refresh (i : Inst) (v : Value) (s : State) : (storeCompleted i v s).desk.refresh = s.desk.refresh := by
  simp [storeCompleted]

/-! ### setBuffer -/

@[simp] theorem setBuffer_pending (i : Inst) (b : Text) (s : State) : (setBuffer i b s).pending = s.pending := by
  simp [setBuffer]

@[simp] theorem setBuffer_tp (i : Inst) (b : Text) (s : State) : (setBuffer i b s).tp = s.tp := by
  simp [setBuffer]

@[simp] theorem setBuffer_form (i : Inst) (b : Text) (s : State) : (setBuffer i b s).form = s.form := by
  simp [setBuffer]

@[simp] theorem setBuffer_cur (i : Inst) (b : Text) (s : State) : (setBuffer i b s).cur = s.cur := by
  simp [setBuffer]

@[simp] theorem setBuffer_key_queue (i : Inst) (b : Text) (s : State) : (setBuffer i b s).key.queue = s.key.queue := by
  simp [setBuffer]

@[simp] theorem setBuffer_key_keyboard (i : Inst) (b : Text) (s : State) : (setBuffer i b s).key.keyboard = s.key.keyboard := by
  simp [setBuffer]

@[simp] theorem setBuffer_key_insertMode (i : Inst) (b : Text) (s : State) : (setBuffer i b s).key.insertMode = s.key.insertMode := by
  simp [setBuffer]

@[simp] theorem setBuffer_key_alarm (i : Inst) (b : Text) (s : State) : (setBuffer i b s).key.alarm = s.key.alarm := by
  simp [setBuffer]

@[simp] theorem setBuffer_comp_items (i : Inst) (b : Text) (s : State) : (setBuffer i b s).comp.items = s.comp.items := by
  simp [setBuffer]

@[simp] theorem setBuffer_comp_rendering (i : Inst) (b : Text) (s : State) : (setBuffer i b s).comp.rendering = s.comp.rendering := by
  simp [setBuffer]

@[simp] theorem setBuffer_comp_remark (i : Inst) (b : Text) (s : State) : (setBuffer i b s).comp.remark = s.comp.remark := by
  simp [setBuffer]

@[simp] theorem setBuffer_send (i : Inst) (b : Text) (s : State) : (setBuffer i b s).send = s.send := by
  simp [setBuffer]

@[simp] theorem setBuffer_line (i : Inst) (b : Text) (s : State) : (setBuffer i b s).line = s.line := by
  simp [setBuffer]

@[simp] theorem setBuffer_desk (i : Inst) (b : Text) (s : State) : (setBuffer i b s).desk = s.desk := by
  simp [setBuffer]

/-! ### setCursorCol -/

@[simp] theorem setCursorCol_pending (c : Nat) (s : State) : (setCursorCol c s).pending = s.pending := rfl

@[simp] theorem setCursorCol_tp (c : Nat) (s : State) : (setCursorCol c s).tp = s.tp := rfl

@[simp] theorem setCursorCol_form (c : Nat) (s : State) : (setCursorCol c s).form = s.form := rfl

@[simp] theorem setCursorCol_cur_row (c : Nat) (s : State) : (setCursorCol c s).cur.row = s.cur.row := rfl

@[simp] theorem setCursorCol_cur_top (c : Nat) (s : State) : (setCursorCol c s).cur.top = s.cur.top := rfl

@[simp] theorem setCursorCol_key (c : Nat) (s : State) : (setCursorCol c s).key = s.key := rfl

@[simp] theorem setCursorCol_comp (c : Nat) (s : State) : (setCursorCol c s).comp = s.comp := rfl

@[simp] theorem setCursorCol_send (c : Nat) (s : State) : (setCursorCol c s).send = s.send := rfl

@[simp] theorem setCursorCol_line (c : Nat) (s : State) : (setCursorCol c s).line = s.line := rfl

@[simp] theorem setCursorCol_desk (c : Nat) (s : State) : (setCursorCol c s).desk = s.desk := rfl

/-! ### clearError -/

@[simp] theorem clearError_pending (s : State) : (clearError s).pending = s.pending := by
  simp [clearError]

@[simp] theorem clearError_tp (s : State) : (clearError s).tp = s.tp := by
  simp [clearError]

@[simp] theorem clearError_form (s : State) : (clearError s).form = s.form := by
  simp [clearError]

@[simp] theorem clearError_cur (s : State) : (clearError s).cur = s.cur := by
  simp [clearError]

@[simp] theorem clearError_key_queue (s : State) : (clearError s).key.queue = s.key.queue := by
  simp [clearError]

@[simp] theorem clearError_key_insertMode (s : State) : (clearError s).key.insertMode = s.key.insertMode := by
  simp [clearError]

@[simp] theorem clearError_key_edit (s : State) : (clearError s).key.edit = s.key.edit := by
  simp [clearError]

@[simp] theorem clearError_key_alarm (s : State) : (clearError s).key.alarm = s.key.alarm := by
  simp [clearError]

@[simp] theorem clearError_comp_image (s : State) : (clearError s).comp.image = s.comp.image := by
  simp [clearError]

@[simp] theorem clearError_comp_rendering (s : State) : (clearError s).comp.rendering = s.comp.rendering := by
  simp [clearError]

@[simp] theorem clearError_send (s : State) : (clearError s).send = s.send := by
  simp [clearError]

@[simp] theorem clearError_line (s : State) : (clearError s).line = s.line := by
  simp [clearError]

@[simp] theorem clearError_desk (s : State) : (clearError s).desk = s.desk := by
  simp [clearError]

/-! ### insertKey -/

@[simp] theorem insertKey_pending (s : State) : (insertKey s).pending = s.pending := by
  simp [insertKey]

@[simp] theorem insertKey_tp (s : State) : (insertKey s).tp = s.tp := by
  simp [insertKey]

@[simp] theorem insertKey_form (s : State) : (insertKey s).form = s.form := by
  simp [insertKey]

@[simp] theorem insertKey_cur (s : State) : (insertKey s).cur = s.cur := by
  simp [insertKey]

@[simp] theorem insertKey_key_queue (s : State) : (insertKey s).key.queue = s.key.queue := by
  simp [insertKey]

@[simp] theorem insertKey_key_keyboard (s : State) : (insertKey s).key.keyboard = s.key.keyboard := by
  simp [insertKey]

@[simp] theorem insertKey_key_edit (s : State) : (insertKey s).key.edit = s.key.edit := by
  simp [insertKey]

@[simp] theorem insertKey_key_alarm (s : State) : (insertKey s).key.alarm = s.key.alarm := by
  simp [insertKey]

@[simp] theorem insertKey_comp_image (s : State) : (insertKey s).comp.image = s.comp.image := by
  simp [insertKey]

@[simp] theorem insertKey_comp_rendering (s : State) : (insertKey s).comp.rendering = s.comp.rendering := by
  simp [insertKey]

@[simp] theorem insertKey_send (s : State) : (insertKey s).send = s.send := by
  simp [insertKey]

@[simp] theorem insertKey_line (s : State) : (insertKey s).line = s.line := by
  simp [insertKey]

@[simp] theorem insertKey_desk (s : State) : (insertKey s).desk = s.desk := by
  simp [insertKey]

/-! ### abandonEdit -/

@[simp] theorem abandonEdit_pending (s : State) : (abandonEdit s).pending = s.pending := by
  unfold abandonEdit; split <;> simp

@[simp] theorem abandonEdit_tp (s : State) : (abandonEdit s).tp = s.tp := by
  unfold abandonEdit; split <;> simp

@[simp] theorem abandonEdit_form (s : State) : (abandonEdit s).form = s.form := by
  unfold abandonEdit; split <;> simp

@[simp] theorem abandonEdit_cur (s : State) : (abandonEdit s).cur = s.cur := by
  unfold abandonEdit; split <;> simp

@[simp] theorem abandonEdit_key_queue (s : State) : (abandonEdit s).key.queue = s.key.queue := by
  unfold abandonEdit; split <;> simp

@[simp] theorem abandonEdit_key_keyboard (s : State) : (abandonEdit s).key.keyboard = s.key.keyboard := by
  unfold abandonEdit; split <;> simp

@[simp] theorem abandonEdit_key_insertMode (s : State) : (abandonEdit s).key.insertMode = s.key.insertMode := by
  unfold abandonEdit; split <;> simp

@[simp] theorem abandonEdit_key_alarm (s : State) : (abandonEdit s).key.alarm = s.key.alarm := by
  unfold abandonEdit; split <;> simp

@[simp] theorem abandonEdit_comp_image (s : State) : (abandonEdit s).comp.image = s.comp.image := by
  unfold abandonEdit; split <;> simp

@[simp] theorem abandonEdit_comp_rendering (s : State) : (abandonEdit s).comp.rendering = s.comp.rendering := by
  unfold abandonEdit; split <;> simp

@[simp] theorem abandonEdit_send (s : State) : (abandonEdit s).send = s.send := by
  unfold abandonEdit; split <;> simp

@[simp] theorem abandonEdit_line (s : State) : (abandonEdit s).line = s.line := by
  unfold abandonEdit; split <;> simp

@[simp] theorem abandonEdit_desk (s : State) : (abandonEdit s).desk = s.desk := by
  unfold abandonEdit; split <;> simp

/-! ### clearEntries -/

@[simp] theorem clearEntries_pending (m : Bool) (s : State) : (clearEntries m s).pending = s.pending := by
  simp [clearEntries, clearedForm]

@[simp] theorem clearEntries_tp_phase (m : Bool) (s : State) : (clearEntries m s).tp.phase = s.tp.phase := by
  simp [clearEntries, clearedForm]

@[simp] theorem clearEntries_tp_resetnLow (m : Bool) (s : State) : (clearEntries m s).tp.resetnLow = s.tp.resetnLow := by
  simp [clearEntries, clearedForm]

@[simp] theorem clearEntries_tp_supplySteady (m : Bool) (s : State) : (clearEntries m s).tp.supplySteady = s.tp.supplySteady := by
  simp [clearEntries, clearedForm]

@[simp] theorem clearEntries_tp_clearing (m : Bool) (s : State) : (clearEntries m s).tp.clearing = s.tp.clearing := by
  simp [clearEntries, clearedForm]

@[simp] theorem clearEntries_tp_decoder (m : Bool) (s : State) : (clearEntries m s).tp.decoder = s.tp.decoder := by
  simp [clearEntries, clearedForm]

@[simp] theorem clearEntries_tp_outcome (m : Bool) (s : State) : (clearEntries m s).tp.outcome = s.tp.outcome := by
  simp [clearEntries, clearedForm]

@[simp] theorem clearEntries_tp_stream (m : Bool) (s : State) : (clearEntries m s).tp.stream = s.tp.stream := by
  simp [clearEntries, clearedForm]

@[simp] theorem clearEntries_form_state (m : Bool) (s : State) : (clearEntries m s).form.state = s.form.state := by
  simp [clearEntries, clearedForm]

@[simp] theorem clearEntries_form_h (m : Bool) (s : State) : (clearEntries m s).form.h = s.form.h := by
  simp [clearEntries, clearedForm]

@[simp] theorem clearEntries_form_w (m : Bool) (s : State) : (clearEntries m s).form.w = s.form.w := by
  simp [clearEntries, clearedForm]

@[simp] theorem clearEntries_form_d (m : Bool) (s : State) : (clearEntries m s).form.d = s.form.d := by
  simp [clearEntries, clearedForm]

@[simp] theorem clearEntries_form_fields (m : Bool) (s : State) : (clearEntries m s).form.fields = s.form.fields := by
  simp [clearEntries, clearedForm]

@[simp] theorem clearEntries_form_cols (m : Bool) (s : State) : (clearEntries m s).form.cols = s.form.cols := by
  simp [clearEntries, clearedForm]

@[simp] theorem clearEntries_form_screenPlane (m : Bool) (s : State) : (clearEntries m s).form.screenPlane = s.form.screenPlane := by
  simp [clearEntries, clearedForm]

@[simp] theorem clearEntries_form_linePlane (m : Bool) (s : State) : (clearEntries m s).form.linePlane = s.form.linePlane := by
  simp [clearEntries, clearedForm]

@[simp] theorem clearEntries_cur (m : Bool) (s : State) : (clearEntries m s).cur = s.cur := by
  simp [clearEntries, clearedForm]

@[simp] theorem clearEntries_key_queue (m : Bool) (s : State) : (clearEntries m s).key.queue = s.key.queue := by
  simp [clearEntries, clearedForm]

@[simp] theorem clearEntries_key_keyboard (m : Bool) (s : State) : (clearEntries m s).key.keyboard = s.key.keyboard := by
  simp [clearEntries, clearedForm]

@[simp] theorem clearEntries_key_insertMode (m : Bool) (s : State) : (clearEntries m s).key.insertMode = s.key.insertMode := by
  simp [clearEntries, clearedForm]

@[simp] theorem clearEntries_key_alarm (m : Bool) (s : State) : (clearEntries m s).key.alarm = s.key.alarm := by
  simp [clearEntries, clearedForm]

@[simp] theorem clearEntries_comp_image (m : Bool) (s : State) : (clearEntries m s).comp.image = s.comp.image := by
  simp [clearEntries, clearedForm]

@[simp] theorem clearEntries_comp_rendering (m : Bool) (s : State) : (clearEntries m s).comp.rendering = s.comp.rendering := by
  simp [clearEntries, clearedForm]

@[simp] theorem clearEntries_send (m : Bool) (s : State) : (clearEntries m s).send = s.send := by
  simp [clearEntries, clearedForm]

@[simp] theorem clearEntries_line_station (m : Bool) (s : State) : (clearEntries m s).line.station = s.line.station := by
  simp [clearEntries, clearedForm]

@[simp] theorem clearEntries_line_listenOnly (m : Bool) (s : State) : (clearEntries m s).line.listenOnly = s.line.listenOnly := by
  simp [clearEntries, clearedForm]

@[simp] theorem clearEntries_line_fifo (m : Bool) (s : State) : (clearEntries m s).line.fifo = s.line.fifo := by
  simp [clearEntries, clearedForm]

@[simp] theorem clearEntries_line_rxState (m : Bool) (s : State) : (clearEntries m s).line.rxState = s.line.rxState := by
  simp [clearEntries, clearedForm]

@[simp] theorem clearEntries_line_handoff (m : Bool) (s : State) : (clearEntries m s).line.handoff = s.line.handoff := by
  simp [clearEntries, clearedForm]

@[simp] theorem clearEntries_line_joined (m : Bool) (s : State) : (clearEntries m s).line.joined = s.line.joined := by
  simp [clearEntries, clearedForm]

@[simp] theorem clearEntries_line_tx (m : Bool) (s : State) : (clearEntries m s).line.tx = s.line.tx := by
  simp [clearEntries, clearedForm]

@[simp] theorem clearEntries_line_selection (m : Bool) (s : State) : (clearEntries m s).line.selection = s.line.selection := by
  simp [clearEntries, clearedForm]

@[simp] theorem clearEntries_line_flags (m : Bool) (s : State) : (clearEntries m s).line.flags = s.line.flags := by
  simp [clearEntries, clearedForm]

@[simp] theorem clearEntries_line_loopback (m : Bool) (s : State) : (clearEntries m s).line.loopback = s.line.loopback := by
  simp [clearEntries, clearedForm]

@[simp] theorem clearEntries_desk_table (m : Bool) (s : State) : (clearEntries m s).desk.table = s.desk.table := by
  simp [clearEntries, clearedForm]

@[simp] theorem clearEntries_desk_greet (m : Bool) (s : State) : (clearEntries m s).desk.greet = s.desk.greet := by
  simp [clearEntries, clearedForm]

@[simp] theorem clearEntries_desk_flow (m : Bool) (s : State) : (clearEntries m s).desk.flow = s.desk.flow := by
  simp [clearEntries, clearedForm]

@[simp] theorem clearEntries_desk_messages (m : Bool) (s : State) : (clearEntries m s).desk.messages = s.desk.messages := by
  simp [clearEntries, clearedForm]

@[simp] theorem clearEntries_desk_inbound (m : Bool) (s : State) : (clearEntries m s).desk.inbound = s.desk.inbound := by
  simp [clearEntries, clearedForm]

@[simp] theorem clearEntries_desk_inboundLost (m : Bool) (s : State) : (clearEntries m s).desk.inboundLost = s.desk.inboundLost := by
  simp [clearEntries, clearedForm]

@[simp] theorem clearEntries_desk_pauseSent (m : Bool) (s : State) : (clearEntries m s).desk.pauseSent = s.desk.pauseSent := by
  simp [clearEntries, clearedForm]

@[simp] theorem clearEntries_desk_paused (m : Bool) (s : State) : (clearEntries m s).desk.paused = s.desk.paused := by
  simp [clearEntries, clearedForm]

@[simp] theorem clearEntries_desk_banner (m : Bool) (s : State) : (clearEntries m s).desk.banner = s.desk.banner := by
  simp [clearEntries, clearedForm]

@[simp] theorem clearEntries_desk_refresh (m : Bool) (s : State) : (clearEntries m s).desk.refresh = s.desk.refresh := by
  simp [clearEntries, clearedForm]

/-! ### closeFrame -/

@[simp] theorem closeFrame_pending (b : List Byte) (s : State) : (closeFrame b s).pending = s.pending := rfl

@[simp] theorem closeFrame_tp_phase (b : List Byte) (s : State) : (closeFrame b s).tp.phase = s.tp.phase := rfl

@[simp] theorem closeFrame_tp_resetnLow (b : List Byte) (s : State) : (closeFrame b s).tp.resetnLow = s.tp.resetnLow := rfl

@[simp] theorem closeFrame_tp_supplySteady (b : List Byte) (s : State) : (closeFrame b s).tp.supplySteady = s.tp.supplySteady := rfl

@[simp] theorem closeFrame_tp_clearing (b : List Byte) (s : State) : (closeFrame b s).tp.clearing = s.tp.clearing := rfl

@[simp] theorem closeFrame_tp_outcome (b : List Byte) (s : State) : (closeFrame b s).tp.outcome = s.tp.outcome := rfl

@[simp] theorem closeFrame_tp_edge (b : List Byte) (s : State) : (closeFrame b s).tp.edge = s.tp.edge := rfl

@[simp] theorem closeFrame_tp_stream (b : List Byte) (s : State) : (closeFrame b s).tp.stream = s.tp.stream := rfl

@[simp] theorem closeFrame_form (b : List Byte) (s : State) : (closeFrame b s).form = s.form := rfl

@[simp] theorem closeFrame_cur (b : List Byte) (s : State) : (closeFrame b s).cur = s.cur := rfl

@[simp] theorem closeFrame_key (b : List Byte) (s : State) : (closeFrame b s).key = s.key := rfl

@[simp] theorem closeFrame_comp (b : List Byte) (s : State) : (closeFrame b s).comp = s.comp := rfl

@[simp] theorem closeFrame_send (b : List Byte) (s : State) : (closeFrame b s).send = s.send := rfl

@[simp] theorem closeFrame_line (b : List Byte) (s : State) : (closeFrame b s).line = s.line := rfl

@[simp] theorem closeFrame_desk (b : List Byte) (s : State) : (closeFrame b s).desk = s.desk := rfl

/-! ### record -/

@[simp] theorem record_pending (o : OrderOutcome) (s : State) : (record o s).pending = s.pending := rfl

@[simp] theorem record_tp_phase (o : OrderOutcome) (s : State) : (record o s).tp.phase = s.tp.phase := rfl

@[simp] theorem record_tp_resetnLow (o : OrderOutcome) (s : State) : (record o s).tp.resetnLow = s.tp.resetnLow := rfl

@[simp] theorem record_tp_supplySteady (o : OrderOutcome) (s : State) : (record o s).tp.supplySteady = s.tp.supplySteady := rfl

@[simp] theorem record_tp_clearing (o : OrderOutcome) (s : State) : (record o s).tp.clearing = s.tp.clearing := rfl

@[simp] theorem record_tp_decoder (o : OrderOutcome) (s : State) : (record o s).tp.decoder = s.tp.decoder := rfl

@[simp] theorem record_tp_edge (o : OrderOutcome) (s : State) : (record o s).tp.edge = s.tp.edge := rfl

@[simp] theorem record_tp_stream (o : OrderOutcome) (s : State) : (record o s).tp.stream = s.tp.stream := rfl

@[simp] theorem record_form (o : OrderOutcome) (s : State) : (record o s).form = s.form := rfl

@[simp] theorem record_cur (o : OrderOutcome) (s : State) : (record o s).cur = s.cur := rfl

@[simp] theorem record_key (o : OrderOutcome) (s : State) : (record o s).key = s.key := rfl

@[simp] theorem record_comp (o : OrderOutcome) (s : State) : (record o s).comp = s.comp := rfl

@[simp] theorem record_send (o : OrderOutcome) (s : State) : (record o s).send = s.send := rfl

@[simp] theorem record_line (o : OrderOutcome) (s : State) : (record o s).line = s.line := rfl

@[simp] theorem record_desk (o : OrderOutcome) (s : State) : (record o s).desk = s.desk := rfl

/-! ### endStream -/

@[simp] theorem endStream_pending (s : State) : (endStream s).pending = s.pending := rfl

@[simp] theorem endStream_tp_phase (s : State) : (endStream s).tp.phase = s.tp.phase := rfl

@[simp] theorem endStream_tp_resetnLow (s : State) : (endStream s).tp.resetnLow = s.tp.resetnLow := rfl

@[simp] theorem endStream_tp_supplySteady (s : State) : (endStream s).tp.supplySteady = s.tp.supplySteady := rfl

@[simp] theorem endStream_tp_clearing (s : State) : (endStream s).tp.clearing = s.tp.clearing := rfl

@[simp] theorem endStream_tp_decoder (s : State) : (endStream s).tp.decoder = s.tp.decoder := rfl

@[simp] theorem endStream_tp_outcome (s : State) : (endStream s).tp.outcome = s.tp.outcome := rfl

@[simp] theorem endStream_tp_edge (s : State) : (endStream s).tp.edge = s.tp.edge := rfl

@[simp] theorem endStream_form (s : State) : (endStream s).form = s.form := rfl

@[simp] theorem endStream_cur (s : State) : (endStream s).cur = s.cur := rfl

@[simp] theorem endStream_key (s : State) : (endStream s).key = s.key := rfl

@[simp] theorem endStream_comp (s : State) : (endStream s).comp = s.comp := rfl

@[simp] theorem endStream_send (s : State) : (endStream s).send = s.send := rfl

@[simp] theorem endStream_line (s : State) : (endStream s).line = s.line := rfl

@[simp] theorem endStream_desk (s : State) : (endStream s).desk = s.desk := rfl

/-! ### unknownFrame -/

@[simp] theorem unknownFrame_pending (n : Nat) (s : State) : (unknownFrame n s).pending = s.pending := rfl

@[simp] theorem unknownFrame_tp_phase (n : Nat) (s : State) : (unknownFrame n s).tp.phase = s.tp.phase := rfl

@[simp] theorem unknownFrame_tp_resetnLow (n : Nat) (s : State) : (unknownFrame n s).tp.resetnLow = s.tp.resetnLow := rfl

@[simp] theorem unknownFrame_tp_supplySteady (n : Nat) (s : State) : (unknownFrame n s).tp.supplySteady = s.tp.supplySteady := rfl

@[simp] theorem unknownFrame_tp_clearing (n : Nat) (s : State) : (unknownFrame n s).tp.clearing = s.tp.clearing := rfl

@[simp] theorem unknownFrame_tp_edge (n : Nat) (s : State) : (unknownFrame n s).tp.edge = s.tp.edge := rfl

@[simp] theorem unknownFrame_form (n : Nat) (s : State) : (unknownFrame n s).form = s.form := rfl

@[simp] theorem unknownFrame_cur (n : Nat) (s : State) : (unknownFrame n s).cur = s.cur := rfl

@[simp] theorem unknownFrame_key (n : Nat) (s : State) : (unknownFrame n s).key = s.key := rfl

@[simp] theorem unknownFrame_comp (n : Nat) (s : State) : (unknownFrame n s).comp = s.comp := rfl

@[simp] theorem unknownFrame_send (n : Nat) (s : State) : (unknownFrame n s).send = s.send := rfl

@[simp] theorem unknownFrame_line (n : Nat) (s : State) : (unknownFrame n s).line = s.line := rfl

@[simp] theorem unknownFrame_desk (n : Nat) (s : State) : (unknownFrame n s).desk = s.desk := rfl

/-! ### clearRead -/

@[simp] theorem clearRead_pending (n : Nat) (s : State) : (clearRead n s).pending = s.pending := by
  unfold clearRead; dsimp only; repeat' split
  all_goals rfl

@[simp] theorem clearRead_tp (n : Nat) (s : State) : (clearRead n s).tp = s.tp := by
  unfold clearRead; dsimp only; repeat' split
  all_goals rfl

@[simp] theorem clearRead_form (n : Nat) (s : State) : (clearRead n s).form = s.form := by
  unfold clearRead; dsimp only; repeat' split
  all_goals rfl

@[simp] theorem clearRead_cur (n : Nat) (s : State) : (clearRead n s).cur = s.cur := by
  unfold clearRead; dsimp only; repeat' split
  all_goals rfl

@[simp] theorem clearRead_key_queue (n : Nat) (s : State) : (clearRead n s).key.queue = s.key.queue := by
  unfold clearRead; dsimp only; repeat' split
  all_goals rfl

@[simp] theorem clearRead_key_keyboard (n : Nat) (s : State) : (clearRead n s).key.keyboard = s.key.keyboard := by
  unfold clearRead; dsimp only; repeat' split
  all_goals rfl

@[simp] theorem clearRead_key_insertMode (n : Nat) (s : State) : (clearRead n s).key.insertMode = s.key.insertMode := by
  unfold clearRead; dsimp only; repeat' split
  all_goals rfl

@[simp] theorem clearRead_key_edit (n : Nat) (s : State) : (clearRead n s).key.edit = s.key.edit := by
  unfold clearRead; dsimp only; repeat' split
  all_goals rfl

@[simp] theorem clearRead_key_alarm (n : Nat) (s : State) : (clearRead n s).key.alarm = s.key.alarm := by
  unfold clearRead; dsimp only; repeat' split
  all_goals rfl

@[simp] theorem clearRead_comp (n : Nat) (s : State) : (clearRead n s).comp = s.comp := by
  unfold clearRead; dsimp only; repeat' split
  all_goals rfl

@[simp] theorem clearRead_send (n : Nat) (s : State) : (clearRead n s).send = s.send := by
  unfold clearRead; dsimp only; repeat' split
  all_goals rfl

@[simp] theorem clearRead_line (n : Nat) (s : State) : (clearRead n s).line = s.line := by
  unfold clearRead; dsimp only; repeat' split
  all_goals rfl

@[simp] theorem clearRead_desk_table (n : Nat) (s : State) : (clearRead n s).desk.table = s.desk.table := by
  unfold clearRead; dsimp only; repeat' split
  all_goals rfl

@[simp] theorem clearRead_desk_active (n : Nat) (s : State) : (clearRead n s).desk.active = s.desk.active := by
  unfold clearRead; dsimp only; repeat' split
  all_goals rfl

@[simp] theorem clearRead_desk_tallies (n : Nat) (s : State) : (clearRead n s).desk.tallies = s.desk.tallies := by
  unfold clearRead; dsimp only; repeat' split
  all_goals rfl

@[simp] theorem clearRead_desk_greet (n : Nat) (s : State) : (clearRead n s).desk.greet = s.desk.greet := by
  unfold clearRead; dsimp only; repeat' split
  all_goals rfl

@[simp] theorem clearRead_desk_flow (n : Nat) (s : State) : (clearRead n s).desk.flow = s.desk.flow := by
  unfold clearRead; dsimp only; repeat' split
  all_goals rfl

@[simp] theorem clearRead_desk_messages (n : Nat) (s : State) : (clearRead n s).desk.messages = s.desk.messages := by
  unfold clearRead; dsimp only; repeat' split
  all_goals rfl

@[simp] theorem clearRead_desk_inbound (n : Nat) (s : State) : (clearRead n s).desk.inbound = s.desk.inbound := by
  unfold clearRead; dsimp only; repeat' split
  all_goals rfl

@[simp] theorem clearRead_desk_pauseSent (n : Nat) (s : State) : (clearRead n s).desk.pauseSent = s.desk.pauseSent := by
  unfold clearRead; dsimp only; repeat' split
  all_goals rfl

@[simp] theorem clearRead_desk_paused (n : Nat) (s : State) : (clearRead n s).desk.paused = s.desk.paused := by
  unfold clearRead; dsimp only; repeat' split
  all_goals rfl

@[simp] theorem clearRead_desk_banner (n : Nat) (s : State) : (clearRead n s).desk.banner = s.desk.banner := by
  unfold clearRead; dsimp only; repeat' split
  all_goals rfl

@[simp] theorem clearRead_desk_refresh (n : Nat) (s : State) : (clearRead n s).desk.refresh = s.desk.refresh := by
  unfold clearRead; dsimp only; repeat' split
  all_goals rfl

/-! ### statusFrame -/

@[simp] theorem statusFrame_pending (n : Nat) (s : State) : (statusFrame n s).pending = s.pending := by
  simp [statusFrame]

@[simp] theorem statusFrame_tp_phase (n : Nat) (s : State) : (statusFrame n s).tp.phase = s.tp.phase := by
  simp [statusFrame]

@[simp] theorem statusFrame_tp_resetnLow (n : Nat) (s : State) : (statusFrame n s).tp.resetnLow = s.tp.resetnLow := by
  simp [statusFrame]

@[simp] theorem statusFrame_tp_supplySteady (n : Nat) (s : State) : (statusFrame n s).tp.supplySteady = s.tp.supplySteady := by
  simp [statusFrame]

@[simp] theorem statusFrame_tp_clearing (n : Nat) (s : State) : (statusFrame n s).tp.clearing = s.tp.clearing := by
  simp [statusFrame]

@[simp] theorem statusFrame_tp_outcome (n : Nat) (s : State) : (statusFrame n s).tp.outcome = s.tp.outcome := by
  simp [statusFrame]

@[simp] theorem statusFrame_tp_edge (n : Nat) (s : State) : (statusFrame n s).tp.edge = s.tp.edge := by
  simp [statusFrame]

@[simp] theorem statusFrame_tp_stream (n : Nat) (s : State) : (statusFrame n s).tp.stream = s.tp.stream := by
  simp [statusFrame]

@[simp] theorem statusFrame_form (n : Nat) (s : State) : (statusFrame n s).form = s.form := by
  simp [statusFrame]

@[simp] theorem statusFrame_cur (n : Nat) (s : State) : (statusFrame n s).cur = s.cur := by
  simp [statusFrame]

@[simp] theorem statusFrame_key_queue (n : Nat) (s : State) : (statusFrame n s).key.queue = s.key.queue := by
  simp [statusFrame]

@[simp] theorem statusFrame_key_keyboard (n : Nat) (s : State) : (statusFrame n s).key.keyboard = s.key.keyboard := by
  simp [statusFrame]

@[simp] theorem statusFrame_key_insertMode (n : Nat) (s : State) : (statusFrame n s).key.insertMode = s.key.insertMode := by
  simp [statusFrame]

@[simp] theorem statusFrame_key_edit (n : Nat) (s : State) : (statusFrame n s).key.edit = s.key.edit := by
  simp [statusFrame]

@[simp] theorem statusFrame_key_alarm (n : Nat) (s : State) : (statusFrame n s).key.alarm = s.key.alarm := by
  simp [statusFrame]

@[simp] theorem statusFrame_comp (n : Nat) (s : State) : (statusFrame n s).comp = s.comp := by
  simp [statusFrame]

@[simp] theorem statusFrame_send (n : Nat) (s : State) : (statusFrame n s).send = s.send := by
  simp [statusFrame]

@[simp] theorem statusFrame_line (n : Nat) (s : State) : (statusFrame n s).line = s.line := by
  simp [statusFrame]

@[simp] theorem statusFrame_desk_table (n : Nat) (s : State) : (statusFrame n s).desk.table = s.desk.table := by
  simp [statusFrame]

@[simp] theorem statusFrame_desk_active (n : Nat) (s : State) : (statusFrame n s).desk.active = s.desk.active := by
  simp [statusFrame]

@[simp] theorem statusFrame_desk_tallies (n : Nat) (s : State) : (statusFrame n s).desk.tallies = s.desk.tallies := by
  simp [statusFrame]

@[simp] theorem statusFrame_desk_greet (n : Nat) (s : State) : (statusFrame n s).desk.greet = s.desk.greet := by
  simp [statusFrame]

@[simp] theorem statusFrame_desk_flow (n : Nat) (s : State) : (statusFrame n s).desk.flow = s.desk.flow := by
  simp [statusFrame]

@[simp] theorem statusFrame_desk_messages (n : Nat) (s : State) : (statusFrame n s).desk.messages = s.desk.messages := by
  simp [statusFrame]

@[simp] theorem statusFrame_desk_inbound (n : Nat) (s : State) : (statusFrame n s).desk.inbound = s.desk.inbound := by
  simp [statusFrame]

@[simp] theorem statusFrame_desk_pauseSent (n : Nat) (s : State) : (statusFrame n s).desk.pauseSent = s.desk.pauseSent := by
  simp [statusFrame]

@[simp] theorem statusFrame_desk_paused (n : Nat) (s : State) : (statusFrame n s).desk.paused = s.desk.paused := by
  simp [statusFrame]

@[simp] theorem statusFrame_desk_banner (n : Nat) (s : State) : (statusFrame n s).desk.banner = s.desk.banner := by
  simp [statusFrame]

@[simp] theorem statusFrame_desk_refresh (n : Nat) (s : State) : (statusFrame n s).desk.refresh = s.desk.refresh := by
  simp [statusFrame]

/-! ### causeFrame -/

@[simp] theorem causeFrame_pending (n : Nat) (s : State) : (causeFrame n s).pending = s.pending := by
  unfold causeFrame; dsimp only; split <;> simp

@[simp] theorem causeFrame_tp_phase (n : Nat) (s : State) : (causeFrame n s).tp.phase = s.tp.phase := by
  unfold causeFrame; dsimp only; split <;> simp

@[simp] theorem causeFrame_tp_resetnLow (n : Nat) (s : State) : (causeFrame n s).tp.resetnLow = s.tp.resetnLow := by
  unfold causeFrame; dsimp only; split <;> simp

@[simp] theorem causeFrame_tp_supplySteady (n : Nat) (s : State) : (causeFrame n s).tp.supplySteady = s.tp.supplySteady := by
  unfold causeFrame; dsimp only; split <;> simp

@[simp] theorem causeFrame_tp_clearing (n : Nat) (s : State) : (causeFrame n s).tp.clearing = s.tp.clearing := by
  unfold causeFrame; dsimp only; split <;> simp

@[simp] theorem causeFrame_tp_outcome (n : Nat) (s : State) : (causeFrame n s).tp.outcome = s.tp.outcome := by
  unfold causeFrame; dsimp only; split <;> simp

@[simp] theorem causeFrame_tp_stream (n : Nat) (s : State) : (causeFrame n s).tp.stream = s.tp.stream := by
  unfold causeFrame; dsimp only; split <;> simp

@[simp] theorem causeFrame_form (n : Nat) (s : State) : (causeFrame n s).form = s.form := by
  unfold causeFrame; dsimp only; split <;> simp

@[simp] theorem causeFrame_cur (n : Nat) (s : State) : (causeFrame n s).cur = s.cur := by
  unfold causeFrame; dsimp only; split <;> simp

@[simp] theorem causeFrame_key (n : Nat) (s : State) : (causeFrame n s).key = s.key := by
  unfold causeFrame; dsimp only; split <;> simp

@[simp] theorem causeFrame_comp (n : Nat) (s : State) : (causeFrame n s).comp = s.comp := by
  unfold causeFrame; dsimp only; split <;> simp

@[simp] theorem causeFrame_send (n : Nat) (s : State) : (causeFrame n s).send = s.send := by
  unfold causeFrame; dsimp only; split <;> simp

@[simp] theorem causeFrame_line (n : Nat) (s : State) : (causeFrame n s).line = s.line := by
  unfold causeFrame; dsimp only; split <;> simp

@[simp] theorem causeFrame_desk (n : Nat) (s : State) : (causeFrame n s).desk = s.desk := by
  unfold causeFrame; dsimp only; split <;> simp

/-! ### offerKey -/

@[simp] theorem offerKey_pending (b : Byte) (s : State) : (offerKey b s).pending = s.pending := by
  unfold offerKey; repeat' split
  all_goals simp

@[simp] theorem offerKey_tp (b : Byte) (s : State) : (offerKey b s).tp = s.tp := by
  unfold offerKey; repeat' split
  all_goals simp

@[simp] theorem offerKey_form (b : Byte) (s : State) : (offerKey b s).form = s.form := by
  unfold offerKey; repeat' split
  all_goals simp

@[simp] theorem offerKey_cur (b : Byte) (s : State) : (offerKey b s).cur = s.cur := by
  unfold offerKey; repeat' split
  all_goals simp

@[simp] theorem offerKey_key_keyboard (b : Byte) (s : State) : (offerKey b s).key.keyboard = s.key.keyboard := by
  unfold offerKey; repeat' split
  all_goals simp

@[simp] theorem offerKey_key_insertMode (b : Byte) (s : State) : (offerKey b s).key.insertMode = s.key.insertMode := by
  unfold offerKey; repeat' split
  all_goals simp

@[simp] theorem offerKey_key_edit (b : Byte) (s : State) : (offerKey b s).key.edit = s.key.edit := by
  unfold offerKey; repeat' split
  all_goals simp

@[simp] theorem offerKey_comp (b : Byte) (s : State) : (offerKey b s).comp = s.comp := by
  unfold offerKey; repeat' split
  all_goals simp

@[simp] theorem offerKey_send (b : Byte) (s : State) : (offerKey b s).send = s.send := by
  unfold offerKey; repeat' split
  all_goals simp

@[simp] theorem offerKey_line (b : Byte) (s : State) : (offerKey b s).line = s.line := by
  unfold offerKey; repeat' split
  all_goals simp

@[simp] theorem offerKey_desk (b : Byte) (s : State) : (offerKey b s).desk = s.desk := by
  unfold offerKey; repeat' split
  all_goals simp

/-! ### offerKeys -/

@[simp] theorem offerKeys_pending (bs : List Byte) (s : State) : (offerKeys bs s).pending = s.pending := by
  induction bs generalizing s with
  | nil => rfl
  | cons x xs ih => simp [offerKeys, ih]

@[simp] theorem offerKeys_tp (bs : List Byte) (s : State) : (offerKeys bs s).tp = s.tp := by
  induction bs generalizing s with
  | nil => rfl
  | cons x xs ih => simp [offerKeys, ih]

@[simp] theorem offerKeys_form (bs : List Byte) (s : State) : (offerKeys bs s).form = s.form := by
  induction bs generalizing s with
  | nil => rfl
  | cons x xs ih => simp [offerKeys, ih]

@[simp] theorem offerKeys_cur (bs : List Byte) (s : State) : (offerKeys bs s).cur = s.cur := by
  induction bs generalizing s with
  | nil => rfl
  | cons x xs ih => simp [offerKeys, ih]

@[simp] theorem offerKeys_key_keyboard (bs : List Byte) (s : State) : (offerKeys bs s).key.keyboard = s.key.keyboard := by
  induction bs generalizing s with
  | nil => rfl
  | cons x xs ih => simp [offerKeys, ih]

@[simp] theorem offerKeys_key_insertMode (bs : List Byte) (s : State) : (offerKeys bs s).key.insertMode = s.key.insertMode := by
  induction bs generalizing s with
  | nil => rfl
  | cons x xs ih => simp [offerKeys, ih]

@[simp] theorem offerKeys_key_edit (bs : List Byte) (s : State) : (offerKeys bs s).key.edit = s.key.edit := by
  induction bs generalizing s with
  | nil => rfl
  | cons x xs ih => simp [offerKeys, ih]

@[simp] theorem offerKeys_comp (bs : List Byte) (s : State) : (offerKeys bs s).comp = s.comp := by
  induction bs generalizing s with
  | nil => rfl
  | cons x xs ih => simp [offerKeys, ih]

@[simp] theorem offerKeys_send (bs : List Byte) (s : State) : (offerKeys bs s).send = s.send := by
  induction bs generalizing s with
  | nil => rfl
  | cons x xs ih => simp [offerKeys, ih]

@[simp] theorem offerKeys_line (bs : List Byte) (s : State) : (offerKeys bs s).line = s.line := by
  induction bs generalizing s with
  | nil => rfl
  | cons x xs ih => simp [offerKeys, ih]

@[simp] theorem offerKeys_desk (bs : List Byte) (s : State) : (offerKeys bs s).desk = s.desk := by
  induction bs generalizing s with
  | nil => rfl
  | cons x xs ih => simp [offerKeys, ih]

/-! ### setLength -/

@[simp] theorem setLength_pending (s : State) : (setLength s).pending = s.pending := rfl

@[simp] theorem setLength_tp (s : State) : (setLength s).tp = s.tp := rfl

@[simp] theorem setLength_form (s : State) : (setLength s).form = s.form := rfl

@[simp] theorem setLength_cur (s : State) : (setLength s).cur = s.cur := rfl

@[simp] theorem setLength_key (s : State) : (setLength s).key = s.key := rfl

@[simp] theorem setLength_comp (s : State) : (setLength s).comp = s.comp := rfl

@[simp] theorem setLength_send (s : State) : (setLength s).send = s.send := rfl

@[simp] theorem setLength_line_station (s : State) : (setLength s).line.station = s.line.station := rfl

@[simp] theorem setLength_line_listenOnly (s : State) : (setLength s).line.listenOnly = s.line.listenOnly := rfl

@[simp] theorem setLength_line_fifo (s : State) : (setLength s).line.fifo = s.line.fifo := rfl

@[simp] theorem setLength_line_rxState (s : State) : (setLength s).line.rxState = s.line.rxState := rfl

@[simp] theorem setLength_line_handoff (s : State) : (setLength s).line.handoff = s.line.handoff := rfl

@[simp] theorem setLength_line_joined (s : State) : (setLength s).line.joined = s.line.joined := rfl

@[simp] theorem setLength_line_tx (s : State) : (setLength s).line.tx = s.line.tx := rfl

@[simp] theorem setLength_line_selection (s : State) : (setLength s).line.selection = s.line.selection := rfl

@[simp] theorem setLength_line_loopback (s : State) : (setLength s).line.loopback = s.line.loopback := rfl

@[simp] theorem setLength_desk (s : State) : (setLength s).desk = s.desk := rfl

/-! ### retractTags -/

@[simp] theorem retractTags_pending (s : State) : (retractTags s).pending = s.pending := by
  simp [retractTags]

@[simp] theorem retractTags_tp (s : State) : (retractTags s).tp = s.tp := by
  simp [retractTags]

@[simp] theorem retractTags_form (s : State) : (retractTags s).form = s.form := by
  simp [retractTags]

@[simp] theorem retractTags_cur (s : State) : (retractTags s).cur = s.cur := by
  simp [retractTags]

@[simp] theorem retractTags_key (s : State) : (retractTags s).key = s.key := by
  simp [retractTags]

@[simp] theorem retractTags_comp (s : State) : (retractTags s).comp = s.comp := by
  simp [retractTags]

@[simp] theorem retractTags_send (s : State) : (retractTags s).send = s.send := by
  simp [retractTags]

@[simp] theorem retractTags_line_station (s : State) : (retractTags s).line.station = s.line.station := by
  simp [retractTags]

@[simp] theorem retractTags_line_listenOnly (s : State) : (retractTags s).line.listenOnly = s.line.listenOnly := by
  simp [retractTags]

@[simp] theorem retractTags_line_fifo (s : State) : (retractTags s).line.fifo = s.line.fifo := by
  simp [retractTags]

@[simp] theorem retractTags_line_rxState (s : State) : (retractTags s).line.rxState = s.line.rxState := by
  simp [retractTags]

@[simp] theorem retractTags_line_handoff (s : State) : (retractTags s).line.handoff = s.line.handoff := by
  simp [retractTags]

@[simp] theorem retractTags_line_joined (s : State) : (retractTags s).line.joined = s.line.joined := by
  simp [retractTags]

@[simp] theorem retractTags_line_tx (s : State) : (retractTags s).line.tx = s.line.tx := by
  simp [retractTags]

@[simp] theorem retractTags_line_selection (s : State) : (retractTags s).line.selection = s.line.selection := by
  simp [retractTags]

@[simp] theorem retractTags_line_flags (s : State) : (retractTags s).line.flags = s.line.flags := by
  simp [retractTags]

@[simp] theorem retractTags_line_loopback (s : State) : (retractTags s).line.loopback = s.line.loopback := by
  simp [retractTags]

@[simp] theorem retractTags_desk_table (s : State) : (retractTags s).desk.table = s.desk.table := by
  simp [retractTags]

@[simp] theorem retractTags_desk_greet (s : State) : (retractTags s).desk.greet = s.desk.greet := by
  simp [retractTags]

@[simp] theorem retractTags_desk_flow (s : State) : (retractTags s).desk.flow = s.desk.flow := by
  simp [retractTags]

@[simp] theorem retractTags_desk_messages (s : State) : (retractTags s).desk.messages = s.desk.messages := by
  simp [retractTags]

@[simp] theorem retractTags_desk_inbound (s : State) : (retractTags s).desk.inbound = s.desk.inbound := by
  simp [retractTags]

@[simp] theorem retractTags_desk_inboundLost (s : State) : (retractTags s).desk.inboundLost = s.desk.inboundLost := by
  simp [retractTags]

@[simp] theorem retractTags_desk_pauseSent (s : State) : (retractTags s).desk.pauseSent = s.desk.pauseSent := by
  simp [retractTags]

@[simp] theorem retractTags_desk_paused (s : State) : (retractTags s).desk.paused = s.desk.paused := by
  simp [retractTags]

@[simp] theorem retractTags_desk_banner (s : State) : (retractTags s).desk.banner = s.desk.banner := by
  simp [retractTags]

@[simp] theorem retractTags_desk_refresh (s : State) : (retractTags s).desk.refresh = s.desk.refresh := by
  simp [retractTags]

/-! ### advanceRead -/

@[simp] theorem advanceRead_pending (n : Nat) (s : State) : (advanceRead n s).pending = s.pending := rfl

@[simp] theorem advanceRead_tp (n : Nat) (s : State) : (advanceRead n s).tp = s.tp := rfl

@[simp] theorem advanceRead_form (n : Nat) (s : State) : (advanceRead n s).form = s.form := rfl

@[simp] theorem advanceRead_cur (n : Nat) (s : State) : (advanceRead n s).cur = s.cur := rfl

@[simp] theorem advanceRead_key (n : Nat) (s : State) : (advanceRead n s).key = s.key := rfl

@[simp] theorem advanceRead_comp (n : Nat) (s : State) : (advanceRead n s).comp = s.comp := rfl

@[simp] theorem advanceRead_send_state (n : Nat) (s : State) : (advanceRead n s).send.state = s.send.state := rfl

@[simp] theorem advanceRead_send_record (n : Nat) (s : State) : (advanceRead n s).send.record = s.send.record := rfl

@[simp] theorem advanceRead_send_block (n : Nat) (s : State) : (advanceRead n s).send.block = s.send.block := rfl

@[simp] theorem advanceRead_line (n : Nat) (s : State) : (advanceRead n s).line = s.line := rfl

@[simp] theorem advanceRead_desk (n : Nat) (s : State) : (advanceRead n s).desk = s.desk := rfl

/-! ### dropSend -/

@[simp] theorem dropSend_pending (s : State) : (dropSend s).pending = s.pending := rfl

@[simp] theorem dropSend_tp (s : State) : (dropSend s).tp = s.tp := rfl

@[simp] theorem dropSend_form (s : State) : (dropSend s).form = s.form := rfl

@[simp] theorem dropSend_cur (s : State) : (dropSend s).cur = s.cur := rfl

@[simp] theorem dropSend_key (s : State) : (dropSend s).key = s.key := rfl

@[simp] theorem dropSend_comp (s : State) : (dropSend s).comp = s.comp := rfl

@[simp] theorem dropSend_line (s : State) : (dropSend s).line = s.line := rfl

@[simp] theorem dropSend_desk (s : State) : (dropSend s).desk = s.desk := rfl

/-! ### placeOn -/

@[simp] theorem placeOn_pending (i : Inst) (s : State) : (placeOn i s).pending = s.pending := by
  unfold placeOn; split <;> simp

@[simp] theorem placeOn_tp (i : Inst) (s : State) : (placeOn i s).tp = s.tp := by
  unfold placeOn; split <;> simp

@[simp] theorem placeOn_form (i : Inst) (s : State) : (placeOn i s).form = s.form := by
  unfold placeOn; split <;> simp

@[simp] theorem placeOn_key (i : Inst) (s : State) : (placeOn i s).key = s.key := by
  unfold placeOn; split <;> simp

@[simp] theorem placeOn_comp_image (i : Inst) (s : State) : (placeOn i s).comp.image = s.comp.image := by
  unfold placeOn; split <;> simp

@[simp] theorem placeOn_comp_rendering (i : Inst) (s : State) : (placeOn i s).comp.rendering = s.comp.rendering := by
  unfold placeOn; split <;> simp

@[simp] theorem placeOn_send (i : Inst) (s : State) : (placeOn i s).send = s.send := by
  unfold placeOn; split <;> simp

@[simp] theorem placeOn_line (i : Inst) (s : State) : (placeOn i s).line = s.line := by
  unfold placeOn; split <;> simp

@[simp] theorem placeOn_desk (i : Inst) (s : State) : (placeOn i s).desk = s.desk := by
  unfold placeOn; split <;> simp

/-! ### clearHandoff -/

@[simp] theorem clearHandoff_pending (s : State) : (clearHandoff s).pending = s.pending := rfl

@[simp] theorem clearHandoff_tp (s : State) : (clearHandoff s).tp = s.tp := rfl

@[simp] theorem clearHandoff_form (s : State) : (clearHandoff s).form = s.form := rfl

@[simp] theorem clearHandoff_cur (s : State) : (clearHandoff s).cur = s.cur := rfl

@[simp] theorem clearHandoff_key (s : State) : (clearHandoff s).key = s.key := rfl

@[simp] theorem clearHandoff_comp (s : State) : (clearHandoff s).comp = s.comp := rfl

@[simp] theorem clearHandoff_send (s : State) : (clearHandoff s).send = s.send := rfl

@[simp] theorem clearHandoff_line_station (s : State) : (clearHandoff s).line.station = s.line.station := rfl

@[simp] theorem clearHandoff_line_listenOnly (s : State) : (clearHandoff s).line.listenOnly = s.line.listenOnly := rfl

@[simp] theorem clearHandoff_line_fifo (s : State) : (clearHandoff s).line.fifo = s.line.fifo := rfl

@[simp] theorem clearHandoff_line_rxState (s : State) : (clearHandoff s).line.rxState = s.line.rxState := rfl

@[simp] theorem clearHandoff_line_joined (s : State) : (clearHandoff s).line.joined = s.line.joined := rfl

@[simp] theorem clearHandoff_line_tx (s : State) : (clearHandoff s).line.tx = s.line.tx := rfl

@[simp] theorem clearHandoff_line_selection (s : State) : (clearHandoff s).line.selection = s.line.selection := rfl

@[simp] theorem clearHandoff_line_flags (s : State) : (clearHandoff s).line.flags = s.line.flags := rfl

@[simp] theorem clearHandoff_line_loopback (s : State) : (clearHandoff s).line.loopback = s.line.loopback := rfl

@[simp] theorem clearHandoff_desk (s : State) : (clearHandoff s).desk = s.desk := rfl

/-! ### retable -/

@[simp] theorem retable_pending (g : List (Nat × Entry) → List (Nat × Entry)) (s : State) : (retable g s).pending = s.pending := by
  simp [retable]

@[simp] theorem retable_tp_phase (g : List (Nat × Entry) → List (Nat × Entry)) (s : State) : (retable g s).tp.phase = s.tp.phase := by
  simp [retable]

@[simp] theorem retable_tp_resetnLow (g : List (Nat × Entry) → List (Nat × Entry)) (s : State) : (retable g s).tp.resetnLow = s.tp.resetnLow := by
  simp [retable]

@[simp] theorem retable_tp_supplySteady (g : List (Nat × Entry) → List (Nat × Entry)) (s : State) : (retable g s).tp.supplySteady = s.tp.supplySteady := by
  simp [retable]

@[simp] theorem retable_tp_clearing (g : List (Nat × Entry) → List (Nat × Entry)) (s : State) : (retable g s).tp.clearing = s.tp.clearing := by
  simp [retable]

@[simp] theorem retable_tp_decoder (g : List (Nat × Entry) → List (Nat × Entry)) (s : State) : (retable g s).tp.decoder = s.tp.decoder := by
  simp [retable]

@[simp] theorem retable_tp_outcome (g : List (Nat × Entry) → List (Nat × Entry)) (s : State) : (retable g s).tp.outcome = s.tp.outcome := by
  simp [retable]

@[simp] theorem retable_tp_stream (g : List (Nat × Entry) → List (Nat × Entry)) (s : State) : (retable g s).tp.stream = s.tp.stream := by
  simp [retable]

@[simp] theorem retable_form_state (g : List (Nat × Entry) → List (Nat × Entry)) (s : State) : (retable g s).form.state = s.form.state := by
  simp [retable]

@[simp] theorem retable_form_h (g : List (Nat × Entry) → List (Nat × Entry)) (s : State) : (retable g s).form.h = s.form.h := by
  simp [retable]

@[simp] theorem retable_form_w (g : List (Nat × Entry) → List (Nat × Entry)) (s : State) : (retable g s).form.w = s.form.w := by
  simp [retable]

@[simp] theorem retable_form_d (g : List (Nat × Entry) → List (Nat × Entry)) (s : State) : (retable g s).form.d = s.form.d := by
  simp [retable]

@[simp] theorem retable_form_fields (g : List (Nat × Entry) → List (Nat × Entry)) (s : State) : (retable g s).form.fields = s.form.fields := by
  simp [retable]

@[simp] theorem retable_form_cols (g : List (Nat × Entry) → List (Nat × Entry)) (s : State) : (retable g s).form.cols = s.form.cols := by
  simp [retable]

@[simp] theorem retable_form_screenPlane (g : List (Nat × Entry) → List (Nat × Entry)) (s : State) : (retable g s).form.screenPlane = s.form.screenPlane := by
  simp [retable]

@[simp] theorem retable_form_linePlane (g : List (Nat × Entry) → List (Nat × Entry)) (s : State) : (retable g s).form.linePlane = s.form.linePlane := by
  simp [retable]

@[simp] theorem retable_form_lines (g : List (Nat × Entry) → List (Nat × Entry)) (s : State) : (retable g s).form.lines = s.form.lines := by
  simp [retable]

@[simp] theorem retable_cur (g : List (Nat × Entry) → List (Nat × Entry)) (s : State) : (retable g s).cur = s.cur := by
  simp [retable]

@[simp] theorem retable_key (g : List (Nat × Entry) → List (Nat × Entry)) (s : State) : (retable g s).key = s.key := by
  simp [retable]

@[simp] theorem retable_comp_image (g : List (Nat × Entry) → List (Nat × Entry)) (s : State) : (retable g s).comp.image = s.comp.image := by
  simp [retable]

@[simp] theorem retable_comp_rendering (g : List (Nat × Entry) → List (Nat × Entry)) (s : State) : (retable g s).comp.rendering = s.comp.rendering := by
  simp [retable]

@[simp] theorem retable_send (g : List (Nat × Entry) → List (Nat × Entry)) (s : State) : (retable g s).send = s.send := by
  simp [retable]

@[simp] theorem retable_line (g : List (Nat × Entry) → List (Nat × Entry)) (s : State) : (retable g s).line = s.line := by
  simp [retable]

@[simp] theorem retable_desk_active (g : List (Nat × Entry) → List (Nat × Entry)) (s : State) : (retable g s).desk.active = s.desk.active := by
  simp [retable]

@[simp] theorem retable_desk_tallies (g : List (Nat × Entry) → List (Nat × Entry)) (s : State) : (retable g s).desk.tallies = s.desk.tallies := by
  simp [retable]

@[simp] theorem retable_desk_greet (g : List (Nat × Entry) → List (Nat × Entry)) (s : State) : (retable g s).desk.greet = s.desk.greet := by
  simp [retable]

@[simp] theorem retable_desk_flow (g : List (Nat × Entry) → List (Nat × Entry)) (s : State) : (retable g s).desk.flow = s.desk.flow := by
  simp [retable]

@[simp] theorem retable_desk_messages (g : List (Nat × Entry) → List (Nat × Entry)) (s : State) : (retable g s).desk.messages = s.desk.messages := by
  simp [retable]

@[simp] theorem retable_desk_inbound (g : List (Nat × Entry) → List (Nat × Entry)) (s : State) : (retable g s).desk.inbound = s.desk.inbound := by
  simp [retable]

@[simp] theorem retable_desk_inboundLost (g : List (Nat × Entry) → List (Nat × Entry)) (s : State) : (retable g s).desk.inboundLost = s.desk.inboundLost := by
  simp [retable]

@[simp] theorem retable_desk_pauseSent (g : List (Nat × Entry) → List (Nat × Entry)) (s : State) : (retable g s).desk.pauseSent = s.desk.pauseSent := by
  simp [retable]

@[simp] theorem retable_desk_paused (g : List (Nat × Entry) → List (Nat × Entry)) (s : State) : (retable g s).desk.paused = s.desk.paused := by
  simp [retable]

@[simp] theorem retable_desk_banner (g : List (Nat × Entry) → List (Nat × Entry)) (s : State) : (retable g s).desk.banner = s.desk.banner := by
  simp [retable]

@[simp] theorem retable_desk_refresh (g : List (Nat × Entry) → List (Nat × Entry)) (s : State) : (retable g s).desk.refresh = s.desk.refresh := by
  simp [retable]

/-! ### unpause -/

@[simp] theorem unpause_pending (n : Nat) (s : State) : (unpause n s).pending = s.pending := rfl

@[simp] theorem unpause_tp (n : Nat) (s : State) : (unpause n s).tp = s.tp := rfl

@[simp] theorem unpause_form (n : Nat) (s : State) : (unpause n s).form = s.form := rfl

@[simp] theorem unpause_cur (n : Nat) (s : State) : (unpause n s).cur = s.cur := rfl

@[simp] theorem unpause_key (n : Nat) (s : State) : (unpause n s).key = s.key := rfl

@[simp] theorem unpause_comp (n : Nat) (s : State) : (unpause n s).comp = s.comp := rfl

@[simp] theorem unpause_send (n : Nat) (s : State) : (unpause n s).send = s.send := rfl

@[simp] theorem unpause_line (n : Nat) (s : State) : (unpause n s).line = s.line := rfl

@[simp] theorem unpause_desk_table (n : Nat) (s : State) : (unpause n s).desk.table = s.desk.table := rfl

@[simp] theorem unpause_desk_active (n : Nat) (s : State) : (unpause n s).desk.active = s.desk.active := rfl

@[simp] theorem unpause_desk_tallies (n : Nat) (s : State) : (unpause n s).desk.tallies = s.desk.tallies := rfl

@[simp] theorem unpause_desk_greet (n : Nat) (s : State) : (unpause n s).desk.greet = s.desk.greet := rfl

@[simp] theorem unpause_desk_flow (n : Nat) (s : State) : (unpause n s).desk.flow = s.desk.flow := rfl

@[simp] theorem unpause_desk_messages (n : Nat) (s : State) : (unpause n s).desk.messages = s.desk.messages := rfl

@[simp] theorem unpause_desk_inbound (n : Nat) (s : State) : (unpause n s).desk.inbound = s.desk.inbound := rfl

@[simp] theorem unpause_desk_inboundLost (n : Nat) (s : State) : (unpause n s).desk.inboundLost = s.desk.inboundLost := rfl

@[simp] theorem unpause_desk_pauseSent (n : Nat) (s : State) : (unpause n s).desk.pauseSent = s.desk.pauseSent := rfl

@[simp] theorem unpause_desk_banner (n : Nat) (s : State) : (unpause n s).desk.banner = s.desk.banner := rfl

@[simp] theorem unpause_desk_refresh (n : Nat) (s : State) : (unpause n s).desk.refresh = s.desk.refresh := rfl

/-! ### setBanner -/

@[simp] theorem setBanner_pending (b : Text) (s : State) : (setBanner b s).pending = s.pending := by
  simp [setBanner]

@[simp] theorem setBanner_tp (b : Text) (s : State) : (setBanner b s).tp = s.tp := by
  simp [setBanner]

@[simp] theorem setBanner_form (b : Text) (s : State) : (setBanner b s).form = s.form := by
  simp [setBanner]

@[simp] theorem setBanner_cur (b : Text) (s : State) : (setBanner b s).cur = s.cur := by
  simp [setBanner]

@[simp] theorem setBanner_key (b : Text) (s : State) : (setBanner b s).key = s.key := by
  simp [setBanner]

@[simp] theorem setBanner_comp_image (b : Text) (s : State) : (setBanner b s).comp.image = s.comp.image := by
  simp [setBanner]

@[simp] theorem setBanner_comp_rendering (b : Text) (s : State) : (setBanner b s).comp.rendering = s.comp.rendering := by
  simp [setBanner]

@[simp] theorem setBanner_send (b : Text) (s : State) : (setBanner b s).send = s.send := by
  simp [setBanner]

@[simp] theorem setBanner_line (b : Text) (s : State) : (setBanner b s).line = s.line := by
  simp [setBanner]

@[simp] theorem setBanner_desk_table (b : Text) (s : State) : (setBanner b s).desk.table = s.desk.table := by
  simp [setBanner]

@[simp] theorem setBanner_desk_active (b : Text) (s : State) : (setBanner b s).desk.active = s.desk.active := by
  simp [setBanner]

@[simp] theorem setBanner_desk_tallies (b : Text) (s : State) : (setBanner b s).desk.tallies = s.desk.tallies := by
  simp [setBanner]

@[simp] theorem setBanner_desk_greet (b : Text) (s : State) : (setBanner b s).desk.greet = s.desk.greet := by
  simp [setBanner]

@[simp] theorem setBanner_desk_flow (b : Text) (s : State) : (setBanner b s).desk.flow = s.desk.flow := by
  simp [setBanner]

@[simp] theorem setBanner_desk_messages (b : Text) (s : State) : (setBanner b s).desk.messages = s.desk.messages := by
  simp [setBanner]

@[simp] theorem setBanner_desk_inbound (b : Text) (s : State) : (setBanner b s).desk.inbound = s.desk.inbound := by
  simp [setBanner]

@[simp] theorem setBanner_desk_inboundLost (b : Text) (s : State) : (setBanner b s).desk.inboundLost = s.desk.inboundLost := by
  simp [setBanner]

@[simp] theorem setBanner_desk_pauseSent (b : Text) (s : State) : (setBanner b s).desk.pauseSent = s.desk.pauseSent := by
  simp [setBanner]

@[simp] theorem setBanner_desk_paused (b : Text) (s : State) : (setBanner b s).desk.paused = s.desk.paused := by
  simp [setBanner]

@[simp] theorem setBanner_desk_refresh (b : Text) (s : State) : (setBanner b s).desk.refresh = s.desk.refresh := by
  simp [setBanner]

/-! ### storeInbound -/

@[simp] theorem storeInbound_pending (m : InMsg) (s : State) : (storeInbound m s).pending = s.pending := rfl

@[simp] theorem storeInbound_tp (m : InMsg) (s : State) : (storeInbound m s).tp = s.tp := rfl

@[simp] theorem storeInbound_form (m : InMsg) (s : State) : (storeInbound m s).form = s.form := rfl

@[simp] theorem storeInbound_cur (m : InMsg) (s : State) : (storeInbound m s).cur = s.cur := rfl

@[simp] theorem storeInbound_key (m : InMsg) (s : State) : (storeInbound m s).key = s.key := rfl

@[simp] theorem storeInbound_comp (m : InMsg) (s : State) : (storeInbound m s).comp = s.comp := rfl

@[simp] theorem storeInbound_send (m : InMsg) (s : State) : (storeInbound m s).send = s.send := rfl

@[simp] theorem storeInbound_line (m : InMsg) (s : State) : (storeInbound m s).line = s.line := rfl

@[simp] theorem storeInbound_desk_table (m : InMsg) (s : State) : (storeInbound m s).desk.table = s.desk.table := rfl

@[simp] theorem storeInbound_desk_active (m : InMsg) (s : State) : (storeInbound m s).desk.active = s.desk.active := rfl

@[simp] theorem storeInbound_desk_tallies (m : InMsg) (s : State) : (storeInbound m s).desk.tallies = s.desk.tallies := rfl

@[simp] theorem storeInbound_desk_greet (m : InMsg) (s : State) : (storeInbound m s).desk.greet = s.desk.greet := rfl

@[simp] theorem storeInbound_desk_flow (m : InMsg) (s : State) : (storeInbound m s).desk.flow = s.desk.flow := rfl

@[simp] theorem storeInbound_desk_messages (m : InMsg) (s : State) : (storeInbound m s).desk.messages = s.desk.messages := rfl

@[simp] theorem storeInbound_desk_inboundLost (m : InMsg) (s : State) : (storeInbound m s).desk.inboundLost = s.desk.inboundLost := rfl

@[simp] theorem storeInbound_desk_pauseSent (m : InMsg) (s : State) : (storeInbound m s).desk.pauseSent = s.desk.pauseSent := rfl

@[simp] theorem storeInbound_desk_paused (m : InMsg) (s : State) : (storeInbound m s).desk.paused = s.desk.paused := rfl

@[simp] theorem storeInbound_desk_banner (m : InMsg) (s : State) : (storeInbound m s).desk.banner = s.desk.banner := rfl

@[simp] theorem storeInbound_desk_refresh (m : InMsg) (s : State) : (storeInbound m s).desk.refresh = s.desk.refresh := rfl

/-! ### holdAfterStore -/

@[simp] theorem holdAfterStore_pending (s : State) : (holdAfterStore s).pending = s.pending := by
  unfold holdAfterStore; split <;> simp

@[simp] theorem holdAfterStore_tp (s : State) : (holdAfterStore s).tp = s.tp := by
  unfold holdAfterStore; split <;> simp

@[simp] theorem holdAfterStore_form (s : State) : (holdAfterStore s).form = s.form := by
  unfold holdAfterStore; split <;> simp

@[simp] theorem holdAfterStore_cur (s : State) : (holdAfterStore s).cur = s.cur := by
  unfold holdAfterStore; split <;> simp

@[simp] theorem holdAfterStore_key (s : State) : (holdAfterStore s).key = s.key := by
  unfold holdAfterStore; split <;> simp

@[simp] theorem holdAfterStore_comp (s : State) : (holdAfterStore s).comp = s.comp := by
  unfold holdAfterStore; split <;> simp

@[simp] theorem holdAfterStore_send (s : State) : (holdAfterStore s).send = s.send := by
  unfold holdAfterStore; split <;> simp

@[simp] theorem holdAfterStore_line_station (s : State) : (holdAfterStore s).line.station = s.line.station := by
  unfold holdAfterStore; split <;> simp

@[simp] theorem holdAfterStore_line_listenOnly (s : State) : (holdAfterStore s).line.listenOnly = s.line.listenOnly := by
  unfold holdAfterStore; split <;> simp

@[simp] theorem holdAfterStore_line_fifo (s : State) : (holdAfterStore s).line.fifo = s.line.fifo := by
  unfold holdAfterStore; split <;> simp

@[simp] theorem holdAfterStore_line_rxState (s : State) : (holdAfterStore s).line.rxState = s.line.rxState := by
  unfold holdAfterStore; split <;> simp

@[simp] theorem holdAfterStore_line_handoff (s : State) : (holdAfterStore s).line.handoff = s.line.handoff := by
  unfold holdAfterStore; split <;> simp

@[simp] theorem holdAfterStore_line_joined (s : State) : (holdAfterStore s).line.joined = s.line.joined := by
  unfold holdAfterStore; split <;> simp

@[simp] theorem holdAfterStore_line_tx (s : State) : (holdAfterStore s).line.tx = s.line.tx := by
  unfold holdAfterStore; split <;> simp

@[simp] theorem holdAfterStore_line_selection (s : State) : (holdAfterStore s).line.selection = s.line.selection := by
  unfold holdAfterStore; split <;> simp

@[simp] theorem holdAfterStore_line_flags (s : State) : (holdAfterStore s).line.flags = s.line.flags := by
  unfold holdAfterStore; split <;> simp

@[simp] theorem holdAfterStore_line_loopback (s : State) : (holdAfterStore s).line.loopback = s.line.loopback := by
  unfold holdAfterStore; split <;> simp

@[simp] theorem holdAfterStore_desk_table (s : State) : (holdAfterStore s).desk.table = s.desk.table := by
  unfold holdAfterStore; split <;> simp

@[simp] theorem holdAfterStore_desk_active (s : State) : (holdAfterStore s).desk.active = s.desk.active := by
  unfold holdAfterStore; split <;> simp

@[simp] theorem holdAfterStore_desk_tallies (s : State) : (holdAfterStore s).desk.tallies = s.desk.tallies := by
  unfold holdAfterStore; split <;> simp

@[simp] theorem holdAfterStore_desk_greet (s : State) : (holdAfterStore s).desk.greet = s.desk.greet := by
  unfold holdAfterStore; split <;> simp

@[simp] theorem holdAfterStore_desk_messages (s : State) : (holdAfterStore s).desk.messages = s.desk.messages := by
  unfold holdAfterStore; split <;> simp

@[simp] theorem holdAfterStore_desk_inbound (s : State) : (holdAfterStore s).desk.inbound = s.desk.inbound := by
  unfold holdAfterStore; split <;> simp

@[simp] theorem holdAfterStore_desk_inboundLost (s : State) : (holdAfterStore s).desk.inboundLost = s.desk.inboundLost := by
  unfold holdAfterStore; split <;> simp

@[simp] theorem holdAfterStore_desk_paused (s : State) : (holdAfterStore s).desk.paused = s.desk.paused := by
  unfold holdAfterStore; split <;> simp

@[simp] theorem holdAfterStore_desk_banner (s : State) : (holdAfterStore s).desk.banner = s.desk.banner := by
  unfold holdAfterStore; split <;> simp

@[simp] theorem holdAfterStore_desk_refresh (s : State) : (holdAfterStore s).desk.refresh = s.desk.refresh := by
  unfold holdAfterStore; split <;> simp

/-! ### deliver -/

@[simp] theorem deliver_pending (m : InMsg) (s : State) : (deliver m s).pending = s.pending := by
  unfold deliver; split <;> simp

@[simp] theorem deliver_tp (m : InMsg) (s : State) : (deliver m s).tp = s.tp := by
  unfold deliver; split <;> simp

@[simp] theorem deliver_form (m : InMsg) (s : State) : (deliver m s).form = s.form := by
  unfold deliver; split <;> simp

@[simp] theorem deliver_cur (m : InMsg) (s : State) : (deliver m s).cur = s.cur := by
  unfold deliver; split <;> simp

@[simp] theorem deliver_key (m : InMsg) (s : State) : (deliver m s).key = s.key := by
  unfold deliver; split <;> simp

@[simp] theorem deliver_comp (m : InMsg) (s : State) : (deliver m s).comp = s.comp := by
  unfold deliver; split <;> simp

@[simp] theorem deliver_send (m : InMsg) (s : State) : (deliver m s).send = s.send := by
  unfold deliver; split <;> simp

@[simp] theorem deliver_line_station (m : InMsg) (s : State) : (deliver m s).line.station = s.line.station := by
  unfold deliver; split <;> simp

@[simp] theorem deliver_line_listenOnly (m : InMsg) (s : State) : (deliver m s).line.listenOnly = s.line.listenOnly := by
  unfold deliver; split <;> simp

@[simp] theorem deliver_line_fifo (m : InMsg) (s : State) : (deliver m s).line.fifo = s.line.fifo := by
  unfold deliver; split <;> simp

@[simp] theorem deliver_line_rxState (m : InMsg) (s : State) : (deliver m s).line.rxState = s.line.rxState := by
  unfold deliver; split <;> simp

@[simp] theorem deliver_line_handoff (m : InMsg) (s : State) : (deliver m s).line.handoff = s.line.handoff := by
  unfold deliver; split <;> simp

@[simp] theorem deliver_line_joined (m : InMsg) (s : State) : (deliver m s).line.joined = s.line.joined := by
  unfold deliver; split <;> simp

@[simp] theorem deliver_line_tx (m : InMsg) (s : State) : (deliver m s).line.tx = s.line.tx := by
  unfold deliver; split <;> simp

@[simp] theorem deliver_line_selection (m : InMsg) (s : State) : (deliver m s).line.selection = s.line.selection := by
  unfold deliver; split <;> simp

@[simp] theorem deliver_line_flags (m : InMsg) (s : State) : (deliver m s).line.flags = s.line.flags := by
  unfold deliver; split <;> simp

@[simp] theorem deliver_line_loopback (m : InMsg) (s : State) : (deliver m s).line.loopback = s.line.loopback := by
  unfold deliver; split <;> simp

@[simp] theorem deliver_desk_table (m : InMsg) (s : State) : (deliver m s).desk.table = s.desk.table := by
  unfold deliver; split <;> simp

@[simp] theorem deliver_desk_active (m : InMsg) (s : State) : (deliver m s).desk.active = s.desk.active := by
  unfold deliver; split <;> simp

@[simp] theorem deliver_desk_tallies (m : InMsg) (s : State) : (deliver m s).desk.tallies = s.desk.tallies := by
  unfold deliver; split <;> simp

@[simp] theorem deliver_desk_greet (m : InMsg) (s : State) : (deliver m s).desk.greet = s.desk.greet := by
  unfold deliver; split <;> simp

@[simp] theorem deliver_desk_messages (m : InMsg) (s : State) : (deliver m s).desk.messages = s.desk.messages := by
  unfold deliver; split <;> simp

@[simp] theorem deliver_desk_paused (m : InMsg) (s : State) : (deliver m s).desk.paused = s.desk.paused := by
  unfold deliver; split <;> simp

@[simp] theorem deliver_desk_banner (m : InMsg) (s : State) : (deliver m s).desk.banner = s.desk.banner := by
  unfold deliver; split <;> simp

@[simp] theorem deliver_desk_refresh (m : InMsg) (s : State) : (deliver m s).desk.refresh = s.desk.refresh := by
  unfold deliver; split <;> simp

/-! ### queueMessage -/

@[simp] theorem queueMessage_pending (m : OutMsg) (s : State) : (queueMessage m s).pending = s.pending := rfl

@[simp] theorem queueMessage_tp (m : OutMsg) (s : State) : (queueMessage m s).tp = s.tp := rfl

@[simp] theorem queueMessage_form (m : OutMsg) (s : State) : (queueMessage m s).form = s.form := rfl

@[simp] theorem queueMessage_cur (m : OutMsg) (s : State) : (queueMessage m s).cur = s.cur := rfl

@[simp] theorem queueMessage_key (m : OutMsg) (s : State) : (queueMessage m s).key = s.key := rfl

@[simp] theorem queueMessage_comp (m : OutMsg) (s : State) : (queueMessage m s).comp = s.comp := rfl

@[simp] theorem queueMessage_send (m : OutMsg) (s : State) : (queueMessage m s).send = s.send := rfl

@[simp] theorem queueMessage_line (m : OutMsg) (s : State) : (queueMessage m s).line = s.line := rfl

@[simp] theorem queueMessage_desk_table (m : OutMsg) (s : State) : (queueMessage m s).desk.table = s.desk.table := rfl

@[simp] theorem queueMessage_desk_active (m : OutMsg) (s : State) : (queueMessage m s).desk.active = s.desk.active := rfl

@[simp] theorem queueMessage_desk_tallies (m : OutMsg) (s : State) : (queueMessage m s).desk.tallies = s.desk.tallies := rfl

@[simp] theorem queueMessage_desk_greet (m : OutMsg) (s : State) : (queueMessage m s).desk.greet = s.desk.greet := rfl

@[simp] theorem queueMessage_desk_flow (m : OutMsg) (s : State) : (queueMessage m s).desk.flow = s.desk.flow := rfl

@[simp] theorem queueMessage_desk_inbound (m : OutMsg) (s : State) : (queueMessage m s).desk.inbound = s.desk.inbound := rfl

@[simp] theorem queueMessage_desk_inboundLost (m : OutMsg) (s : State) : (queueMessage m s).desk.inboundLost = s.desk.inboundLost := rfl

@[simp] theorem queueMessage_desk_pauseSent (m : OutMsg) (s : State) : (queueMessage m s).desk.pauseSent = s.desk.pauseSent := rfl

@[simp] theorem queueMessage_desk_paused (m : OutMsg) (s : State) : (queueMessage m s).desk.paused = s.desk.paused := rfl

@[simp] theorem queueMessage_desk_banner (m : OutMsg) (s : State) : (queueMessage m s).desk.banner = s.desk.banner := rfl

@[simp] theorem queueMessage_desk_refresh (m : OutMsg) (s : State) : (queueMessage m s).desk.refresh = s.desk.refresh := rfl

/-! ### holdAfterRemove -/

@[simp] theorem holdAfterRemove_pending (s : State) : (holdAfterRemove s).pending = s.pending := by
  unfold holdAfterRemove; split <;> simp

@[simp] theorem holdAfterRemove_tp (s : State) : (holdAfterRemove s).tp = s.tp := by
  unfold holdAfterRemove; split <;> simp

@[simp] theorem holdAfterRemove_form (s : State) : (holdAfterRemove s).form = s.form := by
  unfold holdAfterRemove; split <;> simp

@[simp] theorem holdAfterRemove_cur (s : State) : (holdAfterRemove s).cur = s.cur := by
  unfold holdAfterRemove; split <;> simp

@[simp] theorem holdAfterRemove_key (s : State) : (holdAfterRemove s).key = s.key := by
  unfold holdAfterRemove; split <;> simp

@[simp] theorem holdAfterRemove_comp (s : State) : (holdAfterRemove s).comp = s.comp := by
  unfold holdAfterRemove; split <;> simp

@[simp] theorem holdAfterRemove_send (s : State) : (holdAfterRemove s).send = s.send := by
  unfold holdAfterRemove; split <;> simp

@[simp] theorem holdAfterRemove_line_station (s : State) : (holdAfterRemove s).line.station = s.line.station := by
  unfold holdAfterRemove; split <;> simp

@[simp] theorem holdAfterRemove_line_listenOnly (s : State) : (holdAfterRemove s).line.listenOnly = s.line.listenOnly := by
  unfold holdAfterRemove; split <;> simp

@[simp] theorem holdAfterRemove_line_fifo (s : State) : (holdAfterRemove s).line.fifo = s.line.fifo := by
  unfold holdAfterRemove; split <;> simp

@[simp] theorem holdAfterRemove_line_rxState (s : State) : (holdAfterRemove s).line.rxState = s.line.rxState := by
  unfold holdAfterRemove; split <;> simp

@[simp] theorem holdAfterRemove_line_handoff (s : State) : (holdAfterRemove s).line.handoff = s.line.handoff := by
  unfold holdAfterRemove; split <;> simp

@[simp] theorem holdAfterRemove_line_joined (s : State) : (holdAfterRemove s).line.joined = s.line.joined := by
  unfold holdAfterRemove; split <;> simp

@[simp] theorem holdAfterRemove_line_tx (s : State) : (holdAfterRemove s).line.tx = s.line.tx := by
  unfold holdAfterRemove; split <;> simp

@[simp] theorem holdAfterRemove_line_selection (s : State) : (holdAfterRemove s).line.selection = s.line.selection := by
  unfold holdAfterRemove; split <;> simp

@[simp] theorem holdAfterRemove_line_flags (s : State) : (holdAfterRemove s).line.flags = s.line.flags := by
  unfold holdAfterRemove; split <;> simp

@[simp] theorem holdAfterRemove_line_loopback (s : State) : (holdAfterRemove s).line.loopback = s.line.loopback := by
  unfold holdAfterRemove; split <;> simp

@[simp] theorem holdAfterRemove_desk_table (s : State) : (holdAfterRemove s).desk.table = s.desk.table := by
  unfold holdAfterRemove; split <;> simp

@[simp] theorem holdAfterRemove_desk_active (s : State) : (holdAfterRemove s).desk.active = s.desk.active := by
  unfold holdAfterRemove; split <;> simp

@[simp] theorem holdAfterRemove_desk_tallies (s : State) : (holdAfterRemove s).desk.tallies = s.desk.tallies := by
  unfold holdAfterRemove; split <;> simp

@[simp] theorem holdAfterRemove_desk_greet (s : State) : (holdAfterRemove s).desk.greet = s.desk.greet := by
  unfold holdAfterRemove; split <;> simp

@[simp] theorem holdAfterRemove_desk_messages (s : State) : (holdAfterRemove s).desk.messages = s.desk.messages := by
  unfold holdAfterRemove; split <;> simp

@[simp] theorem holdAfterRemove_desk_inbound (s : State) : (holdAfterRemove s).desk.inbound = s.desk.inbound := by
  unfold holdAfterRemove; split <;> simp

@[simp] theorem holdAfterRemove_desk_inboundLost (s : State) : (holdAfterRemove s).desk.inboundLost = s.desk.inboundLost := by
  unfold holdAfterRemove; split <;> simp

@[simp] theorem holdAfterRemove_desk_paused (s : State) : (holdAfterRemove s).desk.paused = s.desk.paused := by
  unfold holdAfterRemove; split <;> simp

@[simp] theorem holdAfterRemove_desk_banner (s : State) : (holdAfterRemove s).desk.banner = s.desk.banner := by
  unfold holdAfterRemove; split <;> simp

@[simp] theorem holdAfterRemove_desk_refresh (s : State) : (holdAfterRemove s).desk.refresh = s.desk.refresh := by
  unfold holdAfterRemove; split <;> simp

/-! ### removeInbound -/

@[simp] theorem removeInbound_pending (s : State) : (removeInbound s).pending = s.pending := by
  unfold removeInbound; split <;> simp

@[simp] theorem removeInbound_tp (s : State) : (removeInbound s).tp = s.tp := by
  unfold removeInbound; split <;> simp

@[simp] theorem removeInbound_form (s : State) : (removeInbound s).form = s.form := by
  unfold removeInbound; split <;> simp

@[simp] theorem removeInbound_cur (s : State) : (removeInbound s).cur = s.cur := by
  unfold removeInbound; split <;> simp

@[simp] theorem removeInbound_key (s : State) : (removeInbound s).key = s.key := by
  unfold removeInbound; split <;> simp

@[simp] theorem removeInbound_comp (s : State) : (removeInbound s).comp = s.comp := by
  unfold removeInbound; split <;> simp

@[simp] theorem removeInbound_send (s : State) : (removeInbound s).send = s.send := by
  unfold removeInbound; split <;> simp

@[simp] theorem removeInbound_line_station (s : State) : (removeInbound s).line.station = s.line.station := by
  unfold removeInbound; split <;> simp

@[simp] theorem removeInbound_line_listenOnly (s : State) : (removeInbound s).line.listenOnly = s.line.listenOnly := by
  unfold removeInbound; split <;> simp

@[simp] theorem removeInbound_line_fifo (s : State) : (removeInbound s).line.fifo = s.line.fifo := by
  unfold removeInbound; split <;> simp

@[simp] theorem removeInbound_line_rxState (s : State) : (removeInbound s).line.rxState = s.line.rxState := by
  unfold removeInbound; split <;> simp

@[simp] theorem removeInbound_line_handoff (s : State) : (removeInbound s).line.handoff = s.line.handoff := by
  unfold removeInbound; split <;> simp

@[simp] theorem removeInbound_line_joined (s : State) : (removeInbound s).line.joined = s.line.joined := by
  unfold removeInbound; split <;> simp

@[simp] theorem removeInbound_line_tx (s : State) : (removeInbound s).line.tx = s.line.tx := by
  unfold removeInbound; split <;> simp

@[simp] theorem removeInbound_line_selection (s : State) : (removeInbound s).line.selection = s.line.selection := by
  unfold removeInbound; split <;> simp

@[simp] theorem removeInbound_line_flags (s : State) : (removeInbound s).line.flags = s.line.flags := by
  unfold removeInbound; split <;> simp

@[simp] theorem removeInbound_line_loopback (s : State) : (removeInbound s).line.loopback = s.line.loopback := by
  unfold removeInbound; split <;> simp

@[simp] theorem removeInbound_desk_table (s : State) : (removeInbound s).desk.table = s.desk.table := by
  unfold removeInbound; split <;> simp

@[simp] theorem removeInbound_desk_active (s : State) : (removeInbound s).desk.active = s.desk.active := by
  unfold removeInbound; split <;> simp

@[simp] theorem removeInbound_desk_tallies (s : State) : (removeInbound s).desk.tallies = s.desk.tallies := by
  unfold removeInbound; split <;> simp

@[simp] theorem removeInbound_desk_greet (s : State) : (removeInbound s).desk.greet = s.desk.greet := by
  unfold removeInbound; split <;> simp

@[simp] theorem removeInbound_desk_messages (s : State) : (removeInbound s).desk.messages = s.desk.messages := by
  unfold removeInbound; split <;> simp

@[simp] theorem removeInbound_desk_inboundLost (s : State) : (removeInbound s).desk.inboundLost = s.desk.inboundLost := by
  unfold removeInbound; split <;> simp

@[simp] theorem removeInbound_desk_paused (s : State) : (removeInbound s).desk.paused = s.desk.paused := by
  unfold removeInbound; split <;> simp

@[simp] theorem removeInbound_desk_banner (s : State) : (removeInbound s).desk.banner = s.desk.banner := by
  unfold removeInbound; split <;> simp

@[simp] theorem removeInbound_desk_refresh (s : State) : (removeInbound s).desk.refresh = s.desk.refresh := by
  unfold removeInbound; split <;> simp

/-! ### clearLink -/

@[simp] theorem clearLink_pending (b : Byte) (s : State) : (clearLink b s).pending = s.pending := by
  unfold clearLink; split <;> rfl

@[simp] theorem clearLink_tp (b : Byte) (s : State) : (clearLink b s).tp = s.tp := by
  unfold clearLink; split <;> rfl

@[simp] theorem clearLink_form (b : Byte) (s : State) : (clearLink b s).form = s.form := by
  unfold clearLink; split <;> rfl

@[simp] theorem clearLink_cur (b : Byte) (s : State) : (clearLink b s).cur = s.cur := by
  unfold clearLink; split <;> rfl

@[simp] theorem clearLink_key (b : Byte) (s : State) : (clearLink b s).key = s.key := by
  unfold clearLink; split <;> rfl

@[simp] theorem clearLink_comp (b : Byte) (s : State) : (clearLink b s).comp = s.comp := by
  unfold clearLink; split <;> rfl

@[simp] theorem clearLink_send (b : Byte) (s : State) : (clearLink b s).send = s.send := by
  unfold clearLink; split <;> rfl

@[simp] theorem clearLink_line_station (b : Byte) (s : State) : (clearLink b s).line.station = s.line.station := by
  unfold clearLink; split <;> rfl

@[simp] theorem clearLink_line_listenOnly (b : Byte) (s : State) : (clearLink b s).line.listenOnly = s.line.listenOnly := by
  unfold clearLink; split <;> rfl

@[simp] theorem clearLink_line_fifo (b : Byte) (s : State) : (clearLink b s).line.fifo = s.line.fifo := by
  unfold clearLink; split <;> rfl

@[simp] theorem clearLink_line_rxState (b : Byte) (s : State) : (clearLink b s).line.rxState = s.line.rxState := by
  unfold clearLink; split <;> rfl

@[simp] theorem clearLink_line_handoff (b : Byte) (s : State) : (clearLink b s).line.handoff = s.line.handoff := by
  unfold clearLink; split <;> rfl

@[simp] theorem clearLink_line_joined (b : Byte) (s : State) : (clearLink b s).line.joined = s.line.joined := by
  unfold clearLink; split <;> rfl

@[simp] theorem clearLink_line_tx (b : Byte) (s : State) : (clearLink b s).line.tx = s.line.tx := by
  unfold clearLink; split <;> rfl

@[simp] theorem clearLink_line_selection (b : Byte) (s : State) : (clearLink b s).line.selection = s.line.selection := by
  unfold clearLink; split <;> rfl

@[simp] theorem clearLink_line_loopback (b : Byte) (s : State) : (clearLink b s).line.loopback = s.line.loopback := by
  unfold clearLink; split <;> rfl

@[simp] theorem clearLink_desk (b : Byte) (s : State) : (clearLink b s).desk = s.desk := by
  unfold clearLink; split <;> rfl

/-! ### refreshAll -/

@[simp] theorem refreshAll_pending (s : State) : (refreshAll s).pending = s.pending := by
  simp [refreshAll]

@[simp] theorem refreshAll_tp (s : State) : (refreshAll s).tp = s.tp := by
  simp [refreshAll]

@[simp] theorem refreshAll_form (s : State) : (refreshAll s).form = s.form := by
  simp [refreshAll]

@[simp] theorem refreshAll_cur (s : State) : (refreshAll s).cur = s.cur := by
  simp [refreshAll]

@[simp] theorem refreshAll_key (s : State) : (refreshAll s).key = s.key := by
  simp [refreshAll]

@[simp] theorem refreshAll_comp (s : State) : (refreshAll s).comp = s.comp := by
  simp [refreshAll]

@[simp] theorem refreshAll_send (s : State) : (refreshAll s).send = s.send := by
  simp [refreshAll]

@[simp] theorem refreshAll_line_station (s : State) : (refreshAll s).line.station = s.line.station := by
  simp [refreshAll]

@[simp] theorem refreshAll_line_listenOnly (s : State) : (refreshAll s).line.listenOnly = s.line.listenOnly := by
  simp [refreshAll]

@[simp] theorem refreshAll_line_fifo (s : State) : (refreshAll s).line.fifo = s.line.fifo := by
  simp [refreshAll]

@[simp] theorem refreshAll_line_rxState (s : State) : (refreshAll s).line.rxState = s.line.rxState := by
  simp [refreshAll]

@[simp] theorem refreshAll_line_handoff (s : State) : (refreshAll s).line.handoff = s.line.handoff := by
  simp [refreshAll]

@[simp] theorem refreshAll_line_joined (s : State) : (refreshAll s).line.joined = s.line.joined := by
  simp [refreshAll]

@[simp] theorem refreshAll_line_tx (s : State) : (refreshAll s).line.tx = s.line.tx := by
  simp [refreshAll]

@[simp] theorem refreshAll_line_selection (s : State) : (refreshAll s).line.selection = s.line.selection := by
  simp [refreshAll]

@[simp] theorem refreshAll_line_flags (s : State) : (refreshAll s).line.flags = s.line.flags := by
  simp [refreshAll]

@[simp] theorem refreshAll_line_loopback (s : State) : (refreshAll s).line.loopback = s.line.loopback := by
  simp [refreshAll]

@[simp] theorem refreshAll_desk_table (s : State) : (refreshAll s).desk.table = s.desk.table := by
  simp [refreshAll]

@[simp] theorem refreshAll_desk_active (s : State) : (refreshAll s).desk.active = s.desk.active := by
  simp [refreshAll]

@[simp] theorem refreshAll_desk_greet (s : State) : (refreshAll s).desk.greet = s.desk.greet := by
  simp [refreshAll]

@[simp] theorem refreshAll_desk_flow (s : State) : (refreshAll s).desk.flow = s.desk.flow := by
  simp [refreshAll]

@[simp] theorem refreshAll_desk_messages (s : State) : (refreshAll s).desk.messages = s.desk.messages := by
  simp [refreshAll]

@[simp] theorem refreshAll_desk_inbound (s : State) : (refreshAll s).desk.inbound = s.desk.inbound := by
  simp [refreshAll]

@[simp] theorem refreshAll_desk_inboundLost (s : State) : (refreshAll s).desk.inboundLost = s.desk.inboundLost := by
  simp [refreshAll]

@[simp] theorem refreshAll_desk_pauseSent (s : State) : (refreshAll s).desk.pauseSent = s.desk.pauseSent := by
  simp [refreshAll]

@[simp] theorem refreshAll_desk_paused (s : State) : (refreshAll s).desk.paused = s.desk.paused := by
  simp [refreshAll]

@[simp] theorem refreshAll_desk_banner (s : State) : (refreshAll s).desk.banner = s.desk.banner := by
  simp [refreshAll]

/-! ### tickRefresh -/

@[simp] theorem tickRefresh_pending (s : State) : (tickRefresh s).pending = s.pending := by
  unfold tickRefresh; split <;> simp

@[simp] theorem tickRefresh_tp (s : State) : (tickRefresh s).tp = s.tp := by
  unfold tickRefresh; split <;> simp

@[simp] theorem tickRefresh_form (s : State) : (tickRefresh s).form = s.form := by
  unfold tickRefresh; split <;> simp

@[simp] theorem tickRefresh_cur (s : State) : (tickRefresh s).cur = s.cur := by
  unfold tickRefresh; split <;> simp

@[simp] theorem tickRefresh_key (s : State) : (tickRefresh s).key = s.key := by
  unfold tickRefresh; split <;> simp

@[simp] theorem tickRefresh_comp (s : State) : (tickRefresh s).comp = s.comp := by
  unfold tickRefresh; split <;> simp

@[simp] theorem tickRefresh_send (s : State) : (tickRefresh s).send = s.send := by
  unfold tickRefresh; split <;> simp

@[simp] theorem tickRefresh_line_station (s : State) : (tickRefresh s).line.station = s.line.station := by
  unfold tickRefresh; split <;> simp

@[simp] theorem tickRefresh_line_listenOnly (s : State) : (tickRefresh s).line.listenOnly = s.line.listenOnly := by
  unfold tickRefresh; split <;> simp

@[simp] theorem tickRefresh_line_fifo (s : State) : (tickRefresh s).line.fifo = s.line.fifo := by
  unfold tickRefresh; split <;> simp

@[simp] theorem tickRefresh_line_rxState (s : State) : (tickRefresh s).line.rxState = s.line.rxState := by
  unfold tickRefresh; split <;> simp

@[simp] theorem tickRefresh_line_handoff (s : State) : (tickRefresh s).line.handoff = s.line.handoff := by
  unfold tickRefresh; split <;> simp

@[simp] theorem tickRefresh_line_joined (s : State) : (tickRefresh s).line.joined = s.line.joined := by
  unfold tickRefresh; split <;> simp

@[simp] theorem tickRefresh_line_tx (s : State) : (tickRefresh s).line.tx = s.line.tx := by
  unfold tickRefresh; split <;> simp

@[simp] theorem tickRefresh_line_selection (s : State) : (tickRefresh s).line.selection = s.line.selection := by
  unfold tickRefresh; split <;> simp

@[simp] theorem tickRefresh_line_flags (s : State) : (tickRefresh s).line.flags = s.line.flags := by
  unfold tickRefresh; split <;> simp

@[simp] theorem tickRefresh_line_loopback (s : State) : (tickRefresh s).line.loopback = s.line.loopback := by
  unfold tickRefresh; split <;> simp

@[simp] theorem tickRefresh_desk_table (s : State) : (tickRefresh s).desk.table = s.desk.table := by
  unfold tickRefresh; split <;> simp

@[simp] theorem tickRefresh_desk_active (s : State) : (tickRefresh s).desk.active = s.desk.active := by
  unfold tickRefresh; split <;> simp

@[simp] theorem tickRefresh_desk_greet (s : State) : (tickRefresh s).desk.greet = s.desk.greet := by
  unfold tickRefresh; split <;> simp

@[simp] theorem tickRefresh_desk_flow (s : State) : (tickRefresh s).desk.flow = s.desk.flow := by
  unfold tickRefresh; split <;> simp

@[simp] theorem tickRefresh_desk_messages (s : State) : (tickRefresh s).desk.messages = s.desk.messages := by
  unfold tickRefresh; split <;> simp

@[simp] theorem tickRefresh_desk_inbound (s : State) : (tickRefresh s).desk.inbound = s.desk.inbound := by
  unfold tickRefresh; split <;> simp

@[simp] theorem tickRefresh_desk_inboundLost (s : State) : (tickRefresh s).desk.inboundLost = s.desk.inboundLost := by
  unfold tickRefresh; split <;> simp

@[simp] theorem tickRefresh_desk_pauseSent (s : State) : (tickRefresh s).desk.pauseSent = s.desk.pauseSent := by
  unfold tickRefresh; split <;> simp

@[simp] theorem tickRefresh_desk_paused (s : State) : (tickRefresh s).desk.paused = s.desk.paused := by
  unfold tickRefresh; split <;> simp

@[simp] theorem tickRefresh_desk_banner (s : State) : (tickRefresh s).desk.banner = s.desk.banner := by
  unfold tickRefresh; split <;> simp

/-! ### tickPause -/

@[simp] theorem tickPause_pending (s : State) : (tickPause s).pending = s.pending := by
  unfold tickPause; split <;> simp

@[simp] theorem tickPause_tp (s : State) : (tickPause s).tp = s.tp := by
  unfold tickPause; split <;> simp

@[simp] theorem tickPause_form (s : State) : (tickPause s).form = s.form := by
  unfold tickPause; split <;> simp

@[simp] theorem tickPause_cur (s : State) : (tickPause s).cur = s.cur := by
  unfold tickPause; split <;> simp

@[simp] theorem tickPause_key (s : State) : (tickPause s).key = s.key := by
  unfold tickPause; split <;> simp

@[simp] theorem tickPause_comp (s : State) : (tickPause s).comp = s.comp := by
  unfold tickPause; split <;> simp

@[simp] theorem tickPause_send (s : State) : (tickPause s).send = s.send := by
  unfold tickPause; split <;> simp

@[simp] theorem tickPause_line_station (s : State) : (tickPause s).line.station = s.line.station := by
  unfold tickPause; split <;> simp

@[simp] theorem tickPause_line_listenOnly (s : State) : (tickPause s).line.listenOnly = s.line.listenOnly := by
  unfold tickPause; split <;> simp

@[simp] theorem tickPause_line_fifo (s : State) : (tickPause s).line.fifo = s.line.fifo := by
  unfold tickPause; split <;> simp

@[simp] theorem tickPause_line_rxState (s : State) : (tickPause s).line.rxState = s.line.rxState := by
  unfold tickPause; split <;> simp

@[simp] theorem tickPause_line_handoff (s : State) : (tickPause s).line.handoff = s.line.handoff := by
  unfold tickPause; split <;> simp

@[simp] theorem tickPause_line_joined (s : State) : (tickPause s).line.joined = s.line.joined := by
  unfold tickPause; split <;> simp

@[simp] theorem tickPause_line_tx (s : State) : (tickPause s).line.tx = s.line.tx := by
  unfold tickPause; split <;> simp

@[simp] theorem tickPause_line_selection (s : State) : (tickPause s).line.selection = s.line.selection := by
  unfold tickPause; split <;> simp

@[simp] theorem tickPause_line_flags (s : State) : (tickPause s).line.flags = s.line.flags := by
  unfold tickPause; split <;> simp

@[simp] theorem tickPause_line_loopback (s : State) : (tickPause s).line.loopback = s.line.loopback := by
  unfold tickPause; split <;> simp

@[simp] theorem tickPause_desk_table (s : State) : (tickPause s).desk.table = s.desk.table := by
  unfold tickPause; split <;> simp

@[simp] theorem tickPause_desk_active (s : State) : (tickPause s).desk.active = s.desk.active := by
  unfold tickPause; split <;> simp

@[simp] theorem tickPause_desk_tallies (s : State) : (tickPause s).desk.tallies = s.desk.tallies := by
  unfold tickPause; split <;> simp

@[simp] theorem tickPause_desk_greet (s : State) : (tickPause s).desk.greet = s.desk.greet := by
  unfold tickPause; split <;> simp

@[simp] theorem tickPause_desk_messages (s : State) : (tickPause s).desk.messages = s.desk.messages := by
  unfold tickPause; split <;> simp

@[simp] theorem tickPause_desk_inbound (s : State) : (tickPause s).desk.inbound = s.desk.inbound := by
  unfold tickPause; split <;> simp

@[simp] theorem tickPause_desk_inboundLost (s : State) : (tickPause s).desk.inboundLost = s.desk.inboundLost := by
  unfold tickPause; split <;> simp

@[simp] theorem tickPause_desk_pauseSent (s : State) : (tickPause s).desk.pauseSent = s.desk.pauseSent := by
  unfold tickPause; split <;> simp

@[simp] theorem tickPause_desk_paused (s : State) : (tickPause s).desk.paused = s.desk.paused := by
  unfold tickPause; split <;> simp

@[simp] theorem tickPause_desk_banner (s : State) : (tickPause s).desk.banner = s.desk.banner := by
  unfold tickPause; split <;> simp

@[simp] theorem tickPause_desk_refresh (s : State) : (tickPause s).desk.refresh = s.desk.refresh := by
  unfold tickPause; split <;> simp

/-! ### dropBanner -/

@[simp] theorem dropBanner_pending (s : State) : (dropBanner s).pending = s.pending := by
  simp [dropBanner]

@[simp] theorem dropBanner_tp (s : State) : (dropBanner s).tp = s.tp := by
  simp [dropBanner]

@[simp] theorem dropBanner_form (s : State) : (dropBanner s).form = s.form := by
  simp [dropBanner]

@[simp] theorem dropBanner_cur (s : State) : (dropBanner s).cur = s.cur := by
  simp [dropBanner]

@[simp] theorem dropBanner_key (s : State) : (dropBanner s).key = s.key := by
  simp [dropBanner]

@[simp] theorem dropBanner_comp_image (s : State) : (dropBanner s).comp.image = s.comp.image := by
  simp [dropBanner]

@[simp] theorem dropBanner_comp_rendering (s : State) : (dropBanner s).comp.rendering = s.comp.rendering := by
  simp [dropBanner]

@[simp] theorem dropBanner_send (s : State) : (dropBanner s).send = s.send := by
  simp [dropBanner]

@[simp] theorem dropBanner_line (s : State) : (dropBanner s).line = s.line := by
  simp [dropBanner]

@[simp] theorem dropBanner_desk_table (s : State) : (dropBanner s).desk.table = s.desk.table := by
  simp [dropBanner]

@[simp] theorem dropBanner_desk_active (s : State) : (dropBanner s).desk.active = s.desk.active := by
  simp [dropBanner]

@[simp] theorem dropBanner_desk_tallies (s : State) : (dropBanner s).desk.tallies = s.desk.tallies := by
  simp [dropBanner]

@[simp] theorem dropBanner_desk_greet (s : State) : (dropBanner s).desk.greet = s.desk.greet := by
  simp [dropBanner]

@[simp] theorem dropBanner_desk_flow (s : State) : (dropBanner s).desk.flow = s.desk.flow := by
  simp [dropBanner]

@[simp] theorem dropBanner_desk_messages (s : State) : (dropBanner s).desk.messages = s.desk.messages := by
  simp [dropBanner]

@[simp] theorem dropBanner_desk_inbound (s : State) : (dropBanner s).desk.inbound = s.desk.inbound := by
  simp [dropBanner]

@[simp] theorem dropBanner_desk_inboundLost (s : State) : (dropBanner s).desk.inboundLost = s.desk.inboundLost := by
  simp [dropBanner]

@[simp] theorem dropBanner_desk_pauseSent (s : State) : (dropBanner s).desk.pauseSent = s.desk.pauseSent := by
  simp [dropBanner]

@[simp] theorem dropBanner_desk_paused (s : State) : (dropBanner s).desk.paused = s.desk.paused := by
  simp [dropBanner]

@[simp] theorem dropBanner_desk_refresh (s : State) : (dropBanner s).desk.refresh = s.desk.refresh := by
  simp [dropBanner]

/-! ### tickBanner -/

@[simp] theorem tickBanner_pending (s : State) : (tickBanner s).pending = s.pending := by
  unfold tickBanner; repeat' split
  all_goals simp

@[simp] theorem tickBanner_tp (s : State) : (tickBanner s).tp = s.tp := by
  unfold tickBanner; repeat' split
  all_goals simp

@[simp] theorem tickBanner_form (s : State) : (tickBanner s).form = s.form := by
  unfold tickBanner; repeat' split
  all_goals simp

@[simp] theorem tickBanner_cur (s : State) : (tickBanner s).cur = s.cur := by
  unfold tickBanner; repeat' split
  all_goals simp

@[simp] theorem tickBanner_key (s : State) : (tickBanner s).key = s.key := by
  unfold tickBanner; repeat' split
  all_goals simp

@[simp] theorem tickBanner_comp_image (s : State) : (tickBanner s).comp.image = s.comp.image := by
  unfold tickBanner; repeat' split
  all_goals simp

@[simp] theorem tickBanner_comp_rendering (s : State) : (tickBanner s).comp.rendering = s.comp.rendering := by
  unfold tickBanner; repeat' split
  all_goals simp

@[simp] theorem tickBanner_send (s : State) : (tickBanner s).send = s.send := by
  unfold tickBanner; repeat' split
  all_goals simp

@[simp] theorem tickBanner_line (s : State) : (tickBanner s).line = s.line := by
  unfold tickBanner; repeat' split
  all_goals simp

@[simp] theorem tickBanner_desk_table (s : State) : (tickBanner s).desk.table = s.desk.table := by
  unfold tickBanner; repeat' split
  all_goals simp

@[simp] theorem tickBanner_desk_active (s : State) : (tickBanner s).desk.active = s.desk.active := by
  unfold tickBanner; repeat' split
  all_goals simp

@[simp] theorem tickBanner_desk_tallies (s : State) : (tickBanner s).desk.tallies = s.desk.tallies := by
  unfold tickBanner; repeat' split
  all_goals simp

@[simp] theorem tickBanner_desk_greet (s : State) : (tickBanner s).desk.greet = s.desk.greet := by
  unfold tickBanner; repeat' split
  all_goals simp

@[simp] theorem tickBanner_desk_flow (s : State) : (tickBanner s).desk.flow = s.desk.flow := by
  unfold tickBanner; repeat' split
  all_goals simp

@[simp] theorem tickBanner_desk_messages (s : State) : (tickBanner s).desk.messages = s.desk.messages := by
  unfold tickBanner; repeat' split
  all_goals simp

@[simp] theorem tickBanner_desk_inbound (s : State) : (tickBanner s).desk.inbound = s.desk.inbound := by
  unfold tickBanner; repeat' split
  all_goals simp

@[simp] theorem tickBanner_desk_inboundLost (s : State) : (tickBanner s).desk.inboundLost = s.desk.inboundLost := by
  unfold tickBanner; repeat' split
  all_goals simp

@[simp] theorem tickBanner_desk_pauseSent (s : State) : (tickBanner s).desk.pauseSent = s.desk.pauseSent := by
  unfold tickBanner; repeat' split
  all_goals simp

@[simp] theorem tickBanner_desk_paused (s : State) : (tickBanner s).desk.paused = s.desk.paused := by
  unfold tickBanner; repeat' split
  all_goals simp

@[simp] theorem tickBanner_desk_refresh (s : State) : (tickBanner s).desk.refresh = s.desk.refresh := by
  unfold tickBanner; repeat' split
  all_goals simp

/-! ### tick -/

@[simp] theorem tick_pending (s : State) : (tick s).pending = s.pending := by
  simp [tick]

@[simp] theorem tick_tp_phase (s : State) : (tick s).tp.phase = s.tp.phase := by
  simp [tick]

@[simp] theorem tick_tp_resetnLow (s : State) : (tick s).tp.resetnLow = s.tp.resetnLow := by
  simp [tick]

@[simp] theorem tick_tp_supplySteady (s : State) : (tick s).tp.supplySteady = s.tp.supplySteady := by
  simp [tick]

@[simp] theorem tick_tp_clearing (s : State) : (tick s).tp.clearing = s.tp.clearing := by
  simp [tick]

@[simp] theorem tick_tp_decoder (s : State) : (tick s).tp.decoder = s.tp.decoder := by
  simp [tick]

@[simp] theorem tick_tp_outcome (s : State) : (tick s).tp.outcome = s.tp.outcome := by
  simp [tick]

@[simp] theorem tick_tp_stream (s : State) : (tick s).tp.stream = s.tp.stream := by
  simp [tick]

@[simp] theorem tick_form_state (s : State) : (tick s).form.state = s.form.state := by
  simp [tick]

@[simp] theorem tick_form_h (s : State) : (tick s).form.h = s.form.h := by
  simp [tick]

@[simp] theorem tick_form_w (s : State) : (tick s).form.w = s.form.w := by
  simp [tick]

@[simp] theorem tick_form_d (s : State) : (tick s).form.d = s.form.d := by
  simp [tick]

@[simp] theorem tick_form_fields (s : State) : (tick s).form.fields = s.form.fields := by
  simp [tick]

@[simp] theorem tick_form_cols (s : State) : (tick s).form.cols = s.form.cols := by
  simp [tick]

@[simp] theorem tick_form_screenPlane (s : State) : (tick s).form.screenPlane = s.form.screenPlane := by
  simp [tick]

@[simp] theorem tick_form_linePlane (s : State) : (tick s).form.linePlane = s.form.linePlane := by
  simp [tick]

@[simp] theorem tick_form_lines (s : State) : (tick s).form.lines = s.form.lines := by
  simp [tick]

@[simp] theorem tick_cur (s : State) : (tick s).cur = s.cur := by
  simp [tick]

@[simp] theorem tick_key (s : State) : (tick s).key = s.key := by
  simp [tick]

@[simp] theorem tick_comp_image (s : State) : (tick s).comp.image = s.comp.image := by
  simp [tick]

@[simp] theorem tick_comp_rendering (s : State) : (tick s).comp.rendering = s.comp.rendering := by
  simp [tick]

@[simp] theorem tick_send (s : State) : (tick s).send = s.send := by
  simp [tick]

@[simp] theorem tick_line_station (s : State) : (tick s).line.station = s.line.station := by
  simp [tick]

@[simp] theorem tick_line_listenOnly (s : State) : (tick s).line.listenOnly = s.line.listenOnly := by
  simp [tick]

@[simp] theorem tick_line_fifo (s : State) : (tick s).line.fifo = s.line.fifo := by
  simp [tick]

@[simp] theorem tick_line_rxState (s : State) : (tick s).line.rxState = s.line.rxState := by
  simp [tick]

@[simp] theorem tick_line_handoff (s : State) : (tick s).line.handoff = s.line.handoff := by
  simp [tick]

@[simp] theorem tick_line_joined (s : State) : (tick s).line.joined = s.line.joined := by
  simp [tick]

@[simp] theorem tick_line_tx (s : State) : (tick s).line.tx = s.line.tx := by
  simp [tick]

@[simp] theorem tick_line_selection (s : State) : (tick s).line.selection = s.line.selection := by
  simp [tick]

@[simp] theorem tick_line_flags (s : State) : (tick s).line.flags = s.line.flags := by
  simp [tick]

@[simp] theorem tick_line_loopback (s : State) : (tick s).line.loopback = s.line.loopback := by
  simp [tick]

@[simp] theorem tick_desk_active (s : State) : (tick s).desk.active = s.desk.active := by
  simp [tick]

@[simp] theorem tick_desk_greet (s : State) : (tick s).desk.greet = s.desk.greet := by
  simp [tick]

@[simp] theorem tick_desk_messages (s : State) : (tick s).desk.messages = s.desk.messages := by
  simp [tick]

@[simp] theorem tick_desk_inbound (s : State) : (tick s).desk.inbound = s.desk.inbound := by
  simp [tick]

@[simp] theorem tick_desk_inboundLost (s : State) : (tick s).desk.inboundLost = s.desk.inboundLost := by
  simp [tick]

@[simp] theorem tick_desk_pauseSent (s : State) : (tick s).desk.pauseSent = s.desk.pauseSent := by
  simp [tick]

/-! ### retire -/

@[simp] theorem retire_pending (s : State) : (retire s).pending = s.pending := by
  unfold retire; repeat' (first | split | dsimp only)
  all_goals rfl

@[simp] theorem retire_tp_phase (s : State) : (retire s).tp.phase = s.tp.phase := by
  unfold retire; repeat' (first | split | dsimp only)
  all_goals rfl

@[simp] theorem retire_tp_resetnLow (s : State) : (retire s).tp.resetnLow = s.tp.resetnLow := by
  unfold retire; repeat' (first | split | dsimp only)
  all_goals rfl

@[simp] theorem retire_tp_supplySteady (s : State) : (retire s).tp.supplySteady = s.tp.supplySteady := by
  unfold retire; repeat' (first | split | dsimp only)
  all_goals rfl

@[simp] theorem retire_tp_clearing (s : State) : (retire s).tp.clearing = s.tp.clearing := by
  unfold retire; repeat' (first | split | dsimp only)
  all_goals rfl

@[simp] theorem retire_tp_decoder (s : State) : (retire s).tp.decoder = s.tp.decoder := by
  unfold retire; repeat' (first | split | dsimp only)
  all_goals rfl

@[simp] theorem retire_tp_outcome (s : State) : (retire s).tp.outcome = s.tp.outcome := by
  unfold retire; repeat' (first | split | dsimp only)
  all_goals rfl

@[simp] theorem retire_tp_stream (s : State) : (retire s).tp.stream = s.tp.stream := by
  unfold retire; repeat' (first | split | dsimp only)
  all_goals rfl

@[simp] theorem retire_form (s : State) : (retire s).form = s.form := by
  unfold retire; repeat' (first | split | dsimp only)
  all_goals rfl

@[simp] theorem retire_cur (s : State) : (retire s).cur = s.cur := by
  unfold retire; repeat' (first | split | dsimp only)
  all_goals rfl

@[simp] theorem retire_key (s : State) : (retire s).key = s.key := by
  unfold retire; repeat' (first | split | dsimp only)
  all_goals rfl

@[simp] theorem retire_comp (s : State) : (retire s).comp = s.comp := by
  unfold retire; repeat' (first | split | dsimp only)
  all_goals rfl

@[simp] theorem retire_send (s : State) : (retire s).send = s.send := by
  unfold retire; repeat' (first | split | dsimp only)
  all_goals rfl

@[simp] theorem retire_line_station (s : State) : (retire s).line.station = s.line.station := by
  unfold retire; repeat' (first | split | dsimp only)
  all_goals rfl

@[simp] theorem retire_line_listenOnly (s : State) : (retire s).line.listenOnly = s.line.listenOnly := by
  unfold retire; repeat' (first | split | dsimp only)
  all_goals rfl

@[simp] theorem retire_line_fifo (s : State) : (retire s).line.fifo = s.line.fifo := by
  unfold retire; repeat' (first | split | dsimp only)
  all_goals rfl

@[simp] theorem retire_line_rxState (s : State) : (retire s).line.rxState = s.line.rxState := by
  unfold retire; repeat' (first | split | dsimp only)
  all_goals rfl

@[simp] theorem retire_line_handoff (s : State) : (retire s).line.handoff = s.line.handoff := by
  unfold retire; repeat' (first | split | dsimp only)
  all_goals rfl

@[simp] theorem retire_line_joined (s : State) : (retire s).line.joined = s.line.joined := by
  unfold retire; repeat' (first | split | dsimp only)
  all_goals rfl

@[simp] theorem retire_line_tx (s : State) : (retire s).line.tx = s.line.tx := by
  unfold retire; repeat' (first | split | dsimp only)
  all_goals rfl

@[simp] theorem retire_line_flags (s : State) : (retire s).line.flags = s.line.flags := by
  unfold retire; repeat' (first | split | dsimp only)
  all_goals rfl

@[simp] theorem retire_line_loopback (s : State) : (retire s).line.loopback = s.line.loopback := by
  unfold retire; repeat' (first | split | dsimp only)
  all_goals rfl

@[simp] theorem retire_desk_table (s : State) : (retire s).desk.table = s.desk.table := by
  unfold retire; repeat' (first | split | dsimp only)
  all_goals first | rfl | (unfold emptyPlace; split <;> rfl)

@[simp] theorem retire_desk_active (s : State) : (retire s).desk.active = s.desk.active := by
  unfold retire; repeat' (first | split | dsimp only)
  all_goals first | rfl | (unfold emptyPlace; split <;> rfl)

@[simp] theorem retire_desk_inbound (s : State) : (retire s).desk.inbound = s.desk.inbound := by
  unfold retire; repeat' (first | split | dsimp only)
  all_goals first | rfl | (unfold emptyPlace; split <;> rfl)

@[simp] theorem retire_desk_inboundLost (s : State) : (retire s).desk.inboundLost = s.desk.inboundLost := by
  unfold retire; repeat' (first | split | dsimp only)
  all_goals first | rfl | (unfold emptyPlace; split <;> rfl)

@[simp] theorem retire_desk_pauseSent (s : State) : (retire s).desk.pauseSent = s.desk.pauseSent := by
  unfold retire; repeat' (first | split | dsimp only)
  all_goals first | rfl | (unfold emptyPlace; split <;> rfl)

@[simp] theorem retire_desk_paused (s : State) : (retire s).desk.paused = s.desk.paused := by
  unfold retire; repeat' (first | split | dsimp only)
  all_goals first | rfl | (unfold emptyPlace; split <;> rfl)

@[simp] theorem retire_desk_banner (s : State) : (retire s).desk.banner = s.desk.banner := by
  unfold retire; repeat' (first | split | dsimp only)
  all_goals first | rfl | (unfold emptyPlace; split <;> rfl)

@[simp] theorem retire_desk_refresh (s : State) : (retire s).desk.refresh = s.desk.refresh := by
  unfold retire; repeat' (first | split | dsimp only)
  all_goals first | rfl | (unfold emptyPlace; split <;> rfl)

end Sys2Proof.Machine
end

