-- ==== Sys2Proof/Laws/Ops.lean ====
section
/-!
SUPPORT. For each shared operation one lemma that says everything it can do; later proofs cite these and do not unfold
the operations.
-/
namespace Sys2Proof.Machine

/-! ## Bytes at the port -/

/-- The eight edges of a byte, clocked on a byte boundary, leave the frame that byte longer and on a byte boundary. -/
theorem foldl_clockBit_portBits (b : Byte) (bytes : List Byte) :
    (portBits b).foldl clockBit ⟨bytes, []⟩ = ⟨bytes ++ [b], []⟩ := by
  have hb : portByte (portBits b) = b := by
    revert b
    decide +kernel
  have hp : portBits b = [b.getMsbD 0, b.getMsbD 1, b.getMsbD 2, b.getMsbD 3, b.getMsbD 4, b.getMsbD 5, b.getMsbD 6,
      b.getMsbD 7] := rfl
  rw [hp] at hb ⊢
  simp only [List.foldl_cons, List.foldl_nil, clockBit, List.nil_append, List.cons_append, List.length_nil, List.length_cons,
    Nat.reduceLT, Nat.reduceAdd, if_true, if_false, hb]

/-! ## The end of a command -/

/-- What the transmitter's question does: DEFER with the selection of the arbiter, or IDLE (R149). -/
theorem askArbiter_cases (s : State) :
    (∃ p, arbiter s.desk = some p ∧ askArbiter s = { s with line := { s.line with
        tx := .defer, need := accessGap s.line.station.toNat, selection := some p, taken := false } }) ∨
    (arbiter s.desk = none ∧ askArbiter s = { s with line := { s.line with
        tx := .idle, need := 0, selection := none, taken := false } }) := by
  unfold askArbiter
  split
  · next p h => exact .inl ⟨p, h, rfl⟩
  · next h => exact .inr ⟨h, rfl⟩

/-- The end of a command: a render begins, and an idle transmitter that may ask asks. -/
theorem settle_cases (s : State) :
    (mayAsk s = true ∧ settle s = askArbiter (startRender s)) ∨ (mayAsk s = false ∧ settle s = startRender s) := by
  have h : mayAsk (startRender s) = mayAsk s := rfl
  unfold settle idleAsk
  rw [h]
  cases mayAsk s <;> simp

@[simp] theorem settle_rendering (s : State) : (settle s).comp.rendering = !s.comp.items.isEmpty := by
  unfold settle idleAsk
  split
  · unfold askArbiter; split <;> rfl
  · rfl

/-- A state with no IDLE transmitter that may ask, and with its render begun, is settled. -/
theorem settle_of_quiet (s : State) (h : mayAsk s = false) :
    settle s = { s with comp := { s.comp with rendering := !s.comp.items.isEmpty } } := by
  rcases settle_cases s with ⟨h', _⟩ | ⟨_, e⟩
  · simp [h] at h'
  · exact e

/-- A command that took place answers the settled state. -/
theorem ok_eq_next {s t : State} : ok s = .next t ↔ t = settle s := by
  unfold ok
  constructor
  · intro h; cases h; rfl
  · rintro rfl; rfl

/-- An event that cannot happen leaves the state. -/
theorem noEvent_eq_next {s t : State} : noEvent s = .next t ↔ t = s := by
  unfold noEvent
  constructor
  · intro h; cases h; rfl
  · rintro rfl; rfl

/-! ## Repaint requests -/

/-- A request: the item being rendered takes the mark, an item in the list keeps its place, another joins the tail. -/
theorem requestIn_cases (c : Composer) (i : Item) :
    (c.rendering = true ∧ c.items.head? = some i ∧ requestIn c i = { c with remark := true }) ∨
    (i ∈ c.items ∧ requestIn c i = c) ∨
    (i ∉ c.items ∧ requestIn c i = { c with items := c.items ++ [i] }) := by
  unfold requestIn
  split
  · next h => exact .inl ⟨h.1, h.2, rfl⟩
  · split
    · next h => exact .inr (.inl ⟨h, rfl⟩)
    · next h => exact .inr (.inr ⟨h, rfl⟩)

@[simp] theorem request_comp (i : Item) (s : State) : (request i s).comp = requestIn s.comp i := rfl

/-- A requested item stands in the list. -/
theorem mem_requestIn (c : Composer) (i : Item) : i ∈ (requestIn c i).items := by
  rcases requestIn_cases c i with ⟨_, h, e⟩ | ⟨h, e⟩ | ⟨_, e⟩ <;> rw [e]
  · exact List.mem_of_mem_head? h
  · exact h
  · simp

/-- Requests take no item away. -/
theorem mem_requestIn_of_mem (c : Composer) (i j : Item) (h : j ∈ c.items) : j ∈ (requestIn c i).items := by
  rcases requestIn_cases c i with ⟨_, _, e⟩ | ⟨_, e⟩ | ⟨_, e⟩ <;> rw [e] <;> simp [h]

/-- Requests keep the list without repeats. -/
theorem requestIn_nodup (c : Composer) (i : Item) (h : c.items.Nodup) : (requestIn c i).items.Nodup := by
  rcases requestIn_cases c i with ⟨_, _, e⟩ | ⟨_, e⟩ | ⟨hn, e⟩ <;> rw [e]
  · exact h
  · exact h
  · exact List.nodup_append.2 ⟨h, by simp, by rintro a ha b hb rfl; simp at hb; exact hn (hb ▸ ha)⟩

/-! ## Keyboard and errors -/

@[simp] theorem setKeyboard_keyboard (k : Keyboard) (s : State) : (setKeyboard k s).key.keyboard = k := rfl
@[simp] theorem raiseError_keyboard (e : OpError) (s : State) : (raiseError e s).key.keyboard = .error := rfl
@[simp] theorem raiseError_lastError (e : OpError) (s : State) : (raiseError e s).key.lastError = some (.op e) := rfl
@[simp] theorem raiseError_alarm (e : OpError) (s : State) : (raiseError e s).key.alarm = true := rfl
@[simp] theorem raiseError_keyError (e : OpError) (s : State) : (raiseError e s).tp.edge.keyError = true := rfl
@[simp] theorem clearError_keyboard (s : State) : (clearError s).key.keyboard = .free := rfl

/-! ## Frames of orders -/

/-- An order in READY that its rule takes. -/
theorem runOrder_ok {n : Nat} {body : State → Verdict} {s t u : State} (hp : s.tp.phase = .ready)
    (hb : body (endStream (closeFrame (zeros (1 + n)) s)) = .ok t) (hu : record .done t = u) :
    runOrder n body s = .next (settle u) := by
  simp [runOrder, hp, hb, ok, hu]

/-- An order in READY that its rule refuses. -/
theorem runOrder_error {n : Nat} {body : State → Verdict} {s u : State} {o : OrderOutcome} (hp : s.tp.phase = .ready)
    (hb : body (endStream (closeFrame (zeros (1 + n)) s)) = .error o)
    (hu : record o (endStream (closeFrame (zeros (1 + n)) s)) = u) : runOrder n body s = .next u := by
  simp [runOrder, hp, hb, hu]

/-- A read order in READY whose reply is given. -/
theorem runRead_ok {k n : Nat} {reply : State → Except OrderOutcome (List Byte)} {after : State → State} {s u : State}
    {r : List Byte} (hp : s.tp.phase = .ready) (hr : reply s = .ok r)
    (hu : record .done (after (endStream (closeFrame (zeros (1 + k) ++ replyBytes n r) s))) = u) :
    runRead k n reply after s = .next (settle u) := by
  simp [runRead, hp, hr, ok, hu]

/-- A read order in READY that is refused. -/
theorem runRead_error {k n : Nat} {reply : State → Except OrderOutcome (List Byte)} {after : State → State}
    {s u : State} {o : OrderOutcome} (hp : s.tp.phase = .ready) (hr : reply s = .error o)
    (hu : record o (endStream (closeFrame (zeros (1 + k + n)) s)) = u) : runRead k n reply after s = .next u := by
  simp [runRead, hp, hr, hu]

/-- Everything the frame of an order can do (R180, R183). -/
theorem runOrder_cases {n : Nat} {body : State → Verdict} {s t : State} (h : runOrder n body s = .next t) :
    (∃ o, t = record o (endStream (closeFrame (zeros (1 + n)) s))) ∨
    (∃ u, s.tp.phase = .ready ∧ body (endStream (closeFrame (zeros (1 + n)) s)) = .ok u ∧ t = settle (record .done u)) := by
  unfold runOrder at h
  simp only at h
  split at h
  · cases h; exact .inl ⟨_, rfl⟩
  · next hp =>
    split at h
    · cases h; exact .inl ⟨_, rfl⟩
    · next u hu =>
      cases h
      refine .inr ⟨u, ?_, hu, rfl⟩
      cases hq : s.tp.phase
      · exact absurd hq hp
      · rfl

/-- Everything the frame of STREAM NEXT can do (R40, R41). -/
theorem runStreamOrder_cases {n : Nat} {body : State → Verdict} {s t : State} (h : runStreamOrder n body s = .next t) :
    (∃ o, t = record o (closeFrame (zeros (1 + n)) s)) ∨
    (∃ u, s.tp.phase = .ready ∧ body (closeFrame (zeros (1 + n)) s) = .ok u ∧ t = settle (record .done u)) := by
  unfold runStreamOrder at h
  simp only at h
  split at h
  · cases h; exact .inl ⟨_, rfl⟩
  · next hp =>
    split at h
    · cases h; exact .inl ⟨_, rfl⟩
    · next u hu =>
      cases h
      refine .inr ⟨u, ?_, hu, rfl⟩
      cases hq : s.tp.phase
      · exact absurd hq hp
      · rfl

/-- Everything the frame of a read order can do (R179, R183). -/
theorem runRead_cases {k n : Nat} {reply : State → Except OrderOutcome (List Byte)} {after : State → State}
    {s t : State} (h : runRead k n reply after s = .next t) :
    (∃ o, t = record o (endStream (closeFrame (zeros (1 + k + n)) s))) ∨
    (∃ r, s.tp.phase = .ready ∧ reply s = .ok r ∧
      t = settle (record .done (after (endStream (closeFrame (zeros (1 + k) ++ replyBytes n r) s))))) := by
  unfold runRead at h
  split at h
  · cases h; exact .inl ⟨_, rfl⟩
  · next hp =>
    split at h
    · cases h; exact .inl ⟨_, rfl⟩
    · next r hr =>
      cases h
      refine .inr ⟨r, ?_, hr, rfl⟩
      cases hq : s.tp.phase
      · exact absurd hq hp
      · rfl

/-! ## Keys -/

/-- Everything taking a key can do (R70, R88). -/
theorem takeKey_cases {k : Key} {act : Byte → State → State} {s t : State} (h : takeKey k act s = .next t) :
    t = s ∨ ∃ b q, s.key.queue = b :: q ∧ canTake s = true ∧ keyOf b = some k ∧
      ((s.key.keyboard = .error ∧ t = settle (discardKey (setQueue q s))) ∨
       (s.key.keyboard = .free ∧ t = settle (act b (setQueue q s)))) := by
  unfold takeKey at h
  split at h
  · exact .inl (noEvent_eq_next.1 h)
  · next b q hq =>
    split at h
    · next hc =>
      refine .inr ⟨b, q, hq, hc.1, hc.2, ?_⟩
      split at h
      · next he => exact .inl ⟨he, ok_eq_next.1 h⟩
      · next he =>
        refine .inr ⟨?_, ok_eq_next.1 h⟩
        have := hc.1
        simp [canTake] at this
        tauto
    · exact .inl (noEvent_eq_next.1 h)

/-- A key taken in FREE acts. -/
theorem takeKey_free {k : Key} {act : Byte → State → State} {s : State} {b : Byte} {q : List Byte}
    (hq : s.key.queue = b :: q) (hc : canTake s = true) (hk : keyOf b = some k) (hf : s.key.keyboard = .free) :
    takeKey k act s = .next (settle (act b (setQueue q s))) := by
  simp [takeKey, hq, hc, hk, hf, ok]

/-- A key taken in ERROR is discarded with an ALARM pulse (R88). -/
theorem takeKey_error {k : Key} {act : Byte → State → State} {s : State} {b : Byte} {q : List Byte}
    (hq : s.key.queue = b :: q) (hc : canTake s = true) (hk : keyOf b = some k) (hf : s.key.keyboard = .error) :
    takeKey k act s = .next (settle (discardKey (setQueue q s))) := by
  simp [takeKey, hq, hc, hk, hf, ok]

/-- Everything RESET can do (R88). -/
theorem execReset_cases {s t : State} (h : execReset s = .next t) :
    t = s ∨ ∃ b q, s.key.queue = b :: q ∧ canTake s = true ∧ keyOf b = some .reset ∧
      ((s.key.keyboard = .error ∧ t = settle (clearError (setQueue q s))) ∨
       (s.key.keyboard ≠ .error ∧ t = settle (setQueue q s))) := by
  unfold execReset at h
  split at h
  · exact .inl (noEvent_eq_next.1 h)
  · next b q hq =>
    split at h
    · next hc =>
      refine .inr ⟨b, q, hq, hc.1, hc.2, ?_⟩
      split at h
      · next he => exact .inl ⟨he, ok_eq_next.1 h⟩
      · next he => exact .inr ⟨he, ok_eq_next.1 h⟩
    · exact .inl (noEvent_eq_next.1 h)

/-- Completion gives the state as it is, the state without its edit, or the state with the result stored (R84, R85). -/
theorem complete_cases {s t : State} (h : complete s = .ok t) :
    t = s ∨ t = dropEdit s ∨ ∃ e v, s.key.edit = some e ∧ t = storeCompleted e.inst v s := by
  unfold complete at h
  split at h
  · cases h; exact .inl rfl
  · next e he =>
    split at h
    · cases h; exact .inr (.inl rfl)
    · split at h
      · cases h
      · next v _ => cases h; exact .inr (.inr ⟨e, v, he, rfl⟩)

/-- A key that needs completion first raises the error of a failed check, or goes on (R86). -/
theorem afterCompletion_cases (next : State → State) (s : State) :
    (∃ x, complete s = .error x ∧ afterCompletion next s = raiseError x s) ∨
    (∃ t, complete s = .ok t ∧ afterCompletion next s = next t) := by
  unfold afterCompletion
  split
  · next x h => exact .inl ⟨x, h, rfl⟩
  · next t h => exact .inr ⟨t, h, rfl⟩

/-- The three steps of a move: ALARM, the move after completion, or the move alone (R51, R52). -/
theorem doMove_cases (m : Move) (s : State) :
    (m = .blocked ∧ doMove m s = pulseAlarm s) ∨
    (∃ r c n, m = .target r c n ∧
      (doMove m s = afterCompletion (placeCursor r c n) s ∨ doMove m s = placeCursor r c n s)) := by
  cases m with
  | blocked => exact .inl ⟨rfl, rfl⟩
  | target r c n =>
    refine .inr ⟨r, c, n, rfl, ?_⟩
    unfold doMove
    simp only
    split
    · split
      · exact .inl rfl
      · exact .inr rfl
    · exact .inr rfl

@[simp] theorem placeCursor_cur (r c n : Nat) (s : State) : (placeCursor r c n s).cur = ⟨r, c, n⟩ := by
  unfold placeCursor
  dsimp only
  repeat' split
  all_goals simp

/-! ## Received frames -/

/-- Everything the application of a frame can do (R160). -/
theorem applyFrame_cases {k : FrameKind} {effect : Frame → State → State} {s t : State}
    (h : applyFrame k effect s = .next t) :
    t = s ∨ ∃ f, s.line.handoff = some f ∧ f.kind = k ∧ s.tp.phase = .ready ∧ t = settle (effect f (clearHandoff s)) := by
  unfold applyFrame at h
  split at h
  · next f hf =>
    unfold handedOff at hf
    split at hf
    · next g hg =>
      split at hf
      · next hc => cases hf; exact .inr ⟨f, hg, hc.2, hc.1, ok_eq_next.1 h⟩
      · cases hf
    · cases hf
  · exact .inl (noEvent_eq_next.1 h)

/-- The application of a frame that stands in the holding place of a READY device. -/
theorem applyFrame_ready {k : FrameKind} {effect : Frame → State → State} {s : State} {f : Frame}
    (hf : s.line.handoff = some f) (hk : f.kind = k) (hp : s.tp.phase = .ready) :
    applyFrame k effect s = .next (settle (effect f (clearHandoff s))) := by
  simp [applyFrame, handedOff, hf, hk, hp, ok]

/-! ## The transmitter and the video scan -/

/-- Everything FRAME_SENT can do: retire the frame, or nothing while a looped character is still on its way (R151, R156). -/
theorem execFrameSent_cases {s t : State} (h : execFrameSent s = .next t) :
    (s.line.tx = .send ∧ charsDelivered s.line = true ∧ t = settle (enterYield s)) ∨
    ((s.line.tx ≠ .send ∨ charsDelivered s.line = false) ∧ t = s) := by
  unfold execFrameSent at h
  split at h
  · next hc => exact .inl ⟨hc.1, hc.2, ok_eq_next.1 h⟩
  · next hc =>
    refine .inr ⟨?_, noEvent_eq_next.1 h⟩
    cases hd : charsDelivered s.line
    · exact .inr rfl
    · exact .inl fun ht => hc ⟨ht, hd⟩

/-- A character takes 11 bit times (R140). -/
@[simp] theorem charBits_length (c : Byte × Bool) : (charBits c).length = 11 := rfl

/-- A scan presents one cell a moment (R118). -/
@[simp] theorem scanFrom_length (n : Nat) (ms : List Moment) : (scanFrom n ms).length = ms.length := by
  induction ms generalizing n with
  | nil => rfl
  | cons m ms ih => simp [scanFrom, ih]

end Sys2Proof.Machine
end

