-- ==== Sys2Proof/Laws/Memory.lean ====
section
/-!
SUPPORT. Keyed lists and cell memories: what a read gives after a write, and that every operation keeps the canonical
form.
-/
namespace Sys2Proof.Machine

variable {α : Type}

/-! ## Keyed lists -/

/-- A key below every listed key reads as none. -/
theorem assocGet_above {b : Nat} {m : List (Nat × α)} (h : assocAbove b m = true) {k : Nat} (hk : k ≤ b) :
    assocGet m k = none := by
  induction m generalizing b with
  | nil => rfl
  | cons p m ih =>
    obtain ⟨j, v⟩ := p
    simp only [assocAbove, Bool.and_eq_true, decide_eq_true_eq] at h
    simp only [assocGet]
    rw [if_neg (by omega)]
    exact ih h.2 (by omega)

theorem assocAbove_mono {a b : Nat} {m : List (Nat × α)} (h : assocAbove b m = true) (hab : a ≤ b) :
    assocAbove a m = true := by
  cases m with
  | nil => rfl
  | cons p m =>
    obtain ⟨j, v⟩ := p
    simp only [assocAbove, Bool.and_eq_true, decide_eq_true_eq] at h ⊢
    exact ⟨by omega, h.2⟩

theorem assocWf_of_above {b : Nat} {m : List (Nat × α)} (h : assocAbove b m = true) : assocWf m = true := by
  cases m with
  | nil => rfl
  | cons p m =>
    simp only [assocAbove, Bool.and_eq_true] at h
    exact h.2

@[simp] theorem assocGet_put_same (m : List (Nat × α)) (k : Nat) (v : α) : assocGet (assocPut m k v) k = some v := by
  induction m with
  | nil => simp [assocPut, assocGet]
  | cons p m ih =>
    obtain ⟨j, w⟩ := p
    simp only [assocPut]
    split
    · simp [assocGet]
    · split
      · simp [assocGet]
      · next h1 h2 => simp [assocGet, Ne.symm h2, ih]

theorem assocGet_put_ne (m : List (Nat × α)) {k j : Nat} (v : α) (h : j ≠ k) :
    assocGet (assocPut m k v) j = assocGet m j := by
  induction m with
  | nil => simp [assocPut, assocGet, Ne.symm h]
  | cons p m ih =>
    obtain ⟨i, w⟩ := p
    simp only [assocPut]
    split
    · simp [assocGet, Ne.symm h]
    · split
      · next h2 => subst h2; simp [assocGet, Ne.symm h]
      · simp [assocGet, ih]

theorem assocGet_put (m : List (Nat × α)) (k j : Nat) (v : α) :
    assocGet (assocPut m k v) j = if j = k then some v else assocGet m j := by
  split
  · next h => subst h; simp
  · next h => exact assocGet_put_ne m v h

theorem assocAbove_put {b : Nat} {m : List (Nat × α)} (h : assocAbove b m = true) {k : Nat} (hk : b < k) (v : α) :
    assocAbove b (assocPut m k v) = true := by
  induction m generalizing b with
  | nil => simp [assocPut, assocAbove, hk]
  | cons p m ih =>
    obtain ⟨j, w⟩ := p
    simp only [assocAbove, Bool.and_eq_true, decide_eq_true_eq] at h
    simp only [assocPut]
    split
    · next h1 => simp [assocAbove, hk, h1, h.2]
    · split
      · next h2 => subst h2; simp [assocAbove, hk, h.2]
      · simp only [assocAbove, Bool.and_eq_true, decide_eq_true_eq]
        exact ⟨h.1, ih h.2 (by omega)⟩

theorem assocWf_put {m : List (Nat × α)} (h : assocWf m = true) (k : Nat) (v : α) : assocWf (assocPut m k v) = true := by
  cases m with
  | nil => rfl
  | cons p m =>
    obtain ⟨j, w⟩ := p
    simp only [assocPut]
    split
    · next h1 => simp only [assocWf, assocAbove, Bool.and_eq_true, decide_eq_true_eq]; exact ⟨h1, h⟩
    · split
      · next h2 => subst h2; exact h
      · exact assocAbove_put h (by omega) v

theorem assocAbove_filter {b : Nat} {m : List (Nat × α)} (h : assocAbove b m = true) (p : Nat × α → Bool) :
    assocAbove b (m.filter p) = true := by
  induction m generalizing b with
  | nil => rfl
  | cons q m ih =>
    obtain ⟨j, w⟩ := q
    simp only [assocAbove, Bool.and_eq_true, decide_eq_true_eq] at h
    simp only [List.filter]
    split
    · simp only [assocAbove, Bool.and_eq_true, decide_eq_true_eq]
      exact ⟨h.1, ih h.2⟩
    · exact assocAbove_mono (ih h.2) (by omega)

theorem assocWf_filter {m : List (Nat × α)} (h : assocWf m = true) (p : Nat × α → Bool) :
    assocWf (m.filter p) = true := by
  cases m with
  | nil => rfl
  | cons q m =>
    obtain ⟨j, w⟩ := q
    simp only [List.filter]
    split
    · exact assocAbove_filter h p
    · exact assocWf_of_above (assocAbove_filter h p)

theorem assocAbove_map {β : Type} {b : Nat} {m : List (Nat × α)} (h : assocAbove b m = true) (g : Nat × α → β) :
    assocAbove b (m.map (fun p => (p.1, g p))) = true := by
  induction m generalizing b with
  | nil => rfl
  | cons q m ih =>
    simp only [assocAbove, Bool.and_eq_true, decide_eq_true_eq, List.map] at h ⊢
    exact ⟨h.1, ih h.2⟩

/-- A keyed list keeps its form when its values change. -/
theorem assocWf_map {β : Type} {m : List (Nat × α)} (h : assocWf m = true) (g : Nat × α → β) :
    assocWf (m.map (fun p => (p.1, g p))) = true := by
  cases m with
  | nil => rfl
  | cons q m => exact assocAbove_map h g

theorem assocAbove_del {b : Nat} {m : List (Nat × α)} (h : assocAbove b m = true) (k : Nat) :
    assocAbove b (assocDel m k) = true := by
  induction m generalizing b with
  | nil => rfl
  | cons q m ih =>
    obtain ⟨j, w⟩ := q
    simp only [assocAbove, Bool.and_eq_true, decide_eq_true_eq] at h
    simp only [assocDel]
    split
    · exact assocAbove_mono h.2 (by omega)
    · simp only [assocAbove, Bool.and_eq_true, decide_eq_true_eq]
      exact ⟨h.1, ih h.2⟩

theorem assocWf_del {m : List (Nat × α)} (h : assocWf m = true) (k : Nat) : assocWf (assocDel m k) = true := by
  cases m with
  | nil => rfl
  | cons q m =>
    obtain ⟨j, w⟩ := q
    simp only [assocDel]
    split
    · exact assocWf_of_above h
    · exact assocAbove_del h k

theorem assocGet_del_ne (m : List (Nat × α)) {k j : Nat} (h : j ≠ k) : assocGet (assocDel m k) j = assocGet m j := by
  induction m with
  | nil => rfl
  | cons q m ih =>
    obtain ⟨i, w⟩ := q
    simp only [assocDel]
    split
    · next h1 => subst h1; simp [assocGet, Ne.symm h]
    · simp [assocGet, ih]

theorem assocGet_del_same {m : List (Nat × α)} (h : assocWf m = true) (k : Nat) : assocGet (assocDel m k) k = none := by
  have go : ∀ (m : List (Nat × α)) (b : Nat), assocAbove b m = true → assocGet (assocDel m k) k = none := by
    intro m
    induction m with
    | nil => intros; rfl
    | cons q m ih =>
      obtain ⟨i, w⟩ := q
      intro b hb
      simp only [assocAbove, Bool.and_eq_true, decide_eq_true_eq] at hb
      simp only [assocDel]
      split
      · next h1 => subst h1; exact assocGet_above hb.2 (Nat.le_refl _)
      · next h1 => simp [assocGet, h1, ih i hb.2]
  cases m with
  | nil => rfl
  | cons q m =>
    obtain ⟨i, w⟩ := q
    simp only [assocDel]
    split
    · next h1 => subst h1; exact assocGet_above h (Nat.le_refl _)
    · next h1 => simp [assocGet, h1, go m i h]

/-- A filter on the values and keys filters what is read. -/
theorem assocGet_filter {m : List (Nat × α)} (h : assocWf m = true) (p : Nat × α → Bool) (k : Nat) :
    assocGet (m.filter p) k = (assocGet m k).bind (fun v => if p (k, v) then some v else none) := by
  have go : ∀ (m : List (Nat × α)) (b : Nat), assocAbove b m = true →
      assocGet (m.filter p) k = (assocGet m k).bind (fun v => if p (k, v) then some v else none) := by
    intro m
    induction m with
    | nil => intros; rfl
    | cons q m ih =>
      obtain ⟨i, w⟩ := q
      intro b hb
      simp only [assocAbove, Bool.and_eq_true, decide_eq_true_eq] at hb
      by_cases hik : i = k
      · subst hik
        cases hp : p (i, w) with
        | true => simp [List.filter, hp, assocGet]
        | false =>
          simp only [List.filter, hp, assocGet, if_true, Option.bind_some]
          rw [ih i hb.2, assocGet_above hb.2 (Nat.le_refl _)]
          rfl
      · cases hp : p (i, w) with
        | true => simp [List.filter, hp, assocGet, hik, ih i hb.2]
        | false => simp [List.filter, hp, assocGet, hik, ih i hb.2]
  cases m with
  | nil => rfl
  | cons q m =>
    obtain ⟨i, w⟩ := q
    cases i with
    | succ i => exact go _ i (by simp only [assocAbove, Bool.and_eq_true, decide_eq_true_eq]; exact ⟨by omega, h⟩)
    | zero =>
      by_cases hk : k = 0
      · subst hk
        cases hp : p (0, w) with
        | true => simp [List.filter, hp, assocGet]
        | false =>
          simp only [List.filter, hp, assocGet, if_true, Option.bind_some]
          rw [go m 0 h, assocGet_above h (Nat.le_refl _)]
          rfl
      · cases hp : p (0, w) with
        | true => simp [List.filter, hp, assocGet, Ne.symm hk, go m 0 h]
        | false => simp [List.filter, hp, assocGet, Ne.symm hk, go m 0 h]

theorem assocGet_map {β : Type} (m : List (Nat × α)) (g : α → β) (k : Nat) :
    assocGet (m.map (fun p => (p.1, g p.2))) k = (assocGet m k).map g := by
  induction m with
  | nil => rfl
  | cons q m ih =>
    obtain ⟨i, w⟩ := q
    simp only [List.map, assocGet]
    split <;> simp_all

theorem mem_assocDel {m : List (Nat × α)} {k : Nat} {p : Nat × α} (h : p ∈ assocDel m k) : p ∈ m := by
  induction m with
  | nil => exact h
  | cons q m ih =>
    obtain ⟨i, w⟩ := q
    simp only [assocDel] at h
    split at h
    · exact List.mem_cons_of_mem _ h
    · rcases List.mem_cons.1 h with rfl | h
      · exact List.mem_cons_self
      · exact List.mem_cons_of_mem _ (ih h)

theorem mem_assocPut {m : List (Nat × α)} {k : Nat} {v : α} {p : Nat × α} (h : p ∈ assocPut m k v) :
    p = (k, v) ∨ p ∈ m := by
  induction m with
  | nil => simp [assocPut] at h; exact .inl h
  | cons q m ih =>
    obtain ⟨i, w⟩ := q
    simp only [assocPut] at h
    split at h
    · rcases List.mem_cons.1 h with rfl | h
      · exact .inl rfl
      · exact .inr h
    · split at h
      · rcases List.mem_cons.1 h with rfl | h
        · exact .inl rfl
        · exact .inr (List.mem_cons_of_mem _ h)
      · rcases List.mem_cons.1 h with rfl | h
        · exact .inr List.mem_cons_self
        · rcases ih h with h | h
          · exact .inl h
          · exact .inr (List.mem_cons_of_mem _ h)

/-! ## Cell memories -/

variable [DecidableEq α] {dflt : α}

/-- A read after a write to the same cell gives the value written. -/
theorem cellRead_write_same {m : List (Nat × α)} (h : assocWf m = true) (k : Nat) (v : α) :
    cellRead dflt (cellWrite dflt m k v) k = v := by
  unfold cellRead cellWrite
  split
  · next hv => rw [assocGet_del_same h]; exact hv.symm
  · simp

/-- A write leaves every other cell as it was. -/
theorem cellRead_write_ne (m : List (Nat × α)) {k j : Nat} (v : α) (h : j ≠ k) :
    cellRead dflt (cellWrite dflt m k v) j = cellRead dflt m j := by
  unfold cellRead cellWrite
  split
  · rw [assocGet_del_ne m h]
  · rw [assocGet_put_ne m v h]

theorem cellWf_assoc {m : List (Nat × α)} (h : cellWf dflt m = true) : assocWf m = true := by
  simp only [cellWf, Bool.and_eq_true] at h
  exact h.1

/-- A write keeps the canonical form. -/
theorem cellWf_write {m : List (Nat × α)} (h : cellWf dflt m = true) (k : Nat) (v : α) :
    cellWf dflt (cellWrite dflt m k v) = true := by
  simp only [cellWf, Bool.and_eq_true, List.all_eq_true, decide_eq_true_eq] at h ⊢
  unfold cellWrite
  split
  · exact ⟨assocWf_del h.1 k, fun p hp => h.2 p (mem_assocDel hp)⟩
  · next hv =>
    refine ⟨assocWf_put h.1 k v, fun p hp => ?_⟩
    rcases mem_assocPut hp with rfl | hp
    · exact hv
    · exact h.2 p hp

theorem cellWf_writeRun {m : List (Nat × α)} (h : cellWf dflt m = true) (k : Nat) (vs : List α) :
    cellWf dflt (cellWriteRun dflt m k vs) = true := by
  induction vs generalizing m k with
  | nil => exact h
  | cons v vs ih => exact ih (cellWf_write h k v) _

theorem cellWf_filter {m : List (Nat × α)} (h : cellWf dflt m = true) (p : Nat × α → Bool) :
    cellWf dflt (m.filter p) = true := by
  simp only [cellWf, Bool.and_eq_true, List.all_eq_true, decide_eq_true_eq] at h ⊢
  exact ⟨assocWf_filter h.1 p, fun q hq => h.2 q (List.mem_filter.1 hq).1⟩

/-- A run of cells reads as written, and every other cell as before. -/
theorem cellRead_writeRun {m : List (Nat × α)} (h : cellWf dflt m = true) (k : Nat) (vs : List α) (j : Nat) :
    cellRead dflt (cellWriteRun dflt m k vs) j =
      if k ≤ j ∧ j < k + vs.length then vs.getD (j - k) dflt else cellRead dflt m j := by
  induction vs generalizing m k with
  | nil => simp [cellWriteRun]
  | cons v vs ih =>
    simp only [cellWriteRun]
    rw [ih (cellWf_write h k v)]
    by_cases hj : j = k
    · subst hj
      rw [if_neg (by omega), if_pos (by simp), cellRead_write_same (cellWf_assoc h)]
      simp
    · rw [cellRead_write_ne m v hj]
      by_cases h1 : k + 1 ≤ j ∧ j < k + 1 + vs.length
      · rw [if_pos h1, if_pos (by simp; omega)]
        obtain ⟨d, hd⟩ : ∃ d, j - k = d + 1 := ⟨j - k - 1, by omega⟩
        rw [hd, show j - (k + 1) = d by omega]
        rfl
      · rw [if_neg h1, if_neg (by simp; omega)]

theorem cellWf_writeLabel {cells : List Nat} {ks : List Nat} {t : Text} {m : List (Nat × Byte)}
    (h : cellWf blank m = true) : cellWf blank (writeLabel cells ks t m) = true := by
  induction t generalizing ks m with
  | nil => cases ks <;> exact h
  | cons b bs ih =>
    cases ks with
    | nil =>
      cases cells with
      | nil => exact h
      | cons c cs => exact ih (cellWf_write h c b)
    | cons c cs => exact ih (cellWf_write h c b)

theorem cellWf_writeCells {img : List (Nat × Cell)} {cs : List (Nat × Cell)} (h : cellWf blankCell img = true) :
    cellWf blankCell (writeCells img cs) = true := by
  induction cs generalizing img with
  | nil => exact h
  | cons p cs ih => exact ih (cellWf_write h p.1 p.2)

end Sys2Proof.Machine
end

