-- ==== Sys2Proof/Safety.lean ====
section
/-!
DEFINITION. What a sound state is: the relations between fields of the state that the rules promise. Each holds after
reset and is kept by every step (stated in Certificates/Slice0/Obligations.lean).
-/
namespace Sys2Proof.Machine

/-- The key queue, the receive FIFO, the frame buffer, the message queue, the inbound queue and the send block hold no
more than their rules allow (R68, R131, R133, R143, R146, R170, R173): a frame buffer past its length character holds
fewer characters than the frame that the length gives. -/
structure QueuesBounded (s : State) : Prop where
  keys : s.key.queue.length ≤ keyQueueSize
  fifo : s.line.fifo.length ≤ fifoSize
  buffer : s.line.buffer.length < 4 ∨
    ((s.line.buffer.getD 3 0).toNat ≤ maxLengthByte ∧ s.line.buffer.length < 5 + (s.line.buffer.getD 3 0).toNat)
  messages : s.desk.messages.length ≤ messageQueueSize
  inbound : inboundFill s.desk ≤ inboundSize
  block : s.send.block.length ≤ blockSize
  readPos : s.send.readPos ≤ s.send.block.length

/-- The keyboard is SYSTEM exactly while the form is not ACTIVE (R69), and LOCKED exactly while the send state is not
NONE (R128). -/
structure LockAgrees (s : State) : Prop where
  system : s.key.keyboard = .system ↔ s.form.state ≠ .active
  locked : s.key.keyboard = .locked ↔ s.send.state ≠ .none

/-- The repaint list holds no item twice (R109), a render is in progress exactly while it is not empty, and only an
item being rendered is marked (R110). -/
structure RepaintSound (s : State) : Prop where
  nodup : s.comp.items.Nodup
  rendering : s.comp.rendering = true ↔ s.comp.items ≠ []
  remark : s.comp.remark = true → s.comp.rendering = true

/-- Start-up: RESETN low or a supply not yet steady holds the device in STARTING with no clearing begun, and a clearing
is in progress in STARTING only, where no stream is pointed (R189, R190, R192). -/
structure StartSound (s : State) : Prop where
  stream : s.tp.phase = .starting → s.tp.stream = none
  low : s.tp.resetnLow = true → s.tp.phase = .starting ∧ s.tp.clearing = false
  supply : s.tp.supplySteady = false → s.tp.phase = .starting ∧ s.tp.clearing = false
  clearing : s.tp.clearing = true → s.tp.phase = .starting

/-- The memories keep their canonical form: keys rise, and no cell is listed that reads as an unlisted one. -/
structure MemoriesSound (s : State) : Prop where
  image : cellWf blankCell s.comp.image = true
  screenPlane : cellWf blank s.form.screenPlane = true
  linePlane : cellWf blank s.form.linePlane = true
  table : assocWf s.desk.table = true
  active : assocWf s.desk.active = true
  tallies : assocWf s.desk.tallies = true
  paused : assocWf s.desk.paused = true

/-- A share in the range of a TALLY (R164). -/
def shareInRange : Share → Bool
  | .value v => v.natAbs < tallyRange
  | .overflow => true

/-- An entry of the contribution table at a key, on a station of a number: tag 1 to 8, source 0 to 29 and not this
station's own, age below 30, share in range (R164). -/
def entrySound (own : Nat) (p : Nat × Entry) : Bool :=
  oneTo 8 (keyTag p.1) && decide (keySource p.1 < firstListenOnly) && decide (keySource p.1 ≠ own)
    && decide (p.2.age < entryLife) && shareInRange p.2.share

/-- A frame in the hand-off holding place has passed validation (R148, R156). -/
def handoffSound (own : Nat) (f : Frame) : Bool :=
  decide (f.source.toNat < firstListenOnly) && (decide (f.source.toNat ≠ own) || loopedKind f.kind)
    && lengthLegal f.kind f.payload.length

/-- The Desk Exchange's tables hold what R164, R168, R176 and R177 allow, and in STARTING nothing received is held. -/
structure DeskSound (s : State) : Prop where
  entries : s.desk.table.all (entrySound s.line.station.toNat) = true
  handoff : ∀ f, s.line.handoff = some f → handoffSound s.line.station.toNat f = true
  refresh : s.desk.refresh < refreshPeriod
  timers : s.desk.paused.all (fun p => decide (p.1 < firstListenOnly ∧ 0 < p.2 ∧ p.2 ≤ holdTime)) = true
  banner : ∀ b, s.desk.banner = some b → b.text ≠ [] ∧ b.age < bannerLife
  starting : s.tp.phase = .starting → s.desk.table = [] ∧ s.line.handoff = none ∧ s.line.fifo = []

/-- The cells of every record lie on the screen (R7, R9). -/
def recordsOnScreen (f : FormStore) : Bool :=
  f.fields.all (fun fd => decide (fd.row < formRows ∧ 0 < fd.shape.length ∧ fd.col + fd.shape.length ≤ screenCols))
    && f.cols.all (fun cd => decide (0 < cd.shape.length ∧ cd.col + cd.shape.length ≤ screenCols))

/-- The cursor is on the form area (R47), the window shows lines of the group only (R48), and an ACTIVE form holds a
record for each line (R16). -/
structure CursorSound (s : State) : Prop where
  geometry : geometryLegal s.form.h s.form.w s.form.d = true
  records : recordsOnScreen s.form = true
  row : s.cur.row < formRows
  col : s.cur.col < screenCols
  top : s.cur.top + s.form.w ≤ s.form.d
  lines : s.form.state = .active → s.form.lines.length = s.form.d

/-! ## Words of the claims -/

/-- The state after the frame of an order that changes nothing else: its outcome is recorded, the stream has ended, and
SDO drove `sdo` (R41, R179, R183). -/
def framed (o : OrderOutcome) (sdo : List Byte) (s : State) : State :=
  { s with tp := { s.tp with decoder := .idle, awaitHigh := false, sdo := sdo, outcome := o, stream := none } }

/-- The kinds whose instances hold a value of their own: the entry kinds and DISPLAY (R6, R9). -/
def storesOwn (k : Kind) : Bool := isEntryKind k || k = .display

/-- The key that a key row takes. -/
def keyRowOf : Instr → Option Key
  | .dataKey => some .data
  | .tab => some .tab
  | .backtab => some .backtab
  | .home => some .home
  | .newline => some .newline
  | .left => some .left
  | .right => some .right
  | .up => some .up
  | .down => some .down
  | .pageForward => some .pageForward
  | .pageBack => some .pageBack
  | .backspace => some .backspace
  | .delete => some .delete
  | .insert => some .insert
  | .clearToEnd => some .clearToEnd
  | .clearAll => some .clearAll
  | .repeatAbove => some .repeatAbove
  | .lineInsert => some .lineInsert
  | .lineDelete => some .lineDelete
  | .reset => some .reset
  | .send => some .send
  | .signalKey => some .signal
  | _ => none

/-- A key `k` with the code `b` stands at the head of the queue, `q` behind it, and the Key Engine takes keys, the
keyboard state apart (R70). -/
structure KeyStands (k : Key) (b : Byte) (q : List Byte) (s : State) : Prop where
  head : s.key.queue = b :: q
  key : keyOf b = some k
  active : s.form.state = .active
  send : s.send.state = .none
  items : s.comp.items = []
  idle : s.comp.rendering = false

/-- The rule of each movement key (R53 to R61). -/
def moveOf : Key → Option (State → Move)
  | .tab => some tabMove
  | .backtab => some backtabMove
  | .home => some homeMove
  | .newline => some newlineMove
  | .left => some leftMove
  | .right => some rightMove
  | .up => some upMove
  | .down => some downMove
  | .pageForward => some pageForwardMove
  | .pageBack => some pageBackMove
  | _ => none

/-- The key is taken, `q` stays of the queue, the cursor and T go to `cur`, every BODY ROW is requested when T changes,
STATUS when the cursor line does, and nothing else changes (R50, R51). -/
def movedTo (q : List Byte) (cur : CursorEngine) (s u : State) : Prop :=
  u = { s with
    cur := cur, key := { s.key with queue := q }, comp := { s.comp with items := u.comp.items } } ∧
  ∀ it, it ∈ u.comp.items ↔ it ∈ s.comp.items ∨ (cur.top ≠ s.cur.top ∧ it ∈ allBodyRows s.form) ∨
    (it = .status ∧ lineAt s.form cur.top cur.row ≠ lineAt s.form s.cur.top s.cur.row)

/-- The event that leads from `s` to `u` raises DESK CHANGE exactly when it changed the stored value of a DESK SUM field
(R104). -/
def deskChangeRight (s u : State) : Prop :=
  u.tp.edge.deskChange = true ↔ s.tp.edge.deskChange = true ∨
    ∃ fd ∈ s.form.fields, fd.shape.kind = .deskSum ∧
      instValue u.form (.field fd.number) ≠ instValue s.form (.field fd.number)

/-! ### What the computed values are (chapter 5) -/

/-- `p` at scale `k`, brought once to the decimals of `sh` and tested against its capacity, is stored as `v` (R91 to
R93). -/
def fitsAs (sh : Shape) (k : Nat) (p : Int) (v : Value) : Prop :=
  let r : Int := if k ≤ sh.decimals then p * ((10 ^ (sh.decimals - k) : Nat) : Int) else roundDiv p (k - sh.decimals)
  let cap := sh.length - (if 0 < sh.decimals then 1 else 0) - (if sh.signed then 1 else 0)
  v = if r.natAbs < 10 ^ cap then .number r else .overflow

/-- The product of operand values `a` and `b` of `da` and `db` decimals in a PRODUCT column is `v`: ABSENT before OVERFLOW
before the exact product (R98). -/
def isProduct (sh : Shape) (da db : Nat) (a b v : Value) : Prop :=
  (a = .absent ∨ b = .absent → v = .absent) ∧
  (∀ x, (a = .overflow ∧ (b = .overflow ∨ b = .number x)) ∨ (a = .number x ∧ b = .overflow) → v = .overflow) ∧
  ∀ x y, a = .number x → b = .number y → fitsAs sh (da + db) (x * y) v

/-- Every PRODUCT on line `l` whose operands are NUMBER columns holds their product on that line (R98). -/
def productsFollow (f : FormStore) (l : Nat) : Prop :=
  ∀ cd ca cb v, findCol f cd.number = some cd → cd.shape.kind = .product →
    findCol f cd.opA = some ca → ca.shape.kind = .number → findCol f cd.opB = some cb → cb.shape.kind = .number →
    instValue f (.cell l cd.number) = some v →
    isProduct cd.shape ca.shape.decimals cb.shape.decimals ((instValue f (.cell l cd.opA)).getD .absent)
      ((instValue f (.cell l cd.opB)).getD .absent) v

/-- The sum of column `c` over all lines, at reckoning scale, is `S`: OVERFLOW where a line holds OVERFLOW, else the exact
sum, to which a value that is no NUMBER gives 0 (R99, steps 1 to 3). -/
def columnTotal (f : FormStore) (c : Nat) (S : Share) : Prop :=
  let d := ((findCol f c).map (·.shape.decimals)).getD 0
  ((∃ ln ∈ f.lines, lineValue ln c = .overflow) → S = .overflow) ∧
  ((∀ ln ∈ f.lines, lineValue ln c ≠ .overflow) →
    S = .value (f.lines.map (fun ln => match lineValue ln c with
      | .number v => v * ((10 ^ (4 - d) : Nat) : Int)
      | _ => 0)).sum)

/-- The number of a part that is no OVERFLOW. -/
def shareNumber : Share → Int
  | .value v => v
  | .overflow => 0

/-- The desk total of tag `t`, at reckoning scale, is `S`: the local contribution and the entries of every source added,
OVERFLOW where one of them is (R101). -/
def deskTotalIs (d : DeskExchange) (t : Nat) (S : Share) : Prop :=
  let parts := (assocGet d.active t).toList ++ (d.table.filter (fun p => decide (p.1 / 32 = t))).map (·.2.share)
  (.overflow ∈ parts → S = .overflow) ∧
  (.overflow ∉ parts → S = .value (parts.map shareNumber).sum)

/-- A sum field of shape `sh` holds the part or total `S` rounded and fitted (R99, R101). -/
def showsShare (sh : Shape) (S : Share) (x : Value) : Prop :=
  match S with
  | .overflow => x = .overflow
  | .value v => fitsAs sh 4 v x

/-- A DESK SUM field of shape `sh` and tag `t` holds the desk total (R101). -/
def showsDesk (d : DeskExchange) (t : Nat) (sh : Shape) (x : Value) : Prop :=
  ∃ S, deskTotalIs d t S ∧ showsShare sh S x

/-- Every COLUMN SUM field holds the sum of its column and every DESK SUM field the desk total of its tag, rounded and
fitted, and the local contribution of every tag is the unrounded sum of the column that its one DESK SUM field names
(R99, R100, R101). -/
def sumsFollow (u : State) : Prop :=
  (∀ fd x, findField u.form fd.number = some fd → instValue u.form (.field fd.number) = some x →
    (fd.shape.kind = .columnSum → ∃ S, columnTotal u.form fd.sumCol S ∧ showsShare fd.shape S x) ∧
    (fd.shape.kind = .deskSum → showsDesk u.desk fd.tag fd.shape x)) ∧
  (∀ fd ∈ u.form.fields, fd.shape.kind = .deskSum →
    (∀ g ∈ u.form.fields, g.shape.kind = .deskSum → g.tag = fd.tag → g = fd) →
    ∀ S, assocGet u.desk.active fd.tag = some S → columnTotal u.form fd.sumCol S)

/-- The changes that the event from `s` to `u` made in computed values are handed on: every local contribution that
changed has a TALLY pending and no other announcement changed, the item of every sum that changed is in the repaint list,
and so is the row of every visible line with a product that changed (R100, R103). -/
structure HandedOn (s u : State) : Prop where
  tags : ∀ n, (assocGet u.desk.active n).isSome = (assocGet s.desk.active n).isSome
  tallies : ∀ n, assocGet u.desk.tallies n =
    if assocGet u.desk.active n = assocGet s.desk.active n then assocGet s.desk.tallies n else some .tally
  sums : ∀ fd ∈ s.form.fields, isSumKind fd.shape.kind = true →
    instValue u.form (.field fd.number) ≠ instValue s.form (.field fd.number) → Item.field fd.number ∈ u.comp.items
  products : ∀ k < s.form.w, ∀ cd ∈ s.form.cols, cd.shape.kind = .product →
    instValue u.form (.cell (s.cur.top + k) cd.number) ≠ instValue s.form (.cell (s.cur.top + k) cd.number) →
    Item.bodyRow (s.form.h + k) ∈ u.comp.items

/-- The records and contents that the rules of chapter 5 read: no two fields and no two columns have one number; an ACTIVE
form holds a content for each field and, on each of its lines, for each column that stores one, every sum names a NUMBER
or PRODUCT column, every PRODUCT two NUMBER columns, no two DESK SUM fields one tag (R28), and the tags of its DESK SUM
fields are the active ones (R24); a stream points at a field of an ACTIVE form that is no sum (R39). -/
structure RecordsSound (s : State) : Prop where
  fields : (s.form.fields.map (·.number)).Nodup
  cols : (s.form.cols.map (·.number)).Nodup
  vals : s.form.state = .active → s.form.vals.map (·.key) = s.form.fields.map (·.number)
  lines : s.form.state = .active → s.form.lines.length = s.form.d ∧
    ∀ ln ∈ s.form.lines, ln.cells.map (·.key) = (newLine s.form).cells.map (·.key)
  sums : s.form.state = .active → ∀ fd ∈ s.form.fields, isSumKind fd.shape.kind = true →
    ∃ cd, findCol s.form fd.sumCol = some cd ∧ (cd.shape.kind = .number ∨ cd.shape.kind = .product)
  operands : s.form.state = .active → ∀ cd ∈ s.form.cols, cd.shape.kind = .product →
    ∃ ca cb, findCol s.form cd.opA = some ca ∧ ca.shape.kind = .number ∧
      findCol s.form cd.opB = some cb ∧ cb.shape.kind = .number
  tags : s.form.state = .active → (deskTags s.form).Nodup ∧
    ∀ t, (assocGet s.desk.active t).isSome = true ↔ t ∈ deskTags s.form
  stream : ∀ st, s.tp.stream = some st → s.form.state = .active ∧
    ∃ fd, findField s.form st.field = some fd ∧ isSumKind fd.shape.kind = false

/-- On an ACTIVE form every PRODUCT, COLUMN SUM, local contribution and DESK SUM is the value that its rule gives for the
stored inputs and the contribution table (R98 to R102). -/
structure Reckoned (s : State) : Prop where
  products : s.form.state = .active → ∀ l, productsFollow s.form l
  sums : s.form.state = .active → sumsFollow s

/-- The event that leads from `s` to `u` changed the contribution table: on an ACTIVE form every DESK SUM field holds the
desk total of its tag, the item of one that changed is in the repaint list, and DESK CHANGE is raised where one did; no
other value and no flag changes (R105). -/
structure DeskSumsFollow (s u : State) : Prop where
  form : u.form = { s.form with vals := u.form.vals }
  port : u.tp = { s.tp with edge := { s.tp.edge with deskChange := u.tp.edge.deskChange } }
  change : deskChangeRight s u
  kept : ∀ n fd, findField s.form n = some fd → fd.shape.kind ≠ .deskSum →
    instValue u.form (.field n) = instValue s.form (.field n)
  flags : ∀ n w w', valFind s.form.vals n = some w → valFind u.form.vals n = some w' → w'.modified = w.modified
  sums : s.form.state = .active → ∀ fd x, findField s.form fd.number = some fd → fd.shape.kind = .deskSum →
    instValue u.form (.field fd.number) = some x → showsDesk u.desk fd.tag fd.shape x
  inactive : s.form.state ≠ .active → u.form = s.form
  items : ∀ fd ∈ s.form.fields, fd.shape.kind = .deskSum →
    instValue u.form (.field fd.number) ≠ instValue s.form (.field fd.number) → Item.field fd.number ∈ u.comp.items

/-- A repaint list with STATUS requested while no render is in progress (R109). -/
def plusStatus (is : List Item) : List Item := if Item.status ∈ is then is else is ++ [.status]

/-- The key is taken, `q` stays of the queue, and the operator error `x` is raised: ERROR with its code, ALARM, KEY ERROR,
and STATUS requested (R87). -/
def errs (x : OpError) (q : List Byte) (s : State) : State :=
  { s with
    tp := { s.tp with edge := { s.tp.edge with keyError := true } }
    key := { s.key with queue := q, keyboard := .error, lastError := some (.op x), alarm := true }
    comp := { s.comp with items := plusStatus s.comp.items } }

/-- The pending edit, if any, passes the check of completion (R84). -/
def mayComplete (s : State) : Prop :=
  ∀ e, s.key.edit = some e → ∃ sh v, instShape s.form e.inst = some sh ∧ isEntryKind sh.kind = true ∧
    checkBuffer sh e.buf = .ok v ∧ instValue s.form e.inst ≠ none

/-- The key is taken, `q` stays of the queue, and the edit on instance `i` is completed with the value `v`: stored, its
flags set where it differs, the instance's item requested, and where it differs the products of its line and every sum
and local contribution recomputed and handed on (R85, R102). -/
structure Completes (i : Inst) (v : Value) (q : List Byte) (s w : State) : Prop where
  frame : w = { s with
    tp := { s.tp with edge := { s.tp.edge with deskChange := w.tp.edge.deskChange } }
    form := { s.form with vals := w.form.vals, lines := w.form.lines }
    key := { s.key with queue := q, edit := none }
    comp := { s.comp with items := w.comp.items }
    line := { s.line with taken := w.line.taken }
    desk := { s.desk with active := w.desk.active, tallies := w.desk.tallies } }
  stored : instValue w.form i = some v
  others : ∀ j sh, j ≠ i → instShape s.form j = some sh → storesOwn sh.kind = true →
    instValue w.form j = instValue s.form j
  item : ∀ it, instItem s.form s.cur.top i = some it → it ∈ w.comp.items
  change : deskChangeRight s w
  sums : instValue s.form i ≠ some v → sumsFollow w
  products : instValue s.form i ≠ some v → ∀ l n, i = .cell l n → productsFollow w.form l
  handed : HandedOn s w
  fieldFlags : ∀ n x x', valFind s.form.vals n = some x → valFind w.form.vals n = some x' →
    x'.modified = (x.modified || decide (i = .field n ∧ x.value ≠ v))
  cellFlags : ∀ (l : Nat) (ln ln' : LineRec), s.form.lines[l]? = some ln → w.form.lines[l]? = some ln' →
    (∀ n x x', valFind ln.cells n = some x → valFind ln'.cells n = some x' →
      x'.modified = (x.modified || decide (i = .cell l n ∧ x.value ≠ v))) ∧
    (∀ n, i = .cell l n → ln'.modified = (ln.modified || decide (instValue s.form i ≠ some v))) ∧
    ((∀ n, i ≠ .cell l n) → ln' = ln)

/-- The key is taken, `q` stays of the queue, and the pending edit, if any, is completed: `w` is `s` then. -/
def readied (q : List Byte) (s w : State) : Prop :=
  (s.key.edit = none → w = { s with key := { s.key with queue := q } }) ∧
  ∀ e sh v, s.key.edit = some e → instShape s.form e.inst = some sh → checkBuffer sh e.buf = .ok v →
    Completes e.inst v q s w

/-- What cell `k` of an instance shows: a blank when hidden, its edit buffer while an edit is pending on it, else its
stored value as the screen shows it, always with its attributes less hidden (R113, R114, R115). -/
def shownCell (s : State) (i : Inst) (sh : Shape) (k : Nat) : Cell where
  code :=
    if sh.attrs.hidden then blank
    else match s.key.edit with
      | some e => if e.inst = i then e.buf.getD k blank else (storedShown s.form i sh).getD k blank
      | none => (storedShown s.form i sh).getD k blank
  attrs := ⟨sh.attrs.bright, sh.attrs.inverse, sh.attrs.underline, sh.attrs.blink⟩

/-- The cells of an instance of shape `sh`, from row `r0` and column `c0` on, show an edit buffer, blanks after it, or
blanks alone when the instance is hidden, and every other cell of the image is unchanged (R72, R115). -/
def echoes (r0 c0 : Nat) (sh : Shape) (buf : Text) (s u : State) : Prop :=
  ∀ r c, c < screenCols →
    (r = r0 ∧ c0 ≤ c ∧ c < c0 + sh.length → imageCell u r c =
      ⟨if sh.attrs.hidden then blank else buf.getD (c - c0) blank,
        ⟨sh.attrs.bright, sh.attrs.inverse, sh.attrs.underline, sh.attrs.blink⟩⟩) ∧
    (¬(r = r0 ∧ c0 ≤ c ∧ c < c0 + sh.length) → imageCell u r c = imageCell s r c)

/-- What a reset leaves of every block (R21, R66, R90, R121, R138, R159, R178, R186, R192). -/
structure BlocksReset (t : State) : Prop where
  form : t.form.state = .empty ∧ t.form.h = 0 ∧ t.form.w = 0 ∧ t.form.d = 0 ∧ footerRows t.form = 24
  tables : t.form.fields = [] ∧ t.form.cols = [] ∧ t.form.vals = [] ∧ t.form.lines = []
  planes : ∀ k, cellRead blank t.form.screenPlane k = blank ∧ cellRead blank t.form.linePlane k = blank
  cursor : t.cur.row = 0 ∧ t.cur.col = 0 ∧ t.cur.top = 0
  keys : t.key.queue = [] ∧ t.key.keyboard = .system ∧ t.key.insertMode = false ∧ t.key.edit = none
    ∧ t.key.lastError = none ∧ t.key.typeaheadLost = false ∧ t.key.alarm = false
  image : ∀ r c, imageCell t r c = blankCell
  composer : t.comp.items = [] ∧ t.comp.rendering = false ∧ t.comp.remark = false ∧ t.comp.displayOn = false
    ∧ t.comp.cursorBlink = false
  send : t.send.state = .none ∧ t.send.record = none ∧ t.send.block = [] ∧ t.send.readPos = 0
  receiver : t.line.fifo = [] ∧ t.line.buffer = [] ∧ t.line.handoff = none ∧ t.line.rxState = .hunt
    ∧ t.line.gapRunning = false
  transmitter : t.line.tx = .idle ∧ t.line.selection = none ∧ t.line.attempts = 0 ∧ driverEnabled t.line = false
  link : anyLinkFlag t.line.flags = false ∧ t.line.lastDropped = none ∧ t.line.loopback = false ∧ t.line.held = none
  shares : t.desk.table = [] ∧ t.desk.active = [] ∧ t.desk.tallies = []
  slot : t.desk.greet = true ∧ t.desk.flow = none
  messages : t.desk.messages = [] ∧ t.desk.inbound = [] ∧ t.desk.inboundLost = false ∧ t.desk.pauseSent = false
  stations : t.desk.paused = [] ∧ t.desk.banner = none ∧ t.desk.refresh = 0
  port : t.tp.phase = .starting ∧ t.tp.decoder = .idle ∧ t.tp.outcome = .none ∧ t.tp.stream = none
  causes : (∀ k, causePending t k = false) ∧ (∀ k, 1 ≤ k → k ≤ 7 → causeEnabled t k = true) ∧ attn t = true

end Sys2Proof.Machine
end

