-- ==== Sys2Proof/Laws/Keys.lean ====
section
/-!
SUPPORT. What a key that the Key Engine takes can reach, and for every key row one lemma that it reaches nothing else.
-/
namespace Sys2Proof.Machine

/-- What requests and drawing do to the Composer: items join without repeats and none is lost, the render in progress
and the options stand, and the image keeps its canonical form. -/
structure CompStep (c d : Composer) : Prop where
  nodup : c.items.Nodup → d.items.Nodup
  keeps : ∀ i ∈ c.items, i ∈ d.items
  rendering : d.rendering = c.rendering
  remark : (c.remark = true → c.rendering = true) → d.remark = true → d.rendering = true
  image : cellWf blankCell c.image = true → cellWf blankCell d.image = true
  options : d.displayOn = c.displayOn ∧ d.cursorBlink = c.cursorBlink

theorem CompStep.refl (c : Composer) : CompStep c c := ⟨id, fun _ => id, rfl, id, id, rfl, rfl⟩

theorem CompStep.trans {c d e : Composer} (h : CompStep c d) (g : CompStep d e) : CompStep c e :=
  ⟨fun x => g.nodup (h.nodup x), fun i x => g.keeps i (h.keeps i x), g.rendering.trans h.rendering,
    fun x => g.remark (h.remark x), fun x => g.image (h.image x),
    g.options.1.trans h.options.1, g.options.2.trans h.options.2⟩

theorem CompStep.request (c : Composer) (i : Item) : CompStep c (requestIn c i) := by
  refine ⟨requestIn_nodup c i, mem_requestIn_of_mem c i, ?_, ?_, ?_, ?_⟩
  all_goals rcases requestIn_cases c i with ⟨h, _, e⟩ | ⟨_, e⟩ | ⟨_, e⟩ <;> rw [e]
  · exact fun _ _ => h
  · exact id
  · exact id
  · exact id
  · exact id
  · exact id
  · exact ⟨rfl, rfl⟩
  · exact ⟨rfl, rfl⟩
  · exact ⟨rfl, rfl⟩

/-- `t` differs from `s` only in what the action of a key may change: edge causes, values and lines, the cursor, the Key
Engine but for its queue, the Composer by requests and drawing, the taken mark, the local contributions and the tally
set. The keyboard it leaves is the one before, ERROR or FREE. -/
structure KeyFrame (s t : State) : Prop where
  eq : t = { s with
    tp := { s.tp with edge := t.tp.edge }
    form := { s.form with vals := t.form.vals, lines := t.form.lines }
    cur := t.cur
    key := t.key
    comp := t.comp
    line := { s.line with taken := t.line.taken }
    desk := { s.desk with active := t.desk.active, tallies := t.desk.tallies } }
  comp : CompStep s.comp t.comp
  queue : t.key.queue = s.key.queue
  keyboard : t.key.keyboard = s.key.keyboard ∨ t.key.keyboard = .error ∨ t.key.keyboard = .free
  tallies : assocWf s.desk.tallies = true → assocWf t.desk.tallies = true
  active : assocWf s.desk.active = true → assocWf t.desk.active = true

/-- A state that differs as the equation says, with the same Composer, queue, keyboard and keyed lists. -/
theorem KeyFrame.ofEq {s t : State} (h : t = { s with
      tp := { s.tp with edge := t.tp.edge }
      form := { s.form with vals := t.form.vals, lines := t.form.lines }
      cur := t.cur
      key := t.key
      comp := t.comp
      line := { s.line with taken := t.line.taken }
      desk := { s.desk with active := t.desk.active, tallies := t.desk.tallies } })
    (hc : t.comp = s.comp) (hq : t.key.queue = s.key.queue) (hk : t.key.keyboard = s.key.keyboard)
    (ht : t.desk.tallies = s.desk.tallies) (ha : t.desk.active = s.desk.active) : KeyFrame s t :=
  ⟨h, hc ▸ .refl _, hq, .inl hk, fun x => ht ▸ x, fun x => ha ▸ x⟩

theorem KeyFrame.refl (s : State) : KeyFrame s s := .ofEq rfl rfl rfl rfl rfl rfl

theorem KeyFrame.trans {s t u : State} (h : KeyFrame s t) (g : KeyFrame t u) : KeyFrame s u := by
  refine ⟨?_, h.comp.trans g.comp, g.queue.trans h.queue, ?_, fun x => g.tallies (h.tallies x),
    fun x => g.active (h.active x)⟩
  · have e := g.eq
    rw [h.eq] at e
    exact e
  · rcases g.keyboard with e | e | e
    · rcases h.keyboard with f | f | f
      · exact .inl (e.trans f)
      · exact .inr (.inl (e.trans f))
      · exact .inr (.inr (e.trans f))
    · exact .inr (.inl e)
    · exact .inr (.inr e)

theorem request_frame (i : Item) (s : State) : KeyFrame s (request i s) :=
  ⟨rfl, .request s.comp i, rfl, .inl rfl, id, id⟩

theorem requestAll_frame (is : List Item) (s : State) : KeyFrame s (requestAll is s) := by
  induction is generalizing s with
  | nil => exact .refl s
  | cons i is ih => exact (request_frame i s).trans (ih _)

theorem pulseAlarm_frame (s : State) : KeyFrame s (pulseAlarm s) := .ofEq rfl rfl rfl rfl rfl rfl
theorem discardKey_frame (s : State) : KeyFrame s (discardKey s) := .ofEq rfl rfl rfl rfl rfl rfl
theorem dropEdit_frame (s : State) : KeyFrame s (dropEdit s) := .ofEq rfl rfl rfl rfl rfl rfl
theorem setCursorCol_frame (c : Nat) (s : State) : KeyFrame s (setCursorCol c s) := .ofEq rfl rfl rfl rfl rfl rfl

theorem insertKey_frame (s : State) : KeyFrame s (insertKey s) := ⟨rfl, .request s.comp _, rfl, .inl rfl, id, id⟩

theorem raiseError_frame (e : OpError) (s : State) : KeyFrame s (raiseError e s) :=
  ⟨rfl, .request s.comp _, rfl, .inr (.inl rfl), id, id⟩

@[simp] theorem plusStatus_nil : plusStatus [] = [.status] := rfl

@[simp] theorem mem_plusStatus (i : Item) (is : List Item) : i ∈ plusStatus is ↔ i ∈ is ∨ i = .status := by
  unfold plusStatus
  split <;> simp_all

/-- Everything an operator error does while no render is in progress (R87). -/
theorem raiseError_eq_errs (x : OpError) (s : State) (h : s.comp.rendering = false) :
    raiseError x s = errs x s.key.queue s := by
  have hr : requestIn s.comp .status = { s.comp with items := plusStatus s.comp.items } := by
    unfold requestIn plusStatus
    split
    · simp_all
    · split <;> rfl
  exact congrArg (fun c => { errs x s.key.queue s with comp := c }) hr

theorem clearError_frame (s : State) : KeyFrame s (clearError s) :=
  ⟨rfl, .request s.comp _, rfl, .inr (.inr rfl), id, id⟩

theorem drawRun_frame (r c : Nat) (cs : List Cell) (s : State) : KeyFrame s (drawRun r c cs s) :=
  ⟨rfl, ⟨id, fun _ => id, rfl, id, fun h => cellWf_writeRun h _ _, rfl, rfl⟩, rfl, .inl rfl, id, id⟩

theorem recompute_frame (lo n : Nat) (s : State) : KeyFrame s (recompute lo n s) :=
  ⟨rfl, .refl _, rfl, .inl rfl, id, fun h => assocWf_map h (fun p => localShare _ p.1)⟩

theorem drawInst_frame (i : Inst) (s : State) : KeyFrame s (drawInst i s) := by
  unfold drawInst
  split
  · exact drawRun_frame _ _ _ _
  · exact .refl s

theorem setBuffer_frame (i : Inst) (b : Text) (s : State) : KeyFrame s (setBuffer i b s) :=
  KeyFrame.trans (t := { s with key := { s.key with edit := some ⟨i, b⟩ } }) (.ofEq rfl rfl rfl rfl rfl rfl)
    (drawInst_frame _ _)

theorem requestInst_frame (i : Inst) (s : State) : KeyFrame s (requestInst i s) := by
  unfold requestInst
  split
  · exact request_frame _ _
  · exact .refl s

theorem placeAnnounce_frame (a : Announce) (n : Nat) (s : State) : KeyFrame s (placeAnnounce a n s) := by
  unfold placeAnnounce unmark
  split <;> exact ⟨rfl, .refl _, rfl, .inl rfl, fun h => assocWf_put h n a, id⟩

theorem placeAll_frame (a : Announce) (ts : List Nat) (s : State) : KeyFrame s (placeAll a ts s) := by
  induction ts generalizing s with
  | nil => exact .refl s
  | cons t ts ih => exact (placeAnnounce_frame a t s).trans (ih _)

theorem deskChange_frame (b s : State) : KeyFrame s (deskChange b s) := by
  unfold deskChange
  split <;> exact .ofEq rfl rfl rfl rfl rfl rfl

theorem handOn_frame (b s : State) : KeyFrame s (handOn b s) :=
  (requestAll_frame _ s).trans ((requestAll_frame _ _).trans ((placeAll_frame _ _ _).trans
    ((requestAll_frame _ _).trans (deskChange_frame _ _))))

theorem reckon_frame (b : State) (lo n : Nat) (s : State) : KeyFrame s (reckon b lo n s) :=
  (recompute_frame lo n s).trans (handOn_frame _ _)

theorem setInstValue_frame (i : Inst) (v : Value) (s : State) :
    KeyFrame s { s with form := setInstValue i v s.form } := by cases i <;> exact .ofEq rfl rfl rfl rfl rfl rfl

theorem placeCursor_frame (r c n : Nat) (s : State) : KeyFrame s (placeCursor r c n s) := by
  unfold placeCursor
  dsimp only
  have h1 : KeyFrame s { s with cur := { row := r, col := c, top := n } } := .ofEq rfl rfl rfl rfl rfl rfl
  repeat' split
  · exact (h1.trans (requestAll_frame _ _)).trans (request_frame _ _)
  · exact h1.trans (request_frame _ _)
  · exact h1.trans (requestAll_frame _ _)
  · exact h1

theorem writeForm_frame (m : Bool) (i : Inst) (v : Value) (s : State) : KeyFrame s (writeForm m i v s) := by
  cases m
  · exact setInstValue_frame i v s
  · cases i <;> exact .ofEq rfl rfl rfl rfl rfl rfl

theorem reckonIf_frame (c : Bool) (b : State) (i : Inst) (s : State) : KeyFrame s (reckonIf c b i s) := by
  cases c
  · exact .refl s
  · exact reckon_frame _ _ _ s

theorem requestIf_frame (c : Bool) (i : Inst) (s : State) : KeyFrame s (requestIf c i s) := by
  cases c
  · exact .refl s
  · exact requestInst_frame i s

theorem dropEditOn_frame (i : Inst) (s : State) : KeyFrame s (dropEditOn i s) := by
  unfold dropEditOn
  split
  · exact dropEdit_frame s
  · exact .refl s

theorem storeCompleted_frame (i : Inst) (v : Value) (s : State) : KeyFrame s (storeCompleted i v s) :=
  (writeForm_frame _ i v s).trans ((reckonIf_frame _ s i _).trans ((requestInst_frame i _).trans (dropEdit_frame _)))

theorem complete_frame {s t : State} (h : complete s = .ok t) : KeyFrame s t := by
  rcases complete_cases h with rfl | rfl | ⟨e, v, _, rfl⟩
  · exact .refl _
  · exact dropEdit_frame s
  · exact storeCompleted_frame _ _ _

theorem afterCompletion_frame {f : State → State} (hf : ∀ t, KeyFrame t (f t)) (s : State) :
    KeyFrame s (afterCompletion f s) := by
  rcases afterCompletion_cases f s with ⟨x, _, e⟩ | ⟨t, h, e⟩ <;> rw [e]
  · exact raiseError_frame x s
  · exact (complete_frame h).trans (hf t)

theorem doMove_frame (m : Move) (s : State) : KeyFrame s (doMove m s) := by
  rcases doMove_cases m s with ⟨_, e⟩ | ⟨r, c, n, _, e | e⟩ <;> rw [e]
  · exact pulseAlarm_frame s
  · exact afterCompletion_frame (placeCursor_frame r c n) s
  · exact placeCursor_frame r c n s

theorem actTab_frame (s : State) : KeyFrame s (actTab s) := doMove_frame _ s

theorem advance_frame (sh : Shape) (c0 p : Nat) (s : State) : KeyFrame s (advance sh c0 p s) := by
  unfold advance
  split
  · exact setCursorCol_frame _ _
  · split
    · exact actTab_frame s
    · exact .refl s

theorem textKey_frame (i : Inst) (sh : Shape) (c0 : Nat) (b : Byte) (s : State) :
    KeyFrame s (textKey i sh c0 b s) := by
  unfold textKey
  dsimp only
  repeat' split
  · exact (setBuffer_frame _ _ _).trans (raiseError_frame _ _)
  · exact (setBuffer_frame _ _ _).trans (raiseError_frame _ _)
  · exact (setBuffer_frame _ _ _).trans (advance_frame _ _ _ _)
  · exact (setBuffer_frame _ _ _).trans (advance_frame _ _ _ _)

theorem numberKey_frame (i : Inst) (sh : Shape) (c0 : Nat) (b : Byte) (s : State) :
    KeyFrame s (numberKey i sh c0 b s) := by
  unfold numberKey
  dsimp only
  repeat' split
  · exact (setBuffer_frame _ _ _).trans (raiseError_frame _ _)
  · exact ((setBuffer_frame _ _ _).trans (setCursorCol_frame _ _)).trans (actTab_frame _)
  · exact (setBuffer_frame _ _ _).trans (setCursorCol_frame _ _)

theorem dataKey_frame (b : Byte) (s : State) : KeyFrame s (dataKey b s) := by
  unfold dataKey
  split
  · exact raiseError_frame _ _
  · split
    · exact numberKey_frame _ _ _ _ _
    · exact textKey_frame _ _ _ _ _

theorem numberBackspace_frame (i : Inst) (sh : Shape) (c0 : Nat) (s : State) :
    KeyFrame s (numberBackspace i sh c0 s) := by
  unfold numberBackspace
  dsimp only
  split
  · exact pulseAlarm_frame s
  · exact (setBuffer_frame _ _ _).trans (setCursorCol_frame _ _)

theorem backspaceKey_frame (s : State) : KeyFrame s (backspaceKey s) := by
  unfold backspaceKey
  dsimp only
  repeat' split
  all_goals first
    | exact raiseError_frame _ _
    | exact numberBackspace_frame _ _ _ _
    | exact pulseAlarm_frame _
    | exact (setBuffer_frame _ _ _).trans (setCursorCol_frame _ _)

theorem deleteKey_frame (s : State) : KeyFrame s (deleteKey s) := by
  unfold deleteKey
  repeat' split
  all_goals first
    | exact raiseError_frame _ _
    | exact numberBackspace_frame _ _ _ _
    | exact setBuffer_frame _ _ _

theorem clearToEndKey_frame (s : State) : KeyFrame s (clearToEndKey s) := by
  unfold clearToEndKey
  repeat' split
  all_goals first
    | exact raiseError_frame _ _
    | exact (setBuffer_frame _ _ _).trans (setCursorCol_frame _ _)

theorem abandonEdit_frame (s : State) : KeyFrame s (abandonEdit s) := by
  unfold abandonEdit
  split
  · exact (dropEdit_frame s).trans (requestInst_frame _ _)
  · exact .refl s

theorem clearEntries_frame (m : Bool) (s : State) : KeyFrame s (clearEntries m s) := by
  unfold clearEntries
  dsimp only
  refine (abandonEdit_frame s).trans ?_
  refine KeyFrame.trans (t := recompute 0 (abandonEdit s).form.d
    { abandonEdit s with form := clearedForm m (abandonEdit s).form }) ?_ ?_
  · exact KeyFrame.trans (t := { abandonEdit s with form := clearedForm m (abandonEdit s).form })
      (.ofEq rfl rfl rfl rfl rfl rfl) (recompute_frame _ _ _)
  exact (requestAll_frame _ _).trans ((requestAll_frame _ _).trans ((placeAll_frame _ _ _).trans
    ((requestAll_frame _ _).trans ((deskChange_frame _ _).trans (requestAll_frame _ _)))))

theorem clearAllKey_frame (s : State) : KeyFrame s (clearAllKey s) :=
  (clearEntries_frame true s).trans (placeCursor_frame _ _ _ _)

theorem repeatAboveKey_frame (s : State) : KeyFrame s (repeatAboveKey s) := by
  unfold repeatAboveKey
  split
  · split
    · exact raiseError_frame _ _
    · exact raiseError_frame _ _
    · exact (dropEdit_frame s).trans ((writeForm_frame _ _ _ _).trans ((reckonIf_frame _ _ _ _).trans
        ((request_frame _ _).trans (actTab_frame _))))
  · exact raiseError_frame _ _

theorem toFirstStop_frame (s : State) : KeyFrame s (toFirstStop s) := by
  unfold toFirstStop
  split
  · exact .refl s
  · exact placeCursor_frame _ _ _ _

theorem linesMoved_frame (l : Nat) (new : List LineRec) (s : State) : KeyFrame s (linesMoved l new s) := by
  refine KeyFrame.trans (t := { s with form := { s.form with lines := new } }) (.ofEq rfl rfl rfl rfl rfl rfl) ?_
  exact (reckon_frame _ _ _ _).trans ((requestAll_frame _ _).trans (toFirstStop_frame _))

theorem insertLine_frame (l : Nat) (s : State) : KeyFrame s (insertLine l s) := by
  unfold insertLine
  split
  · exact raiseError_frame _ _
  · exact linesMoved_frame _ _ _

theorem deleteLine_frame (l : Nat) (s : State) : KeyFrame s (deleteLine l s) := linesMoved_frame _ _ _

theorem lineKey_frame {f : Nat → State → State} (hf : ∀ l t, KeyFrame t (f l t)) (s : State) :
    KeyFrame s (lineKey f s) := by
  unfold lineKey
  split
  · exact raiseError_frame _ _
  · exact afterCompletion_frame (hf _) s

theorem placeOn_frame (i : Inst) (s : State) : KeyFrame s (placeOn i s) := by
  unfold placeOn
  split
  · exact placeCursor_frame _ _ _ _
  · exact .refl s

/-- A key whose action keeps the frame: it is not taken, or it leaves the queue and its action, or the ALARM of ERROR,
follows; then the command ends. -/
theorem takeKey_frame {k : Key} {act : Byte → State → State} (ha : ∀ b u, KeyFrame u (act b u)) {s t : State}
    (h : takeKey k act s = .next t) :
    t = s ∨ ∃ b q u, s.key.queue = b :: q ∧ canTake s = true ∧ KeyFrame (setQueue q s) u ∧ t = settle u := by
  rcases takeKey_cases h with rfl | ⟨b, q, hq, hc, _, ⟨_, rfl⟩ | ⟨_, rfl⟩⟩
  · exact .inl rfl
  · exact .inr ⟨b, q, _, hq, hc, discardKey_frame _, rfl⟩
  · exact .inr ⟨b, q, _, hq, hc, ha b _, rfl⟩

theorem execReset_frame {s t : State} (h : execReset s = .next t) :
    t = s ∨ ∃ b q u, s.key.queue = b :: q ∧ canTake s = true ∧ KeyFrame (setQueue q s) u ∧ t = settle u := by
  rcases execReset_cases h with rfl | ⟨b, q, hq, hc, _, ⟨_, rfl⟩ | ⟨_, rfl⟩⟩
  · exact .inl rfl
  · exact .inr ⟨b, q, _, hq, hc, clearError_frame _, rfl⟩
  · exact .inr ⟨b, q, _, hq, hc, .refl _, rfl⟩

/-! ## Rows -/

/-- Every key row but SEND and the signal keys: it is not taken, or its action keeps the frame and the command ends. -/
theorem keyRow_frame {i : Instr} {k : Key} {s t : State} (hk : keyRowOf i = some k) (h1 : k ≠ .send) (h2 : k ≠ .signal)
    (h : exec i s = .next t) :
    t = s ∨ ∃ b q u, s.key.queue = b :: q ∧ canTake s = true ∧ KeyFrame (setQueue q s) u ∧ t = settle u := by
  cases i <;> simp only [keyRowOf, Option.some.injEq, reduceCtorEq] at hk <;> subst hk
  case send => exact absurd rfl h1
  case signalKey => exact absurd rfl h2
  case reset => exact execReset_frame h
  case dataKey => exact takeKey_frame dataKey_frame h
  case tab => exact takeKey_frame (fun _ t => doMove_frame _ t) h
  case backtab => exact takeKey_frame (fun _ t => doMove_frame _ t) h
  case home => exact takeKey_frame (fun _ t => doMove_frame _ t) h
  case newline => exact takeKey_frame (fun _ t => doMove_frame _ t) h
  case left => exact takeKey_frame (fun _ t => doMove_frame _ t) h
  case right => exact takeKey_frame (fun _ t => doMove_frame _ t) h
  case up => exact takeKey_frame (fun _ t => doMove_frame _ t) h
  case down => exact takeKey_frame (fun _ t => doMove_frame _ t) h
  case pageForward => exact takeKey_frame (fun _ t => doMove_frame _ t) h
  case pageBack => exact takeKey_frame (fun _ t => doMove_frame _ t) h
  case backspace => exact takeKey_frame (fun _ t => backspaceKey_frame t) h
  case delete => exact takeKey_frame (fun _ t => deleteKey_frame t) h
  case insert => exact takeKey_frame (fun _ t => insertKey_frame t) h
  case clearToEnd => exact takeKey_frame (fun _ t => clearToEndKey_frame t) h
  case clearAll => exact takeKey_frame (fun _ t => clearAllKey_frame t) h
  case repeatAbove => exact takeKey_frame (fun _ t => repeatAboveKey_frame t) h
  case lineInsert => exact takeKey_frame (fun _ t => lineKey_frame insertLine_frame t) h
  case lineDelete => exact takeKey_frame (fun _ t => lineKey_frame deleteLine_frame t) h

/-- What SEND does after its completion: E06 with the cursor on the offender, or the assembly begins (R125, R126). -/
theorem sendChecked_cases (s : State) :
    KeyFrame s (sendChecked s) ∨ sendChecked s = beginAssembly sendCode s := by
  unfold sendChecked
  split
  · exact .inl ((placeOn_frame _ _).trans (raiseError_frame _ _))
  · exact .inr rfl

/-- SEND and the signal keys: not taken, an action that keeps the frame, or an assembly begun from a state in the frame. -/
theorem sendRow_cases {i : Instr} {s t : State} (hi : i = .send ∨ i = .signalKey) (h : exec i s = .next t) :
    t = s ∨ ∃ b q u, s.key.queue = b :: q ∧ canTake s = true ∧ KeyFrame (setQueue q s) u ∧
      (t = settle u ∨ ∃ code, t = settle (beginAssembly code u)) := by
  rcases hi with rfl | rfl
  · rcases takeKey_cases (show takeKey .send (fun _ t => afterCompletion sendChecked t) s = .next t from h) with rfl | ⟨b, q, hq, hc, _, ⟨_, rfl⟩ | ⟨_, rfl⟩⟩
    · exact .inl rfl
    · exact .inr ⟨b, q, _, hq, hc, discardKey_frame _, .inl rfl⟩
    · rcases afterCompletion_cases sendChecked (setQueue q s) with ⟨x, _, e⟩ | ⟨u, hu, e⟩
      · exact .inr ⟨b, q, _, hq, hc, raiseError_frame x _, .inl (by rw [e])⟩
      · rcases sendChecked_cases u with f | f
        · exact .inr ⟨b, q, _, hq, hc, (complete_frame hu).trans f, .inl (by rw [e])⟩
        · exact .inr ⟨b, q, u, hq, hc, complete_frame hu, .inr ⟨sendCode, by rw [e, f]⟩⟩
  · rcases takeKey_cases (show takeKey .signal (fun b t => beginAssembly b (abandonEdit t)) s = .next t from h) with rfl | ⟨b, q, hq, hc, _, ⟨_, rfl⟩ | ⟨_, rfl⟩⟩
    · exact .inl rfl
    · exact .inr ⟨b, q, _, hq, hc, discardKey_frame _, .inl rfl⟩
    · exact .inr ⟨b, q, _, hq, hc, abandonEdit_frame _, .inr ⟨b, rfl⟩⟩

/-- An accepted system write keeps the frame of a key (R36 to R38). -/
theorem storeSystem_frame (i : Inst) (sh : Shape) (m : Bool) (v : Value) (s : State) :
    KeyFrame s (storeSystem i sh m v s) :=
  (dropEditOn_frame i s).trans ((writeForm_frame _ i v _).trans ((reckonIf_frame _ s i _).trans (requestIf_frame _ i _)))

theorem abandonedItem_frame (b s : State) : KeyFrame s (abandonedItem b s) := by
  unfold abandonedItem
  split
  · exact requestInst_frame _ s
  · exact .refl s

/-- CURSOR SET and WINDOW SET keep the frame of a key (R44, R46). -/
theorem abandonAndPlace_frame (r c n : Nat) (s : State) : KeyFrame s (abandonAndPlace r c n s) :=
  (dropEdit_frame s).trans ((placeCursor_frame r c n _).trans (abandonedItem_frame s _))

end Sys2Proof.Machine
end

