-- ==== Sys2Proof/WellFormed.lean ====
section
/-!
DEFINITION. Well-formed commands: what the types of a command's operands leave open and the spec does not. An ill-formed
term names no command of the block.
-/
namespace Sys2Proof

open Machine

/-- The bytes of a frame that R181 calls abandoned or that has an unknown code: not a frame whose order acts. -/
def frameUnfinished (bytes : List Byte) (part : Bool) : Bool :=
  match bytes with
  | [] => true
  | code :: rest =>
    match argCount code with
    | none => true
    | some k => part || decide (rest.length < k)

/-- The checks of a command's operands: an unknown order code is not in the order table (R182), an abandoned frame is
unfinished (R181), a tag report has a selector other than 0 (R157, R166), a table entry has a tag of 1 to 8 and a
source of 0 to 29 (R164), a paused station is 0 to 29 (R176). -/
def wellFormed : Instr → Bool
  | .unknownOrderCode code _ => (argCount code).isNone
  | .frameAbandoned bytes part => frameUnfinished bytes part
  | .deskReadTagReport sel _ => sel ≠ 0
  | .contributionAgeOut tag source => oneTo 8 tag && decide (source < firstListenOnly)
  | .holdTimerExpiry station => decide (station < firstListenOnly)
  | .frameOpen | .statusRead _ | .causeRead _ | .causeEnable _ _ | .displaySet _ _ | .loopbackSet _ _ | .softReset _
  | .formBegin _ _ _ _ | .fieldDefine _ _ _ _ _ _ _ _ _ _ _ | .fieldDrop _ _ | .columnDefine _ _ _ _ _ _ _ _ _ _
  | .columnDrop _ _ | .labelWrite _ _ _ _ _ _ _ _ | .formEnd _ | .fieldWrite _ _ _ _ _ | .cellWrite _ _ _ _ _ _
  | .streamBegin _ _ | .streamNext _ _ | .fieldRead _ _ | .cellRead _ _ _ | .entriesClear _ | .cursorSet _ _ _ _
  | .cursorRead _ | .windowSet _ _ | .key _ | .blockRead _ | .release _ _ | .reject _ _ _ _ _ | .passSend _ _ _
  | .bannerSend _ _ | .passRead _ | .deskReadLinkStatus _ | .dataKey | .tab | .backtab | .home | .newline | .left
  | .right | .up | .down | .pageForward | .pageBack | .backspace | .delete | .insert | .clearToEnd | .clearAll
  | .repeatAbove | .lineInsert | .lineDelete | .reset | .send | .signalKey | .assemblyComplete | .renderComplete
  | .alarmTimerExpiry | .powerOn | .resetnAsserted | .resetnReleased _ _ | .supplySteady _ _ | .startUpComplete
  | .characterReceived _ _ _ | .breakDetected | .receiveListenComplete | .gapTimerExpiry | .frameAssemblerCharacter
  | .greet | .tally | .retract | .banner | .pass | .pause | .resume | .joinListenComplete | .accessGapReached
  | .frameSent | .collision | .backoffComplete | .yieldComplete | .deskTick | .refresh | .bannerExpiry | .startBit
  | .lineHighAfterBreak => true

end Sys2Proof
end

