-- ==== Sys2Proof/Laws/PerInstr.lean ====
section
/-!
SUPPORT. The family OrderFrame: an order's frame is whole, which is said of each command of the block.
-/
namespace Sys2Proof.Laws.OrderFrame

/-- The frame of an order starts with a code of the order table and holds every fixed argument of its order, so the
decoder does not call it abandoned (R179, R181, R184, R194). -/
def Statement (i : Instr) : Prop := ∀ bytes, frameOf i = some bytes → frameUnfinished bytes false = false

/-- A command that is no order has no frame. -/
theorem of_none {i : Instr} (h : frameOf i = none) : Statement i := fun bytes hb => by simp [h] at hb

/-- A frame with a known code and at least its arguments is whole. -/
theorem of_some {i : Instr} {code : Byte} {rest : List Byte} {k : Nat} (h : frameOf i = some (code :: rest))
    (hc : Machine.argCount code = some k) (hk : k ≤ rest.length) : Statement i := fun bytes hb => by
  rw [h] at hb
  cases hb
  simp [frameUnfinished, hc, hk]

theorem frameOpen : Statement .frameOpen := of_none rfl
theorem frameAbandoned (bytes : List Byte) (part : Bool) : Statement (.frameAbandoned bytes part) := of_none rfl
theorem unknownOrderCode (code : Byte) (bytes : List Byte) : Statement (.unknownOrderCode code bytes) := of_none rfl
theorem statusRead (n : Nat) : Statement (.statusRead n) := of_some rfl rfl (by simp)
theorem causeRead (n : Nat) : Statement (.causeRead n) := of_some rfl rfl (by simp)
theorem causeEnable (set : Byte) (ignored : Nat) : Statement (.causeEnable set ignored) := of_some rfl rfl (by simp)
theorem displaySet (opts : Byte) (ignored : Nat) : Statement (.displaySet opts ignored) := of_some rfl rfl (by simp)
theorem loopbackSet (opts : Byte) (ignored : Nat) : Statement (.loopbackSet opts ignored) := of_some rfl rfl (by simp)
theorem softReset (ignored : Nat) : Statement (.softReset ignored) := of_some rfl rfl (by simp)
theorem formBegin (h : Byte) (w : Byte) (d : Byte) (ignored : Nat) : Statement (.formBegin h w d ignored) := of_some rfl rfl (by simp)
theorem fieldDefine (number : Byte) (row : Byte) (col : Byte) (length : Byte) (kind : Byte) (decimals : Byte) (form : Byte) (attrs : Byte) (sumCol : Byte) (tag : Byte) (ignored : Nat) : Statement (.fieldDefine number row col length kind decimals form attrs sumCol tag ignored) := of_some rfl rfl (by simp)
theorem fieldDrop (number : Byte) (ignored : Nat) : Statement (.fieldDrop number ignored) := of_some rfl rfl (by simp)
theorem columnDefine (number : Byte) (col : Byte) (length : Byte) (kind : Byte) (decimals : Byte) (form : Byte) (attrs : Byte) (opA : Byte) (opB : Byte) (ignored : Nat) : Statement (.columnDefine number col length kind decimals form attrs opA opB ignored) := of_some rfl rfl (by simp)
theorem columnDrop (number : Byte) (ignored : Nat) : Statement (.columnDrop number ignored) := of_some rfl rfl (by simp)
theorem labelWrite (plane : Byte) (r0 : Byte) (c0 : Byte) (r1 : Byte) (c1 : Byte) (direction : Byte) (format : Byte) (data : List Byte) : Statement (.labelWrite plane r0 c0 r1 c1 direction format data) := of_some rfl rfl (by simp)
theorem formEnd (ignored : Nat) : Statement (.formEnd ignored) := of_some rfl rfl (by simp)
theorem fieldWrite (field : Byte) (mode : Byte) (start : Byte) (format : Byte) (data : List Byte) : Statement (.fieldWrite field mode start format data) := of_some rfl rfl (by simp)
theorem cellWrite (line : Byte) (col : Byte) (mode : Byte) (start : Byte) (format : Byte) (data : List Byte) : Statement (.cellWrite line col mode start format data) := of_some rfl rfl (by simp)
theorem streamBegin (field : Byte) (ignored : Nat) : Statement (.streamBegin field ignored) := of_some rfl rfl (by simp)
theorem streamNext (format : Byte) (data : List Byte) : Statement (.streamNext format data) := of_some rfl rfl (by simp)
theorem fieldRead (field : Byte) (n : Nat) : Statement (.fieldRead field n) := of_some rfl rfl (by simp)
theorem cellRead (line : Byte) (col : Byte) (n : Nat) : Statement (.cellRead line col n) := of_some rfl rfl (by simp)
theorem entriesClear (ignored : Nat) : Statement (.entriesClear ignored) := of_some rfl rfl (by simp)
theorem cursorSet (form : Byte) (a : Byte) (b : Byte) (ignored : Nat) : Statement (.cursorSet form a b ignored) := of_some rfl rfl (by simp)
theorem cursorRead (n : Nat) : Statement (.cursorRead n) := of_some rfl rfl (by simp)
theorem windowSet (t : Byte) (ignored : Nat) : Statement (.windowSet t ignored) := of_some rfl rfl (by simp)
theorem key (codes : List Byte) : Statement (.key codes) := of_some rfl rfl (by simp)
theorem blockRead (n : Nat) : Statement (.blockRead n) := of_some rfl rfl (by simp)
theorem release (opts : Byte) (ignored : Nat) : Statement (.release opts ignored) := of_some rfl rfl (by simp)
theorem reject (code : Byte) (form : Byte) (a : Byte) (b : Byte) (message : List Byte) : Statement (.reject code form a b message) := of_some rfl rfl (by simp)
theorem passSend (dest : Byte) (format : Byte) (data : List Byte) : Statement (.passSend dest format data) := of_some rfl rfl (by simp)
theorem bannerSend (format : Byte) (data : List Byte) : Statement (.bannerSend format data) := of_some rfl rfl (by simp)
theorem passRead (n : Nat) : Statement (.passRead n) := of_some rfl rfl (by simp)
theorem deskReadLinkStatus (n : Nat) : Statement (.deskReadLinkStatus n) := of_some rfl rfl (by simp)
theorem deskReadTagReport (sel : Byte) (n : Nat) : Statement (.deskReadTagReport sel n) := of_some rfl rfl (by simp)
theorem dataKey : Statement .dataKey := of_none rfl
theorem tab : Statement .tab := of_none rfl
theorem backtab : Statement .backtab := of_none rfl
theorem home : Statement .home := of_none rfl
theorem newline : Statement .newline := of_none rfl
theorem left : Statement .left := of_none rfl
theorem right : Statement .right := of_none rfl
theorem up : Statement .up := of_none rfl
theorem down : Statement .down := of_none rfl
theorem pageForward : Statement .pageForward := of_none rfl
theorem pageBack : Statement .pageBack := of_none rfl
theorem backspace : Statement .backspace := of_none rfl
theorem delete : Statement .delete := of_none rfl
theorem insert : Statement .insert := of_none rfl
theorem clearToEnd : Statement .clearToEnd := of_none rfl
theorem clearAll : Statement .clearAll := of_none rfl
theorem repeatAbove : Statement .repeatAbove := of_none rfl
theorem lineInsert : Statement .lineInsert := of_none rfl
theorem lineDelete : Statement .lineDelete := of_none rfl
theorem reset : Statement .reset := of_none rfl
theorem send : Statement .send := of_none rfl
theorem signalKey : Statement .signalKey := of_none rfl
theorem assemblyComplete : Statement .assemblyComplete := of_none rfl
theorem renderComplete : Statement .renderComplete := of_none rfl
theorem alarmTimerExpiry : Statement .alarmTimerExpiry := of_none rfl
theorem powerOn : Statement .powerOn := of_none rfl
theorem resetnAsserted : Statement .resetnAsserted := of_none rfl
theorem resetnReleased (stn : Station) (rate : Rate) : Statement (.resetnReleased stn rate) := of_none rfl
theorem supplySteady (stn : Station) (rate : Rate) : Statement (.supplySteady stn rate) := of_none rfl
theorem startUpComplete : Statement .startUpComplete := of_none rfl
theorem characterReceived (data : Byte) (mark : Bool) (framing : Bool) : Statement (.characterReceived data mark framing) := of_none rfl
theorem breakDetected : Statement .breakDetected := of_none rfl
theorem receiveListenComplete : Statement .receiveListenComplete := of_none rfl
theorem gapTimerExpiry : Statement .gapTimerExpiry := of_none rfl
theorem frameAssemblerCharacter : Statement .frameAssemblerCharacter := of_none rfl
theorem greet : Statement .greet := of_none rfl
theorem tally : Statement .tally := of_none rfl
theorem retract : Statement .retract := of_none rfl
theorem banner : Statement .banner := of_none rfl
theorem pass : Statement .pass := of_none rfl
theorem pause : Statement .pause := of_none rfl
theorem resume : Statement .resume := of_none rfl
theorem joinListenComplete : Statement .joinListenComplete := of_none rfl
theorem accessGapReached : Statement .accessGapReached := of_none rfl
theorem frameSent : Statement .frameSent := of_none rfl
theorem collision : Statement .collision := of_none rfl
theorem backoffComplete : Statement .backoffComplete := of_none rfl
theorem yieldComplete : Statement .yieldComplete := of_none rfl
theorem deskTick : Statement .deskTick := of_none rfl
theorem contributionAgeOut (tag : Nat) (source : Nat) : Statement (.contributionAgeOut tag source) := of_none rfl
theorem refresh : Statement .refresh := of_none rfl
theorem holdTimerExpiry (station : Nat) : Statement (.holdTimerExpiry station) := of_none rfl
theorem bannerExpiry : Statement .bannerExpiry := of_none rfl
theorem startBit : Statement .startBit := of_none rfl
theorem lineHighAfterBreak : Statement .lineHighAfterBreak := of_none rfl

end Sys2Proof.Laws.OrderFrame
end

