-- ==== Sys2Proof/Certificates/Slice0/Obligations.lean ====
section
/-!
DEFINITION. The statements for the provers. `framed` is the state after an order's frame, `settle` the end of a command
(a render begins, an idle transmitter asks), which `CommandEndsWithRenderAndRequest` states; a result written
`settle { s with … }` leaves everything else of the state as it was.
-/

open Sys2Proof Sys2Proof.Machine

/-! ## The queue of commands, resets and start-up -/

/-- A step runs the command at the front of the queue on the machine with the queue's rest; with none the block idles
(the model's choice, notes/assumptions/5.md). -/
def Obligations.StepRunsFrontCommand : Prop :=
  (∀ (c : Instr) (s : State), step { s with pending := c :: s.pending } = exec c s) ∧
  (∀ s : State, s.pending = [] → step s = .next s)

/-- Every command answers a next state in every state and leaves the queue of waiting commands alone; that an event which
cannot happen in a state changes nothing is the model's choice (notes/assumptions/3.md). -/
def Obligations.EveryCommandAnswers : Prop :=
  ∀ (c : Instr) (s : State), ∃ t, exec c s = .next t ∧ t.pending = s.pending

/-- The sound states of Safety.lean hold right after reset. -/
def Obligations.ResetIsSound : Prop :=
  QueuesBounded State.reset ∧ LockAgrees State.reset ∧ RepaintSound State.reset ∧ StartSound State.reset ∧
  MemoriesSound State.reset ∧ DeskSound State.reset ∧ CursorSound State.reset ∧ BlocksReset State.reset ∧
  RecordsSound State.reset ∧ Reckoned State.reset

/-- Each of the three resets leaves every block as its chapter says; they differ in the straps and in start-up only.
What stays of RESETN and the supply is the model's choice (notes/assumptions/18.md). -/
def Obligations.ResetsClearEveryBlock : Prop :=
  ∀ (n : Nat) (s : State),
    (∃ t, exec .powerOn s = .next t ∧ BlocksReset t ∧ t.tp.resetnLow = s.tp.resetnLow ∧
      t.tp.supplySteady = false ∧ t.tp.clearing = false ∧ t.tp.awaitHigh = true ∧ t.line.listenOnly = false) ∧
    (∃ t, exec .resetnAsserted s = .next t ∧ BlocksReset t ∧ t.tp.resetnLow = true ∧
      t.tp.supplySteady = s.tp.supplySteady ∧ t.tp.clearing = false ∧ t.tp.awaitHigh = true ∧
      t.line.listenOnly = false) ∧
    (s.tp.phase = .ready → ∃ t, exec (.softReset n) s = .next t ∧ BlocksReset t ∧ t.tp.clearing = true ∧
      t.tp.sdo = List.replicate (1 + n) 0 ∧
      t.line.station = s.line.station ∧ t.line.rate = s.line.rate ∧ t.line.listenOnly = s.line.listenOnly)

/-- The straps are sampled when the clearing begins, and the completion of the clearing makes the device READY with
STARTED raised and STATUS requested. The rows carry the straps by the model's choice (notes/assumptions/18.md). -/
def Obligations.StartUpSequence : Prop :=
  ∀ (s : State) (stn : Station) (rate : Rate),
    let sampled := { s.line with station := stn, rate := rate, listenOnly := decide (30 ≤ stn.toNat) }
    (s.tp.resetnLow = true → s.tp.supplySteady = true → exec (.resetnReleased stn rate) s =
      .next { s with tp := { s.tp with resetnLow := false, clearing := true }, line := sampled }) ∧
    (s.tp.resetnLow = true → s.tp.supplySteady = false → exec (.resetnReleased stn rate) s =
      .next { s with tp := { s.tp with resetnLow := false } }) ∧
    (s.tp.phase = .starting → s.tp.supplySteady = false → s.tp.resetnLow = false → exec (.supplySteady stn rate) s =
      .next { s with tp := { s.tp with supplySteady := true, clearing := true }, line := sampled }) ∧
    (s.tp.phase = .starting → s.tp.supplySteady = false → s.tp.resetnLow = true → exec (.supplySteady stn rate) s =
      .next { s with tp := { s.tp with supplySteady := true } }) ∧
    (s.tp.phase = .starting → s.tp.clearing = true → ∃ t, exec .startUpComplete s = .next t ∧
      t.tp = { s.tp with phase := .ready, clearing := false, edge := { s.tp.edge with started := true } } ∧
      Item.status ∈ t.comp.items ∧ t.line = { s.line with rxOpen := false, joined := false } ∧
      t.form = s.form ∧ t.cur = s.cur ∧ t.key = s.key ∧ t.send = s.send ∧ t.desk = s.desk ∧
      causePending t 3 = true ∧ (causeEnabled t 3 = true → attn t = false))

/-! ## The end of a command -/

/-- A render begins exactly when the repaint list is not empty, and an IDLE transmitter that may ask enters DEFER with
the arbiter's selection, the access gap of 33 + n bit times ahead of it, or stays in IDLE. That both
come about at the end of a command is the model's reading (notes/assumptions/12.md). -/
def Obligations.CommandEndsWithRenderAndRequest : Prop :=
  ∀ s : State,
    let r := { s with comp := { s.comp with rendering := !s.comp.items.isEmpty } }
    let asks := s.tp.phase = .ready ∧ s.line.joined = true ∧ s.line.listenOnly = false ∧ s.line.tx = .idle
    (¬asks → settle s = r) ∧
    (asks → ∀ p, arbiter s.desk = some p → settle s = { r with
      line := { s.line with tx := .defer, need := 33 + s.line.station.toNat, selection := some p, taken := false } }) ∧
    (asks → arbiter s.desk = none → settle s = { r with
      line := { s.line with tx := .idle, need := 0, selection := none, taken := false } })

/-- The transmit arbiter looks at the GREET flag, the flow announcement, the lowest tag of the tally set and the first
message that is not a PASS to a paused station, in this order. -/
def Obligations.ArbiterPrecedence : Prop :=
  ∀ d : DeskExchange,
    (d.greet = true → arbiter d = some .greet) ∧
    (d.greet = false → d.flow ≠ none → arbiter d = some .flow) ∧
    (d.greet = false → d.flow = none → assocWf d.tallies = true → ∀ t a, assocGet d.tallies t = some a →
      (∀ t' a', assocGet d.tallies t' = some a' → t ≤ t') → arbiter d = some (.tag t)) ∧
    (d.greet = false → d.flow = none → d.tallies = [] → ∀ i m, d.messages[i]? = some m → heldMessage d m = false →
      (∀ j m', j < i → d.messages[j]? = some m' → heldMessage d m' = true) → arbiter d = some (.message i)) ∧
    (d.greet = false → d.flow = none → d.tallies = [] → (∀ m ∈ d.messages, heldMessage d m = true) →
      arbiter d = none)

/-! ## The TP port -/

/-- A frame whose order code is not in the order table ends UNKNOWN, whole or not, in either phase, and ends any
stream. -/
def Obligations.UnknownCodeEndsUnknown : Prop :=
  ∀ (code : Byte) (bytes : List Byte) (part : Bool) (s : State), argCount code = none →
    exec (.unknownOrderCode code bytes) s =
      .next (settle (framed .unknown (List.replicate (1 + bytes.length) 0) s)) ∧
    exec (.frameAbandoned (code :: bytes) part) s =
      .next (settle (framed .unknown (List.replicate (1 + bytes.length) 0) s))

/-- An unfinished frame of a known order records ABANDONED, except for STATUS READ and CAUSE READ, and changes nothing
but the effects made byte by byte: KEY bytes offered, the read position advanced. A frame without a whole order code
keeps the stream, and one without an SCLK edge records nothing. Which bytes SDO drove is left open here. -/
def Obligations.AbandonedFramesDoNotAct : Prop :=
  ∀ (code : Byte) (rest : List Byte) (part : Bool) (k : Nat) (s : State),
    argCount code = some k → part = true ∨ rest.length < k →
    (code ∉ ([0x11, 0x12, 0x41, 0x51, 0x64] : List Byte) → ∃ sdo, exec (.frameAbandoned (code :: rest) part) s =
      .next (settle { framed .abandoned sdo s with
        tp := { (framed .abandoned sdo s).tp with stream := if code = 0x34 then s.tp.stream else none } })) ∧
    (code = 0x41 → s.tp.phase = .ready → ∃ sdo, exec (.frameAbandoned (code :: rest) part) s =
      .next (settle (framed .abandoned sdo (offerKeys rest s)))) ∧
    (code = 0x51 → s.tp.phase = .ready → s.send.state = .ready → ∃ sdo,
      exec (.frameAbandoned (code :: rest) part) s =
        .next (settle (framed .abandoned sdo { s with
          send := { s.send with readPos := min (s.send.readPos + rest.length) s.send.block.length } }))) ∧
    (code = 0x12 → rest = [] → ∃ t, exec (.frameAbandoned (code :: rest) part) s = .next t ∧
      t.tp.edge = s.tp.edge ∧ t.tp.outcome = s.tp.outcome ∧ t.tp.stream = s.tp.stream) ∧
    (exec (.frameAbandoned [] true) s = .next (settle { s with
      tp := { s.tp with decoder := .idle, awaitHigh := false, sdo := [], outcome := .abandoned } })) ∧
    (exec (.frameAbandoned [] false) s = .next (settle { s with
      tp := { s.tp with decoder := .idle, awaitHigh := false, sdo := [] } }))

/-- STATUS READ drives the four status bytes, laid out bit by bit, clears the typeahead-lost flag with its third byte
and the inbound-lost flag with its fourth, and changes nothing else. The reply of CAUSE READ is one byte, 0 to 7. -/
def Obligations.StatusReadReportsAndClears : Prop :=
  ∀ (n : Nat) (s : State), s.key.queue.length ≤ 16 →
    ∃ b1 b2 b3 b4 : Byte,
      exec (.statusRead n) s = .next (settle { s with
        tp := { s.tp with decoder := .idle, awaitHigh := false
                          sdo := 0 :: ([b1, b2, b3, b4] ++ List.replicate n 0).take n }
        key := { s.key with typeaheadLost := s.key.typeaheadLost && decide (n < 3) }
        desk := { s.desk with inboundLost := s.desk.inboundLost && decide (n < 4) } }) ∧
      (b1.getLsbD 7 = true ↔ s.tp.phase = .ready) ∧ b1.getLsbD 6 = false ∧
      b1.toNat / 16 % 4 = (match s.form.state with | .empty => 0 | .define => 1 | .active => 2) ∧
      b1.toNat / 4 % 4 = (match s.key.keyboard with | .system => 0 | .free => 1 | .error => 2 | .locked => 3) ∧
      b1.toNat % 4 = (match s.send.state with | .none => 0 | .assembling => 1 | .ready => 2) ∧
      b2.toNat = (match s.tp.outcome with
        | .none => 0 | .done => 1 | .refusedState => 2 | .refusedBusy => 3 | .badArgument => 4 | .badValue => 5
        | .full => 6 | .unknown => 7 | .abandoned => 8) ∧
      b3.toNat % 32 = s.key.queue.length ∧ b3.getLsbD 5 = false ∧ b3.getLsbD 6 = false ∧
      b3.getLsbD 7 = s.key.typeaheadLost ∧
      b4.toNat % 16 = min s.comp.items.length 15 ∧ b4.getLsbD 4 = s.tp.stream.isSome ∧
      b4.getLsbD 5 = s.desk.inboundLost ∧ b4.getLsbD 6 = anyLinkFlag s.line.flags ∧
      b4.getLsbD 7 = s.line.listenOnly ∧
      (s.tp.phase = .ready → ∃ t k, exec (.causeRead 1) s = .next t ∧ k ≤ 7 ∧ t.tp.sdo = [0, BitVec.ofNat 8 k])

/-- CAUSE READ answers the pending enabled cause of highest priority and clears it with its reply byte when it is an edge
cause; ATTN is low exactly while an enabled cause is pending. -/
def Obligations.CauseReadAnswersHighestPriority : Prop :=
  ∀ (n : Nat) (s : State),
    (attn s = false ↔ ∃ j, 1 ≤ j ∧ j ≤ 7 ∧ causePending s j = true ∧ causeEnabled s j = true) ∧
    (s.tp.phase = .ready → ∃ k t, k ≤ 7 ∧ exec (.causeRead n) s = .next t ∧
      (k = 0 ∨ (causePending s k = true ∧ causeEnabled s k = true)) ∧
      (∀ j, 1 ≤ j → (k = 0 ∧ j ≤ 7 ∨ j < k) → ¬(causePending s j = true ∧ causeEnabled s j = true)) ∧
      t = settle { s with
        tp := { s.tp with decoder := .idle, awaitHigh := false, edge := t.tp.edge
                          sdo := 0 :: (BitVec.ofNat 8 k :: List.replicate n 0).take n } } ∧
      (n = 0 → t.tp.edge = s.tp.edge) ∧
      (0 < n → t.tp.edge = { keyError := s.tp.edge.keyError && k != 1, started := s.tp.edge.started && k != 3,
                             deskChange := s.tp.edge.deskChange && k != 6, space := s.tp.edge.space && k != 7 }))

/-- What the plain control commands do: FRAME_OPEN, CAUSE ENABLE, DISPLAY SET, LOOPBACK SET, and the expiry of the alarm
timer. That a change of link mode ends a break and the sampling of a character and keeps a recorded gap is the model's
choice (notes/assumptions/16.md). -/
def Obligations.ControlCommandsAct : Prop :=
  ∀ (b : Byte) (n : Nat) (s : State),
    let z : List Byte := List.replicate (2 + n) 0
    (s.tp.decoder = .idle → exec .frameOpen s =
      .next (settle { s with tp := { s.tp with decoder := .code, awaitHigh := false } })) ∧
    (s.key.alarm = true → exec .alarmTimerExpiry s = .next (settle { s with key := { s.key with alarm := false } })) ∧
    (s.tp.phase = .ready → ∃ t, exec (.causeEnable b n) s = .next (settle t) ∧
      t = { framed .done z s with tp := { (framed .done z s).tp with enable := t.tp.enable } } ∧
      (∀ k, 1 ≤ k → k ≤ 7 → causeEnabled t k = b.getLsbD (k - 1))) ∧
    (s.tp.phase = .ready → exec (.displaySet b n) s = .next (settle { framed .done z s with
      comp := { s.comp with displayOn := b.getLsbD 0, cursorBlink := b.getLsbD 1 } })) ∧
    (s.tp.phase = .ready → s.line.listenOnly = true →
      exec (.loopbackSet b n) s = .next (framed .refusedState z s)) ∧
    (s.tp.phase = .ready → s.line.listenOnly = false → b.getLsbD 0 = s.line.loopback →
      exec (.loopbackSet b n) s = .next (settle { framed .done z s with line := { s.line with held := none } })) ∧
    (s.tp.phase = .ready → s.line.listenOnly = false → b.getLsbD 0 ≠ s.line.loopback → s.line.tx = .send →
      exec (.loopbackSet b n) s =
        .next (settle { framed .done z s with line := { s.line with held := some (b.getLsbD 0) } })) ∧
    (s.tp.phase = .ready → s.line.listenOnly = false → b.getLsbD 0 ≠ s.line.loopback → s.line.tx ≠ .send →
      exec (.loopbackSet b n) s = .next (settle { framed .done z s with
        line := { s.line with
          loopback := b.getLsbD 0, held := none, fifo := [], buffer := [], rxState := .hunt
          rxOpen := false, sampling := false, breakHold := false, gapRunning := false } }))

/-- In STARTING every known order but STATUS READ is refused REFUSED STATE with 0x00 on every byte, and nothing else
changes; CAUSE READ, refused too, records nothing. -/
def Obligations.StartingRefusesOrders : Prop :=
  ∀ (i : Instr) (bytes : List Byte) (s : State), StartSound s → s.tp.phase = .starting → frameOf i = some bytes →
    (∀ n, i ≠ .statusRead n) →
    ((∀ n, i ≠ .causeRead n) → exec i s = .next (framed .refusedState (List.replicate bytes.length 0) s)) ∧
    (∀ n, i = .causeRead n → exec i s = .next { s with
      tp := { s.tp with decoder := .idle, awaitHigh := false, sdo := List.replicate bytes.length 0 } })

/-- A stream ends on the first order other than STREAM NEXT, STATUS READ and CAUSE READ, whatever becomes of it, on an
unknown code and at each reset; STREAM NEXT itself may end it by writing its last field. Every command that is neither
an order nor a reset keeps it: keys, completions, events of the line, frames of the desk, ticks and timers, FRAME_OPEN
and the rows of start-up. That STREAM NEXT without a stream is refused REFUSED STATE while a send is being assembled too is
the model's choice (notes/assumptions/35.md). -/
def Obligations.StreamEndsByOtherOrder : Prop :=
  ∀ (i : Instr) (s t : State), exec i s = .next t →
    (∀ n, i = .statusRead n → t.tp.stream = s.tp.stream) ∧
    (∀ n, i = .causeRead n → t.tp.stream = s.tp.stream) ∧
    (∀ f data, i = .streamNext f data → s.tp.stream = none →
      t.tp.outcome = .refusedState ∧ t.tp.stream = none) ∧
    (∀ f n, i = .streamBegin f n → t.tp.outcome ≠ .done → t.tp.stream = none) ∧
    (frameOf i ≠ none → (∀ n, i ≠ .statusRead n) → (∀ n, i ≠ .causeRead n) → (∀ f data, i ≠ .streamNext f data) →
      (∀ f n, i ≠ .streamBegin f n) → t.tp.stream = none) ∧
    (∀ code bytes, i = .unknownOrderCode code bytes → argCount code = none → t.tp.stream = none) ∧
    (∀ code rest part k, i = .frameAbandoned (code :: rest) part → argCount code = some k →
      part = true ∨ rest.length < k →
      t.tp.stream = if code = 0x34 ∨ code = 0x11 ∨ code = 0x12 then s.tp.stream else none) ∧
    (∀ part, i = .frameAbandoned [] part → t.tp.stream = s.tp.stream) ∧
    (i = .powerOn ∨ i = .resetnAsserted → t.tp.stream = none) ∧
    (keyRowOf i ≠ none → t.tp.stream = s.tp.stream) ∧
    (frameOf i = none → (∀ code bytes, i ≠ .unknownOrderCode code bytes) → (∀ bytes part, i ≠ .frameAbandoned bytes part) →
      i ≠ .powerOn → i ≠ .resetnAsserted → t.tp.stream = s.tp.stream)

/-- KEY offers each of its bytes in turn: the defined codes join the queue up to 16, and a defined code beyond them sounds
ALARM and sets typeahead-lost. -/
def Obligations.KeyOrderOffersCodes : Prop :=
  ∀ (codes : List Byte) (s : State), s.tp.phase = .ready → s.key.queue.length ≤ 16 →
    let offered := s.key.queue ++ codes.filter (fun b => (keyOf b).isSome)
    exec (.key codes) s = .next (settle { framed .done (List.replicate (1 + codes.length) 0) s with
      key := { s.key with
        queue := offered.take 16
        typeaheadLost := s.key.typeaheadLost || decide (16 < offered.length)
        alarm := s.key.alarm || decide (16 < offered.length) } })

/-! ## Defining a form -/

/-- FORM BEGIN with a legal geometry opens an empty form of that geometry in DEFINE and hands over a RETRACT for each
active tag; with an illegal one it is refused and changes nothing. -/
def Obligations.FormBeginOpensForm : Prop :=
  ∀ (h w d : Byte) (n : Nat) (s : State), s.tp.phase = .ready →
    let z : List Byte := List.replicate (4 + n) 0
    let legal := h.toNat ≤ 23 ∧ w.toNat ≤ 16 ∧ h.toNat + w.toNat ≤ 24 ∧
      (w.toNat = 0 → d.toNat = 0) ∧ (w.toNat ≠ 0 → w.toNat ≤ d.toNat ∧ d.toNat ≤ 48)
    (¬legal → exec (.formBegin h w d n) s = .next (framed .badArgument z s)) ∧
    (legal → ∃ u, exec (.formBegin h w d n) s = .next (settle u) ∧
      u.tp = (framed .done z s).tp ∧
      u.form = { state := .define, h := h.toNat, w := w.toNat, d := d.toNat, fields := [], cols := [],
                 screenPlane := [], linePlane := [], vals := [], lines := [] } ∧
      u.cur = ⟨0, 0, 0⟩ ∧
      u.key = { s.key with keyboard := .system, edit := none, lastError := none } ∧
      u.comp = { s.comp with image := [], items := [.status], rendering := false, remark := false } ∧
      u.send.state = .none ∧ u.send.block = [] ∧
      u.desk = { s.desk with active := [], tallies := u.desk.tallies } ∧
      u.line = { s.line with taken := u.line.taken } ∧
      (∀ t, assocGet u.desk.tallies t =
        if t ∈ s.desk.active.map (·.1) then some .retract else assocGet s.desk.tallies t))

/-- FIELD DEFINE and COLUMN DEFINE in DEFINE place a record that breaks no rule in its table, which keeps its order;
a record that breaks one is refused BAD ARGUMENT, and outside DEFINE the orders are refused REFUSED STATE. -/
def Obligations.DefinesPlaceRecordInOrder : Prop :=
  ∀ (n r c len kind dec form attrs x y : Byte) (m : Nat) (s : State), s.tp.phase = .ready →
    let fd := fieldOf n r c len kind dec form attrs x y
    let cd := columnOf n c len kind dec form attrs x y
    (s.form.state ≠ .define →
      exec (.fieldDefine n r c len kind dec form attrs x y m) s = .next (framed .refusedState (List.replicate (11 + m) 0) s) ∧
      exec (.columnDefine n c len kind dec form attrs x y m) s = .next (framed .refusedState (List.replicate (10 + m) 0) s)) ∧
    (s.form.state = .define → (∀ g, fd = some g → fieldLegal s.form g = false) →
      exec (.fieldDefine n r c len kind dec form attrs x y m) s = .next (framed .badArgument (List.replicate (11 + m) 0) s)) ∧
    (s.form.state = .define → (∀ g, cd = some g → columnLegal s.form g = false) →
      exec (.columnDefine n c len kind dec form attrs x y m) s = .next (framed .badArgument (List.replicate (10 + m) 0) s)) ∧
    (s.form.state = .define → ∀ g, fd = some g → fieldLegal s.form g = true → s.form.fields.length < 96 →
      ∃ fs, exec (.fieldDefine n r c len kind dec form attrs x y m) s =
          .next (settle { framed .done (List.replicate (11 + m) 0) s with form := { s.form with fields := fs } }) ∧
        List.Perm fs (g :: s.form.fields) ∧
        (recordsOnScreen s.form = true → s.form.fields.Pairwise (fun a b => fieldBefore a b = true) →
          fs.Pairwise (fun a b => fieldBefore a b = true))) ∧
    (s.form.state = .define → ∀ g, cd = some g → columnLegal s.form g = true → s.form.cols.length < 12 →
      ∃ cs, exec (.columnDefine n c len kind dec form attrs x y m) s =
          .next (settle { framed .done (List.replicate (10 + m) 0) s with form := { s.form with cols := cs } }) ∧
        List.Perm cs (g :: s.form.cols) ∧
        (recordsOnScreen s.form = true → s.form.cols.Pairwise (fun a b => a.col < b.col) →
          cs.Pairwise (fun a b => a.col < b.col)))

/-- FIELD DROP and COLUMN DROP remove the record they name and leave the others in order. -/
def Obligations.DropsRemoveRecord : Prop :=
  ∀ (n : Byte) (m : Nat) (s : State), s.tp.phase = .ready →
    let z : List Byte := List.replicate (2 + m) 0
    (s.form.state ≠ .define → exec (.fieldDrop n m) s = .next (framed .refusedState z s) ∧
      exec (.columnDrop n m) s = .next (framed .refusedState z s)) ∧
    (s.form.state = .define → (∀ g ∈ s.form.fields, g.number ≠ n.toNat) →
      exec (.fieldDrop n m) s = .next (framed .badArgument z s)) ∧
    (s.form.state = .define → (∃ g ∈ s.form.fields, g.number = n.toNat) →
      exec (.fieldDrop n m) s = .next (settle { framed .done z s with
        form := { s.form with fields := s.form.fields.filter (fun g => g.number ≠ n.toNat) } })) ∧
    (s.form.state = .define → (∀ g ∈ s.form.cols, g.number ≠ n.toNat) →
      exec (.columnDrop n m) s = .next (framed .badArgument z s)) ∧
    (s.form.state = .define → (∃ g ∈ s.form.cols, g.number = n.toNat) →
      exec (.columnDrop n m) s = .next (settle { framed .done z s with
        form := { s.form with cols := s.form.cols.filter (fun g => g.number ≠ n.toNat) } }))

/-- A LABEL WRITE of PLAIN data no longer than its rectangle writes the characters into the cells of the rectangle in
order and leaves every other label cell alone. -/
def Obligations.LabelWriteFillsCells : Prop :=
  ∀ (plane r0 c0 r1 c1 direction : Byte) (a : LabelArgs) (data : List Byte) (s : State),
    s.tp.phase = .ready → s.form.state ≠ .empty → MemoriesSound s →
    labelArgs plane r0 c0 r1 c1 direction 0 = some a → rectLegal s.form a = true →
    data.length ≤ (rectCells a).length →
    ∃ u, exec (.labelWrite plane r0 c0 r1 c1 direction 0 data) s = .next (settle u) ∧
      u = { framed .done (List.replicate (8 + data.length) 0) s with
        form := { s.form with screenPlane := u.form.screenPlane, linePlane := u.form.linePlane }
        comp := u.comp } ∧
      (s.form.state ≠ .active → u.comp = s.comp) ∧
      (let cells := (rectCells a).take data.length
       let read (f : FormStore) (k : Nat) := cellRead blank (if a.linePlane then f.linePlane else f.screenPlane) k
       (if a.linePlane then u.form.screenPlane = s.form.screenPlane else u.form.linePlane = s.form.linePlane) ∧
       (∀ (i k : Nat) (b : Byte), cells[i]? = some k → data[i]? = some b → read u.form k = plainChar b) ∧
       (∀ k : Nat, k ∉ cells → read u.form k = read s.form k))

/-- FORM END of a form that passes its tests makes it ACTIVE with D EMPTY lines and absent values, frees the keyboard,
puts the cursor Home with T = 0, activates and announces its tags, computes every computed value (every PRODUCT ABSENT,
every COLUMN SUM zero, every DESK SUM from the contribution table), and queues a full repaint; a form that fails them stays
in DEFINE. -/
def Obligations.FormEndActivatesForm : Prop :=
  ∀ (m : Nat) (s : State), s.tp.phase = .ready →
    let z : List Byte := List.replicate (1 + m) 0
    (s.form.state ≠ .define → exec (.formEnd m) s = .next (framed .refusedState z s)) ∧
    (s.form.state = .define → formSound s.form = false → exec (.formEnd m) s = .next (framed .badArgument z s)) ∧
    (s.form.state = .define → formSound s.form = true → ∃ u, exec (.formEnd m) s = .next (settle u) ∧
      u.tp = (framed .done z s).tp ∧ u.key = { s.key with keyboard := .free } ∧ u.send = s.send ∧
      u.form = { s.form with state := .active, vals := u.form.vals, lines := u.form.lines } ∧
      (u.cur.row, u.cur.col) = homeCell s.form ∧ u.cur.top = 0 ∧
      u.form.lines.length = s.form.d ∧
      (∀ l < s.form.d, lineEnteredAt u.form l = false) ∧
      (∀ fd ∈ s.form.fields, isSumKind fd.shape.kind = false → findField s.form fd.number = some fd →
        ∃ v, instValue u.form (.field fd.number) = some v ∧ valueAbsent v = true) ∧
      (∀ n, assocGet u.desk.active n = if n ∈ deskTags s.form then some (.value 0) else none) ∧
      u.desk = { s.desk with active := u.desk.active, tallies := u.desk.tallies } ∧
      (∀ l, productsFollow u.form l) ∧ sumsFollow u ∧
      (∀ l c v, findCol s.form c ≠ none → instValue u.form (.cell l c) = some v → valueAbsent v = true) ∧
      (∀ fd x, findField s.form fd.number = some fd → fd.shape.kind = .columnSum →
        instValue u.form (.field fd.number) = some x → x = .number 0) ∧
      (∀ n, assocGet u.desk.tallies n = if n ∈ deskTags s.form then some .tally else assocGet s.desk.tallies n) ∧
      Item.clear ∈ u.comp.items ∧ Item.labels ∈ u.comp.items ∧ Item.status ∈ u.comp.items ∧
      (∀ fd ∈ s.form.fields, Item.field fd.number ∈ u.comp.items) ∧
      (∀ k < s.form.w, Item.bodyRow (s.form.h + k) ∈ u.comp.items))

/-! ## Filling a form -/

/-- A FIELD WRITE of PLAIN data to a TEXT or DISPLAY field, or of digits and blanks to a DIGITS field, writes the data's
characters one by one from the start offset on, after the last position to position 0, over blanks in replace mode and
over the stored text in overlay mode; each position holds the last character written to it. With mark-modified it sets
the modified flag of an entry field whose value changes, and it clears no flag. It leaves every other instance alone and
abandons a pending edit of that field only. A FIELD WRITE to a NUMBER field takes the decoded characters as one numeral in
either write mode, stores ABSENT, the rounded value where it fits or OVERFLOW, and every sum follows; other data is
refused BAD VALUE, as is a character that a DIGITS field does not take. -/
def Obligations.TextFieldWriteReplacesValue : Prop :=
  (∀ (n mode start : Byte) (data : List Byte) (fd : FieldDef) (w : InstVal) (base : Text) (s : State),
    s.tp.phase = .ready → s.form.state = .active → s.send.state ≠ .assembling → mode.toNat ≤ 3 →
    findField s.form n.toNat = some fd →
    fd.shape.kind = .text ∨ fd.shape.kind = .display ∨
      (fd.shape.kind = .digits ∧ ∀ b ∈ data, digitsAllowed (plainChar b) = true) →
    valFind s.form.vals n.toNat = some w → base.length = fd.shape.length →
    (mode.getLsbD 0 = false → base = List.replicate fd.shape.length blank) →
    (mode.getLsbD 0 = true → w.value = .text base) →
    start.toNat < fd.shape.length →
    let chars := data.map (fun b => foldChar fd.shape (plainChar b))
    let pos (m : Nat) := (start.toNat + m) % fd.shape.length
    ∃ u t, exec (.fieldWrite n mode start 0 data) s = .next (settle u) ∧
      u = { framed .done (List.replicate (5 + data.length) 0) s with
        form := { s.form with vals := u.form.vals }, key := { s.key with edit := u.key.edit }, comp := u.comp } ∧
      instValue u.form (.field n.toNat) = some (.text t) ∧ t.length = fd.shape.length ∧
      (∀ m b, chars[m]? = some b → chars.length ≤ m + fd.shape.length → t[pos m]? = some b) ∧
      (∀ p, (∀ m < chars.length, pos m ≠ p) → t[p]? = base[p]?) ∧
      (start.toNat + data.length ≤ fd.shape.length →
        t = base.take start.toNat ++ chars ++ base.drop (start.toNat + data.length)) ∧
      (∀ w', valFind u.form.vals n.toNat = some w' →
        w'.modified = (w.modified || (mode.getLsbD 1 && isEntryKind fd.shape.kind && decide (w.value ≠ .text t)))) ∧
      (∀ k, k ≠ n.toNat → valFind u.form.vals k = valFind s.form.vals k) ∧
      (∀ i, i ≠ .field n.toNat → instValue u.form i = instValue s.form i) ∧
      u.key.edit = (if s.key.edit.map (·.inst) = some (.field n.toNat) then none else s.key.edit)) ∧
  (∀ (n mode start format : Byte) (data : List Byte) (f : Format) (t : Text) (fd : FieldDef) (w : InstVal) (s : State),
    s.tp.phase = .ready → s.form.state = .active → s.send.state ≠ .assembling → mode.toNat ≤ 3 →
    findField s.form n.toNat = some fd → start.toNat < fd.shape.length → formatOf format = some f →
    decodeData f data = some t → valFind s.form.vals n.toNat = some w →
    (fd.shape.kind = .number → parseSystem fd.shape t = none → exec (.fieldWrite n mode start format data) s =
      .next (framed .badValue (List.replicate (5 + data.length) 0) s)) ∧
    (fd.shape.kind = .digits → (∃ b ∈ t, digitsAllowed b = false) → exec (.fieldWrite n mode start format data) s =
      .next (framed .badValue (List.replicate (5 + data.length) 0) s)) ∧
    (fd.shape.kind = .number → ∀ v, parseSystem fd.shape t = some v →
      ∃ u, exec (.fieldWrite n mode start format data) s = .next (settle u) ∧
        u.tp = { (framed .done (List.replicate (5 + data.length) 0) s).tp with
          edge := { s.tp.edge with deskChange := u.tp.edge.deskChange } } ∧ deskChangeRight s u ∧
        u.cur = s.cur ∧ u.send = s.send ∧ u.line = { s.line with taken := u.line.taken } ∧
        u.desk = { s.desk with active := u.desk.active, tallies := u.desk.tallies } ∧
        u.comp = { s.comp with items := u.comp.items, remark := u.comp.remark } ∧
        u.key = { s.key with
          edit := if s.key.edit.map (·.inst) = some (.field n.toNat) then none else s.key.edit } ∧
        u.form = { s.form with vals := u.form.vals } ∧ instValue u.form (.field n.toNat) = some v ∧
        (∀ i sh, i ≠ .field n.toNat → instShape s.form i = some sh → storesOwn sh.kind = true →
          instValue u.form i = instValue s.form i) ∧
        (∀ k x x', valFind s.form.vals k = some x → valFind u.form.vals k = some x' →
          x'.modified = (x.modified || (mode.getLsbD 1 && decide (k = n.toNat ∧ x.value ≠ v)))) ∧
        (w.value ≠ v → sumsFollow u ∧ Item.field n.toNat ∈ u.comp.items) ∧ HandedOn s u ∧
        (w.value = v → u.desk = s.desk ∧ u.tp.edge = s.tp.edge))) ∧
  (∀ (sh : Shape) (t : Text), (∀ b ∈ t, b = blank) → parseSystem sh t = some .absent) ∧
  (∀ (sh : Shape) (before after ip pt fp : Text) (neg : Bool), (∀ b ∈ before ++ after, b = blank) →
    (pt = [] ∧ fp = []) ∨ pt = [point] → (∀ b ∈ ip ++ fp, isDigit b = true) → ip ++ fp ≠ [] →
    let t := before ++ (if neg then [minus] else []) ++ ip ++ pt ++ fp ++ after
    let n : Int := digitsNat (ip ++ fp)
    let m : Int := if neg then -n else n
    let v : Int := if fp.length ≤ sh.decimals then m * ((10 ^ (sh.decimals - fp.length) : Nat) : Int)
      else roundDiv m (fp.length - sh.decimals)
    (neg = true → sh.signed = false → parseSystem sh t = none) ∧
    (neg = false ∨ sh.signed = true → v.natAbs < 10 ^ capacity sh → parseSystem sh t = some (.number v)) ∧
    (neg = false ∨ sh.signed = true → 10 ^ capacity sh ≤ v.natAbs → parseSystem sh t = some .overflow)) ∧
  (∀ (sh : Shape) (t : Text), parseSystem sh t ≠ none → (∀ b ∈ t, b = blank) ∨
    ∃ (before after ip pt fp : Text) (neg : Bool), (∀ b ∈ before ++ after, b = blank) ∧
      ((pt = [] ∧ fp = []) ∨ pt = [point]) ∧ (∀ b ∈ ip ++ fp, isDigit b = true) ∧ ip ++ fp ≠ [] ∧
      t = before ++ (if neg then [minus] else []) ++ ip ++ pt ++ fp ++ after)

/-- A CELL WRITE that gives a NUMBER cell another value stores it in either write mode, leaves every other entry and DISPLAY
instance alone, and then every PRODUCT of the line is the product of its operands, every COLUMN SUM the sum of its column,
every local contribution the unrounded sum of its column, and every DESK SUM the desk total of its tag, local contribution
and table entries together. What changed is handed on: items, and a TALLY for each local contribution; DESK CHANGE is
raised exactly when a DESK SUM changed. With mark-modified the cell's and its line's modified flags are set; no other flag
changes. -/
def Obligations.NumberCellWriteRecomputes : Prop :=
  ∀ (l c mode start format : Byte) (data : List Byte) (f : Format) (t : Text) (v : Value) (cd : ColumnDef) (s : State),
    s.tp.phase = .ready → s.form.state = .active → s.send.state ≠ .assembling → l.toNat < s.form.d → mode.toNat ≤ 3 →
    findCol s.form c.toNat = some cd → cd.shape.kind = .number → start.toNat < cd.shape.length →
    formatOf format = some f → decodeData f data = some t → parseSystem cd.shape t = some v →
    instValue s.form (.cell l.toNat c.toNat) ≠ none → instValue s.form (.cell l.toNat c.toNat) ≠ some v →
    ∃ u, exec (.cellWrite l c mode start format data) s = .next (settle u) ∧
      u.tp = { (framed .done (List.replicate (6 + data.length) 0) s).tp with
        edge := { s.tp.edge with deskChange := u.tp.edge.deskChange } } ∧
      deskChangeRight s u ∧
      u.cur = s.cur ∧ u.send = s.send ∧ u.key = { s.key with edit := u.key.edit } ∧
      u.line = { s.line with taken := u.line.taken } ∧
      u.desk = { s.desk with active := u.desk.active, tallies := u.desk.tallies } ∧
      u.form = { s.form with vals := u.form.vals, lines := u.form.lines } ∧
      instValue u.form (.cell l.toNat c.toNat) = some v ∧
      (∀ i sh, i ≠ .cell l.toNat c.toNat → instShape s.form i = some sh → storesOwn sh.kind = true →
        instValue u.form i = instValue s.form i) ∧
      (∀ k, k ≠ l.toNat → u.form.lines[k]? = s.form.lines[k]?) ∧
      (∀ (ln ln' : LineRec), s.form.lines[l.toNat]? = some ln → u.form.lines[l.toNat]? = some ln' →
        ln'.modified = (ln.modified || mode.getLsbD 1) ∧
        ∀ k w w', valFind ln.cells k = some w → valFind ln'.cells k = some w' →
          w'.modified = (w.modified || (mode.getLsbD 1 && decide (k = c.toNat)))) ∧
      (∀ k w w', valFind s.form.vals k = some w → valFind u.form.vals k = some w' → w'.modified = w.modified) ∧
      productsFollow u.form l.toNat ∧ sumsFollow u ∧ HandedOn s u

/-- STREAM BEGIN points at a field that may be written. STREAM NEXT gives the pointed field what a FIELD WRITE in replace
mode from offset 0 without mark-modified gives it, and moves the pointer to the first field after it in screen order
that lies in the stream's region and may be written; where there is none the stream ends. While a send is being
assembled, with a format that no table lists, and with data that its format or its field refuses, STREAM NEXT is refused
and the pointer stays. -/
def Obligations.StreamOrdersWriteInTurn : Prop :=
  (∀ (n : Byte) (k : Nat) (fd : FieldDef) (s : State), s.tp.phase = .ready → s.form.state = .active →
    findField s.form n.toNat = some fd → fd.shape.kind ≠ .columnSum → fd.shape.kind ≠ .deskSum →
    exec (.streamBegin n k) s = .next (settle { framed .done (List.replicate (2 + k) 0) s with
      tp := { (framed .done (List.replicate (2 + k) 0) s).tp with
        stream := some { field := n.toNat, header := decide (fd.row < s.form.h) } } })) ∧
  (∀ (format : Byte) (data : List Byte) (st : Stream) (fd : FieldDef) (pre post : List FieldDef) (s : State),
    s.tp.phase = .ready → s.tp.stream = some st → s.form.fields = pre ++ fd :: post → fd.number = st.field →
    (∀ g ∈ pre, g.number ≠ st.field) → 0 < fd.shape.length →
    let closed (o : OrderOutcome) : TpPort :=
      { s.tp with decoder := .idle, awaitHigh := false, outcome := o, sdo := List.replicate (2 + data.length) 0 }
    let written (t : Text) := writtenValue fd.shape false 0 ((instValue s.form (.field st.field)).getD .absent) t
    let takes (g : FieldDef) : Prop :=
      g.shape.kind ≠ .columnSum ∧ g.shape.kind ≠ .deskSum ∧ decide (g.row < s.form.h) = st.header
    (s.send.state = .assembling → exec (.streamNext format data) s = .next { s with tp := closed .refusedBusy }) ∧
    (s.send.state ≠ .assembling → formatOf format = none →
      exec (.streamNext format data) s = .next { s with tp := closed .badArgument }) ∧
    (s.send.state ≠ .assembling → ∀ f, formatOf format = some f → (decodeData f data).bind written = none →
      exec (.streamNext format data) s = .next { s with tp := closed .badValue }) ∧
    (s.send.state ≠ .assembling → ∀ f v, formatOf format = some f → (decodeData f data).bind written = some v →
      instValue s.form (.field st.field) ≠ none →
      ∃ u, exec (.streamNext format data) s = .next (settle u) ∧
        u.tp = { closed .done with
          stream := u.tp.stream, edge := { s.tp.edge with deskChange := u.tp.edge.deskChange } } ∧
        ((∀ g ∈ s.form.fields, g.number = st.field → g.shape.kind ≠ .deskSum) → deskChangeRight s u) ∧
        (∀ a g b, post = a ++ g :: b → (∀ x ∈ a, ¬takes x) → takes g →
          u.tp.stream = some { field := g.number, header := st.header }) ∧
        ((∀ x ∈ post, ¬takes x) → u.tp.stream = none) ∧
        instValue u.form (.field st.field) = some v ∧
        (fd.shape.kind = .number → instValue s.form (.field st.field) ≠ some v → sumsFollow u) ∧ HandedOn s u ∧
        (∀ i sh, i ≠ .field st.field → instShape s.form i = some sh → storesOwn sh.kind = true →
          instValue u.form i = instValue s.form i) ∧
        (∀ n w w', valFind s.form.vals n = some w → valFind u.form.vals n = some w' → w'.modified = w.modified) ∧
        u.form = { s.form with vals := u.form.vals } ∧
        u.key = { s.key with
          edit := if s.key.edit.map (·.inst) = some (.field st.field) then none else s.key.edit } ∧
        u.comp = { s.comp with items := u.comp.items, remark := u.comp.remark } ∧
        u.cur = s.cur ∧ u.send = s.send ∧ u.line = { s.line with taken := u.line.taken } ∧
        u.desk = { s.desk with active := u.desk.active, tallies := u.desk.tallies }) ∧
    (s.send.state ≠ .assembling → format = 0 → fd.shape.kind = .text ∨ fd.shape.kind = .display →
      instValue s.form (.field st.field) ≠ none → data.length ≤ fd.shape.length →
      ∃ u, exec (.streamNext format data) s = .next (settle u) ∧ u.tp.outcome = .done ∧
        instValue u.form (.field st.field) = some (.text (data.map (fun b => foldChar fd.shape (plainChar b)) ++
          List.replicate (fd.shape.length - data.length) blank)) ∧
        (∀ i, i ≠ .field st.field → instValue u.form i = instValue s.form i) ∧ u.desk = s.desk))

/-- FIELD READ, CELL READ and CURSOR READ drive what they read from the byte after their last argument on and change
nothing but their frame. -/
def Obligations.ReadsReturnState : Prop :=
  ∀ (a b : Byte) (n : Nat) (s : State), s.tp.phase = .ready →
    let driven (k : Nat) (r : List Byte) := List.replicate (1 + k) 0 ++ (r ++ List.replicate n 0).take n
    (∀ fd, s.form.state = .active → findField s.form a.toNat = some fd →
      ∀ v, instValue s.form (.field a.toNat) = some v → fd.shape.kind ≠ .ordinal →
      exec (.fieldRead a n) s = .next (settle (framed .done
        (driven 1 (BitVec.ofNat 8 (canonicalText fd.shape.decimals v).length :: canonicalText fd.shape.decimals v)) s))) ∧
    (∀ cd, s.form.state = .active → a.toNat < s.form.d → findCol s.form b.toNat = some cd →
      ∀ v, instValue s.form (.cell a.toNat b.toNat) = some v → cd.shape.kind ≠ .ordinal →
      exec (.cellRead a b n) s = .next (settle (framed .done
        (driven 2 (BitVec.ofNat 8 (canonicalText cd.shape.decimals v).length :: canonicalText cd.shape.decimals v)) s))) ∧
    (s.form.state ≠ .active → exec (.fieldRead a n) s = .next (framed .refusedState (List.replicate (2 + n) 0) s)) ∧
    (s.form.state ≠ .active → exec (.cellRead a b n) s = .next (framed .refusedState (List.replicate (3 + n) 0) s)) ∧
    (exec (.cursorRead n) s = .next (settle (framed .done
      (driven 0 [BitVec.ofNat 8 s.cur.row, BitVec.ofNat 8 s.cur.col,
        match s.form.state, lineAt s.form s.cur.top s.cur.row with
        | .active, some l => BitVec.ofNat 8 l
        | _, _ => 0xFF]) s)))

/-- ENTRIES CLEAR leaves no pending edit, every entry value absent, every line EMPTY and every modified, column-modified
and line-modified flag clear, and keeps cursor, window, keyboard and DISPLAY values. The computed values follow, and what
changed of them is handed on. -/
def Obligations.EntriesClearEmptiesEntries : Prop :=
  ∀ (n : Nat) (s : State), s.tp.phase = .ready → s.form.state = .active →
    let z : List Byte := List.replicate (1 + n) 0
    (s.send.state = .assembling → exec (.entriesClear n) s = .next (framed .refusedBusy z s)) ∧
    (s.send.state ≠ .assembling → ∃ u, exec (.entriesClear n) s = .next (settle u) ∧
      u.tp = { (framed .done z s).tp with edge := { s.tp.edge with deskChange := u.tp.edge.deskChange } } ∧
      deskChangeRight s u ∧
      u.cur = s.cur ∧ u.send = s.send ∧ u.key = { s.key with edit := none } ∧
      u.line = { s.line with taken := u.line.taken } ∧
      u.desk = { s.desk with active := u.desk.active, tallies := u.desk.tallies } ∧
      u.form = { s.form with vals := u.form.vals, lines := u.form.lines } ∧
      (∀ i sh v, instShape s.form i = some sh → instValue u.form i = some v →
        (isEntryKind sh.kind = true → valueAbsent v = true) ∧
        (sh.kind = .display → instValue s.form i = some v)) ∧
      (∀ fd v, findField s.form fd.number = some fd → valFind u.form.vals fd.number = some v → v.modified = false) ∧
      (∀ ln ∈ u.form.lines, ln.modified = false ∧ lineEntered u.form ln = false ∧
        ∀ w ∈ ln.cells, findCol s.form w.key ≠ none → w.modified = false) ∧
      (∀ l < s.form.d, productsFollow u.form l) ∧ sumsFollow u ∧ HandedOn s u ∧
      (∀ k < s.form.w, Item.bodyRow (s.form.h + k) ∈ u.comp.items))

/-- CURSOR SET and WINDOW SET abandon the pending edit and place cursor and window as named. -/
def Obligations.CursorAndWindowSet : Prop :=
  ∀ (a b : Byte) (n : Nat) (s : State), s.tp.phase = .ready → s.form.state = .active → s.send.state ≠ .assembling →
    let placed (o : Out) (row col top : Nat) := ∃ u, o = .next (settle u) ∧ u.cur = ⟨row, col, top⟩ ∧
      u.key = { s.key with edit := none } ∧ u.form = s.form ∧ u.send = s.send ∧ u.desk = s.desk ∧
      u.line = s.line ∧ u.tp.outcome = .done ∧ u.tp.stream = none ∧
      (∀ e, s.key.edit = some e → ∀ it, instItem s.form top e.inst = some it → it ∈ u.comp.items) ∧
      (top ≠ s.cur.top → ∀ k < s.form.w, Item.bodyRow (s.form.h + k) ∈ u.comp.items)
    (∀ fd, findField s.form a.toNat = some fd → placed (exec (.cursorSet 1 a b n) s) fd.row fd.col s.cur.top) ∧
    (∀ cd, findCol s.form b.toNat = some cd → a.toNat < s.form.d → s.cur.top ≤ a.toNat →
      a.toNat < s.cur.top + s.form.w →
      placed (exec (.cursorSet 2 a b n) s) (s.form.h + (a.toNat - s.cur.top)) cd.col s.cur.top) ∧
    (∀ cd, findCol s.form b.toNat = some cd → a.toNat < s.form.d →
      a.toNat < s.cur.top ∨ s.cur.top + s.form.w ≤ a.toNat →
      placed (exec (.cursorSet 2 a b n) s) (s.form.h + (a.toNat - min a.toNat (s.form.d - s.form.w))) cd.col
        (min a.toNat (s.form.d - s.form.w))) ∧
    (a.toNat ≤ 23 → b.toNat ≤ 79 → placed (exec (.cursorSet 3 a b n) s) a.toNat b.toNat s.cur.top) ∧
    (23 < a.toNat ∨ 79 < b.toNat →
      exec (.cursorSet 3 a b n) s = .next (framed .badArgument (List.replicate (4 + n) 0) s)) ∧
    placed (exec (.windowSet a n) s) s.cur.row s.cur.col (min a.toNat (s.form.d - s.form.w))

/-! ## Send blocks -/

/-- The block may be read in pieces: two BLOCK READs return together what one of their joint length returns, and a
position past the last byte is never reached; a byte read to the end clears BLOCK READY. -/
def Obligations.BlockReadInPieces : Prop :=
  (∀ (m n : Nat) (s : State), s.tp.phase = .ready → s.send.state = .ready →
    ∃ t u v, exec (.blockRead m) s = .next t ∧ exec (.blockRead n) t = .next u ∧ exec (.blockRead (m + n)) s = .next v ∧
      v.tp.sdo.tail = t.tp.sdo.tail ++ u.tp.sdo.tail ∧ v.send = u.send ∧ v.tp.outcome = .done ∧
      t.tp.sdo.tail = (s.send.block.drop s.send.readPos ++ List.replicate m 0).take m ∧
      t.form = s.form ∧ t.cur = s.cur ∧ t.key = s.key ∧ t.desk = s.desk ∧
      t.send = { s.send with readPos := min (s.send.readPos + m) s.send.block.length } ∧
      (causePending t 2 = true ↔ s.send.readPos + m < s.send.block.length)) ∧
  (∀ (n : Nat) (s : State), s.tp.phase = .ready → s.send.state ≠ .ready →
    exec (.blockRead n) s = .next (framed .refusedState (List.replicate (1 + n) 0) s))

/-- RELEASE and REJECT of a LOCKED keyboard discard the send and free the keyboard or put it into ERROR; with the keyboard
not LOCKED they are refused. A REJECT that names an instance of the form puts the cursor on it, as CURSOR SET does; that
one of form 0 ignores its two position bytes is the model's reading (notes/assumptions/26.md). -/
def Obligations.ReleaseAndRejectAnswerSend : Prop :=
  ∀ (opts code form a b : Byte) (n : Nat) (msg : List Byte) (s : State), s.tp.phase = .ready →
    let z : List Byte := List.replicate (2 + n) 0
    let rejected (o : Out) (cur : CursorEngine) := ∃ u, o = .next (settle u) ∧
      u.tp.outcome = .done ∧ u.send.state = .none ∧ u.send.block = [] ∧ u.form = s.form ∧ u.cur = cur ∧
      u.desk = s.desk ∧ u.line = s.line ∧ Item.status ∈ u.comp.items ∧
      (cur.top ≠ s.cur.top → ∀ k < s.form.w, Item.bodyRow (s.form.h + k) ∈ u.comp.items) ∧
      u.key = { s.key with keyboard := .error, lastError := some (.reject code.toNat (msg.map plainChar)) }
    (s.key.keyboard ≠ .locked → exec (.release opts n) s = .next (framed .refusedState z s) ∧
      exec (.reject code form a b msg) s = .next (framed .refusedState (List.replicate (5 + msg.length) 0) s)) ∧
    (s.key.keyboard = .locked → 3 < opts.toNat → exec (.release opts n) s = .next (framed .badArgument z s)) ∧
    (s.key.keyboard = .locked → opts.toNat ≤ 3 → ∃ u, exec (.release opts n) s = .next (settle u) ∧
      u.tp.outcome = .done ∧ u.key = { s.key with keyboard := .free } ∧ u.send.state = .none ∧ u.send.block = [] ∧
      u.desk = s.desk ∧ u.form = (if opts.getLsbD 0 then unmarkForm s.form else s.form) ∧
      u.cur = (if opts.getLsbD 1 then ⟨(homeCell s.form).1, (homeCell s.form).2, s.cur.top⟩ else s.cur) ∧
      Item.status ∈ u.comp.items) ∧
    (s.key.keyboard = .locked → 20 ≤ code.toNat → code.toNat ≤ 99 → msg.length ≤ 30 →
      rejected (exec (.reject code 0 a b msg) s) s.cur ∧
      (∀ fd, findField s.form a.toNat = some fd →
        rejected (exec (.reject code 1 a b msg) s) ⟨fd.row, fd.col, s.cur.top⟩) ∧
      (∀ cd, findCol s.form b.toNat = some cd → a.toNat < s.form.d → s.cur.top ≤ a.toNat →
        a.toNat < s.cur.top + s.form.w →
        rejected (exec (.reject code 2 a b msg) s) ⟨s.form.h + (a.toNat - s.cur.top), cd.col, s.cur.top⟩) ∧
      (∀ cd, findCol s.form b.toNat = some cd → a.toNat < s.form.d →
        a.toNat < s.cur.top ∨ s.cur.top + s.form.w ≤ a.toNat →
        rejected (exec (.reject code 2 a b msg) s) ⟨s.form.h + (a.toNat - min a.toNat (s.form.d - s.form.w)), cd.col,
          min a.toNat (s.form.d - s.form.w)⟩)) ∧
    (s.key.keyboard = .locked → findField s.form a.toNat = none →
      exec (.reject code 1 a b msg) s = .next (framed .badArgument (List.replicate (5 + msg.length) 0) s)) ∧
    (s.key.keyboard = .locked → findCol s.form b.toNat = none ∨ s.form.d ≤ a.toNat →
      exec (.reject code 2 a b msg) s = .next (framed .badArgument (List.replicate (5 + msg.length) 0) s)) ∧
    (s.key.keyboard = .locked → code.toNat < 20 ∨ 99 < code.toNat ∨ 30 < msg.length ∨ 2 < form.toNat →
      exec (.reject code form a b msg) s = .next (framed .badArgument (List.replicate (5 + msg.length) 0) s))

/-! ## Keys -/

/-- The Key Engine takes the key at the head of the queue exactly when the form is ACTIVE, the keyboard FREE or ERROR, the
send state NONE and the repaint list empty, and the key leaves the queue; otherwise nothing changes
(the model's choice for an event that cannot happen, notes/assumptions/3.md). -/
def Obligations.KeysAreTakenFromHead : Prop :=
  ∀ (i : Instr) (k : Key) (s : State), keyRowOf i = some k → RepaintSound s →
    (∀ b q, s.key.queue = b :: q → keyOf b = some k → s.form.state = .active →
      s.key.keyboard = .free ∨ s.key.keyboard = .error → s.send.state = .none → s.comp.items = [] →
      ∃ t, exec i s = .next t ∧ t.key.queue = q) ∧
    (s.form.state ≠ .active ∨ (s.key.keyboard ≠ .free ∧ s.key.keyboard ≠ .error) ∨ s.send.state ≠ .none ∨
      s.comp.items ≠ [] ∨ s.key.queue.head?.bind keyOf ≠ some k → exec i s = .next s)

/-- In ERROR every key but RESET is discarded with an ALARM pulse; RESET clears the error and frees the keyboard, in FREE it
changes nothing but the queue, and in SYSTEM and LOCKED it waits. -/
def Obligations.ErrorDiscardsKeysUntilReset : Prop :=
  (∀ s : State, s.key.keyboard = .system ∨ s.key.keyboard = .locked → exec .reset s = .next s) ∧
  ∀ (i : Instr) (k : Key) (b : Byte) (q : List Byte) (s : State), keyRowOf i = some k → KeyStands k b q s →
    (s.key.keyboard = .error → k ≠ .reset →
      exec i s = .next (settle { s with key := { s.key with queue := q, alarm := true } })) ∧
    (s.key.keyboard = .error → k = .reset →
      exec i s = .next (settle { s with
        key := { s.key with queue := q, keyboard := .free, lastError := none }
        comp := { s.comp with items := [.status] } })) ∧
    (s.key.keyboard = .free → k = .reset → exec i s = .next (settle { s with key := { s.key with queue := q } }))

/-- HOME and the arrow keys without a pending edit place the cursor as their rules say, DOWN and UP scrolling at the
window edges, and change nothing but the cursor, the window top and what must be repainted. -/
def Obligations.ArrowKeysMoveCursor : Prop :=
  ∀ (k : Key) (b : Byte) (q : List Byte) (s : State), KeyStands k b q s → s.key.keyboard = .free → s.key.edit = none →
    let moved (o : Out) (row col top : Nat) := ∃ u, o = .next (settle u) ∧ movedTo q ⟨row, col, top⟩ s u
    (k = .home → moved (exec .home s) (homeCell s.form).1 (homeCell s.form).2 s.cur.top) ∧
    (k = .right → s.cur.col < 79 → moved (exec .right s) s.cur.row (s.cur.col + 1) s.cur.top) ∧
    (k = .right → s.cur.col = 79 → s.cur.row < 23 → moved (exec .right s) (s.cur.row + 1) 0 s.cur.top) ∧
    (k = .right → s.cur.col = 79 → s.cur.row = 23 → moved (exec .right s) 0 0 s.cur.top) ∧
    (k = .left → 0 < s.cur.col → moved (exec .left s) s.cur.row (s.cur.col - 1) s.cur.top) ∧
    (k = .left → s.cur.col = 0 → 0 < s.cur.row → moved (exec .left s) (s.cur.row - 1) 79 s.cur.top) ∧
    (k = .left → s.cur.col = 0 → s.cur.row = 0 → moved (exec .left s) 23 79 s.cur.top) ∧
    (k = .down → 0 < s.form.w → s.cur.row + 1 = s.form.h + s.form.w → s.cur.top + s.form.w < s.form.d →
      moved (exec .down s) s.cur.row s.cur.col (s.cur.top + 1)) ∧
    (k = .down → ¬(0 < s.form.w ∧ s.cur.row + 1 = s.form.h + s.form.w ∧ s.cur.top + s.form.w < s.form.d) →
      moved (exec .down s) (if s.cur.row = 23 then 0 else s.cur.row + 1) s.cur.col s.cur.top) ∧
    (k = .up → 0 < s.form.w → s.cur.row = s.form.h → 0 < s.cur.top →
      moved (exec .up s) s.cur.row s.cur.col (s.cur.top - 1)) ∧
    (k = .up → ¬(0 < s.form.w ∧ s.cur.row = s.form.h ∧ 0 < s.cur.top) →
      moved (exec .up s) (if s.cur.row = 0 then 23 else s.cur.row - 1) s.cur.col s.cur.top)

/-- TAB, BACKTAB and NEWLINE without a pending edit go to the tab stop their rules name: the next stop after the reference
cell, the last one before it, the first one on a later row; at the edge of the window of a body with stops they move the
window by one line, and past the last or first stop they go round. They sound ALARM in a form that has no stop. BACKTAB
inside an entry instance goes to its first cell. The page keys move the window by W lines within 0 to D - W, or sound
ALARM where it stands at its end. -/
def Obligations.StopAndPageKeysMove : Prop :=
  ∀ (i : Instr) (k : Key) (b : Byte) (q : List Byte) (s : State), keyRowOf i = some k → KeyStands k b q s →
    s.key.keyboard = .free → s.key.edit = none →
    let alarmed := exec i s = .next (settle { s with key := { s.key with queue := q, alarm := true } })
    let goes (row col top : Nat) := ∃ u, exec i s = .next (settle u) ∧ movedTo q ⟨row, col, top⟩ s u
    let stops := tabStops s.form
    let cols := stopCols s.form
    let ref := referenceCell s
    let inside := ∃ e sh c0, currentEntry s = some (e, sh, c0) ∧ s.cur.col ≠ c0
    let start := match currentEntry s with
      | some (_, _, c0) => (s.cur.row, c0)
      | none => ref
    let scrollsOn (row : Nat) := 0 < s.form.w ∧ cols ≠ [] ∧ row + 1 = s.form.h + s.form.w ∧ s.cur.top + s.form.w < s.form.d
    let tabScrolls := scrollsOn ref.1 ∧ ∀ c ∈ cols, c ≤ ref.2
    let backScrolls := 0 < s.form.w ∧ cols ≠ [] ∧ start.1 = s.form.h ∧ 0 < s.cur.top ∧ ∀ c ∈ cols, start.2 ≤ c
    (k = .tab ∨ k = .newline ∨ (k = .backtab ∧ ¬inside) → stops = [] → alarmed) ∧
    (k = .tab → tabScrolls → ∀ c, cols.head? = some c → goes ref.1 c (s.cur.top + 1)) ∧
    (k = .tab → ¬tabScrolls → ∀ pre p post, stops = pre ++ p :: post → (∀ x ∈ pre, cellBefore ref x = false) →
      cellBefore ref p = true → goes p.1 p.2 s.cur.top) ∧
    (k = .tab → ¬tabScrolls → (∀ x ∈ stops, cellBefore ref x = false) → ∀ p, stops.head? = some p →
      goes p.1 p.2 s.cur.top) ∧
    (k = .backtab → ∀ e sh c0, currentEntry s = some (e, sh, c0) → s.cur.col ≠ c0 → goes s.cur.row c0 s.cur.top) ∧
    (k = .backtab → ¬inside → backScrolls → ∀ c, cols.getLast? = some c → goes s.form.h c (s.cur.top - 1)) ∧
    (k = .backtab → ¬inside → ¬backScrolls → ∀ pre p post, stops = pre ++ p :: post →
      (∀ x ∈ post, cellBefore x start = false) → cellBefore p start = true → goes p.1 p.2 s.cur.top) ∧
    (k = .backtab → ¬inside → ¬backScrolls → (∀ x ∈ stops, cellBefore x start = false) → ∀ p, stops.getLast? = some p →
      goes p.1 p.2 s.cur.top) ∧
    (k = .newline → scrollsOn s.cur.row → ∀ c, cols.head? = some c → goes s.cur.row c (s.cur.top + 1)) ∧
    (k = .newline → ¬scrollsOn s.cur.row → ∀ pre p post, stops = pre ++ p :: post → (∀ x ∈ pre, x.1 ≤ s.cur.row) →
      s.cur.row < p.1 → goes p.1 p.2 s.cur.top) ∧
    (k = .newline → ¬scrollsOn s.cur.row → (∀ x ∈ stops, x.1 ≤ s.cur.row) → ∀ p, stops.head? = some p →
      goes p.1 p.2 s.cur.top) ∧
    (k = .pageForward → min (s.cur.top + s.form.w) (s.form.d - s.form.w) = s.cur.top → alarmed) ∧
    (k = .pageForward → min (s.cur.top + s.form.w) (s.form.d - s.form.w) ≠ s.cur.top →
      goes s.cur.row s.cur.col (min (s.cur.top + s.form.w) (s.form.d - s.form.w))) ∧
    (k = .pageBack → s.cur.top - s.form.w = s.cur.top → alarmed) ∧
    (k = .pageBack → s.cur.top - s.form.w ≠ s.cur.top → goes s.cur.row s.cur.col (s.cur.top - s.form.w))

/-- A movement key whose target leaves the instance of a pending edit completes the edit first. A buffer that passes the
check of completion becomes the stored value, where it differs the modified flags are set and the computed values follow
and are handed on, the edit ends, and then the cursor moves. A buffer that fails raises its error, keeps the edit and everything stored, and moves nothing. A target
within the instance moves the cursor and keeps the edit, and a key that is blocked sounds ALARM. The check: a text passes
as it stands unless must-fill finds it filled in part; a NUMBER buffer gives ABSENT when empty and else its scaled value
where that fits, and must-fill wants as many digits as the capacity. -/
def Obligations.LeavingCompletesEdit : Prop :=
  (∀ (i : Instr) (k : Key) (m : State → Move) (b : Byte) (q : List Byte) (e : Edit) (sh : Shape) (s : State),
    keyRowOf i = some k → moveOf k = some m → KeyStands k b q s → s.key.keyboard = .free → s.key.edit = some e →
    instShape s.form e.inst = some sh → isEntryKind sh.kind = true →
    (m s = .blocked → exec i s = .next (settle { s with key := { s.key with queue := q, alarm := true } })) ∧
    (∀ r c top, m s = .target r c top → leaves s e.inst r c top = false →
      ∃ u, exec i s = .next (settle u) ∧ movedTo q ⟨r, c, top⟩ s u) ∧
    (∀ r c top v, m s = .target r c top → leaves s e.inst r c top = true → checkBuffer sh e.buf = .ok v →
      instValue s.form e.inst ≠ none →
      ∃ u, exec i s = .next (settle u) ∧ u.cur = ⟨r, c, top⟩ ∧ instValue u.form e.inst = some v ∧
        u.key = { s.key with queue := q, edit := none } ∧ u.send = s.send ∧
        u.tp = { s.tp with edge := { s.tp.edge with deskChange := u.tp.edge.deskChange } } ∧ deskChangeRight s u ∧
        u.line = { s.line with taken := u.line.taken } ∧ u.comp = { s.comp with items := u.comp.items } ∧
        (∀ it, instItem s.form s.cur.top e.inst = some it → it ∈ u.comp.items) ∧
        (∀ it, top ≠ s.cur.top → it ∈ allBodyRows s.form → it ∈ u.comp.items) ∧
        u.desk = { s.desk with active := u.desk.active, tallies := u.desk.tallies } ∧
        u.form = { s.form with vals := u.form.vals, lines := u.form.lines } ∧
        (∀ j sh', j ≠ e.inst → instShape s.form j = some sh' → storesOwn sh'.kind = true →
          instValue u.form j = instValue s.form j) ∧
        (∀ n w w', valFind s.form.vals n = some w → valFind u.form.vals n = some w' →
          w'.modified = (w.modified || decide (e.inst = .field n ∧ w.value ≠ v))) ∧
        (∀ (l : Nat) (ln ln' : LineRec), s.form.lines[l]? = some ln → u.form.lines[l]? = some ln' →
          (∀ n w w', valFind ln.cells n = some w → valFind ln'.cells n = some w' →
            w'.modified = (w.modified || decide (e.inst = .cell l n ∧ w.value ≠ v))) ∧
          (∀ n, e.inst = .cell l n →
            ln'.modified = (ln.modified || decide (instValue s.form e.inst ≠ some v))) ∧
          ((∀ n, e.inst ≠ .cell l n) → ln' = ln)) ∧
        (instValue s.form e.inst ≠ some v → sumsFollow u ∧ ∀ l n, e.inst = .cell l n → productsFollow u.form l) ∧
        HandedOn s u) ∧
    (∀ r c top x, m s = .target r c top → leaves s e.inst r c top = true → checkBuffer sh e.buf = .error x →
      exec i s = .next (settle { s with
        tp := { s.tp with edge := { s.tp.edge with keyError := true } }
        key := { s.key with queue := q, keyboard := .error, lastError := some (.op x), alarm := true }
        comp := { s.comp with items := [.status] } }))) ∧
  (∀ (sh : Shape) (buf : Text),
    (sh.kind = .text ∨ sh.kind = .digits →
      (sh.opts.mustFill = false ∨ (∀ b ∈ buf, b = blank) ∨ (∀ b ∈ buf, b ≠ blank) →
        checkBuffer sh buf = .ok (.text buf)) ∧
      (sh.opts.mustFill = true → (∃ b ∈ buf, b = blank) → (∃ b ∈ buf, b ≠ blank) →
        checkBuffer sh buf = .error .mustFill)) ∧
    (sh.kind = .number →
      (buf = [] → checkBuffer sh buf = .ok .absent) ∧
      (sh.opts.mustFill = true → buf ≠ [] → (buf.filter isDigit).length < capacity sh →
        checkBuffer sh buf = .error .mustFill) ∧
      (sh.opts.mustFill = false → buf = [minus] ∨ buf = [point] ∨ buf = [minus, point] →
        checkBuffer sh buf = .error .notValidHere) ∧
      (sh.opts.mustFill = false ∨ capacity sh ≤ (buf.filter isDigit).length →
        ∀ (neg : Bool) (ip pt fp : Text), buf = (if neg then [minus] else []) ++ ip ++ pt ++ fp →
        (pt = [] ∧ fp = []) ∨ pt = [point] → (∀ b ∈ ip ++ fp, isDigit b = true) → ip ++ fp ≠ [] →
        fp.length ≤ sh.decimals →
        let n : Nat := digitsNat (ip ++ fp) * 10 ^ (sh.decimals - fp.length)
        (n < 10 ^ capacity sh → checkBuffer sh buf = .ok (.number (if neg then -n else n))) ∧
        (10 ^ capacity sh ≤ n → checkBuffer sh buf = .error .tooLarge))))

/-- A data key in an entry instance begins or goes on with its edit. In TEXT and DIGITS the character, folded in an
upper-fold TEXT instance, is written at the cursor's position, in insert mode with what follows moved right, and the
cursor moves on; at the last position it stays, or with auto-advance the key then acts as TAB does. In NUMBER an accepted
character joins the buffer's end, and with auto-advance the one that fills it then acts as TAB does. A character that
DIGITS does not take, or that has no place in a NUMBER buffer, raises NOT VALID HERE; a full buffer raises FIELD FULL;
both leave the buffer as it was, with the edit begun. The buffer is shown in the instance's cells, and no other cell of
the image changes. Outside an entry instance the key raises PROTECTED. No stored value changes but by that TAB. -/
def Obligations.DataKeyWritesBuffer : Prop :=
  (∀ (sh : Shape) (b : Byte), foldChar sh b =
    if sh.kind = .text ∧ sh.opts.upperFold = true ∧ 0x61 ≤ b.toNat ∧ b.toNat ≤ 0x7A then b - 0x20 else b) ∧
  (∀ (i : Inst) (sh : Shape) (s : State),
    (∀ buf, s.key.edit = some ⟨i, buf⟩ → bufferFor s i sh = buf) ∧
    (s.key.edit = none → sh.kind = .number → bufferFor s i sh = []) ∧
    (s.key.edit = none → sh.kind ≠ .number → ∀ t, instValue s.form i = some (.text t) → bufferFor s i sh = t)) ∧
  ∀ (b : Byte) (q : List Byte) (s : State), KeyStands .data b q s → s.key.keyboard = .free →
    let written (i : Inst) (sh : Shape) (c0 col : Nat) (buf : Text) (u : State) := u = { s with
        cur := { s.cur with col := col }
        key := { s.key with queue := q, edit := some ⟨i, buf⟩ }
        comp := { s.comp with image := u.comp.image } } ∧
      (MemoriesSound s → recordsOnScreen s.form = true → ∀ r0, instFirst s.form s.cur.top i = some (r0, c0) →
        echoes r0 c0 sh buf s u)
    let keyed (i : Inst) (sh : Shape) (c0 col : Nat) (buf : Text) := ∃ u,
      exec .dataKey s = .next (settle u) ∧ written i sh c0 col buf u
    let tabbed (i : Inst) (sh : Shape) (c0 col : Nat) (buf : Text) := ∃ u, written i sh c0 col buf u ∧
      ∀ tab, keyOf tab = some .tab → exec .dataKey s = exec .tab { u with key := { u.key with queue := tab :: q } }
    let refused (x : OpError) (i : Inst) (sh : Shape) (c0 : Nat) (buf : Text) := ∃ u,
      exec .dataKey s = .next (settle (errs x q u)) ∧ written i sh c0 s.cur.col buf u
    (currentEntry s = none → exec .dataKey s = .next (settle { s with
      tp := { s.tp with edge := { s.tp.edge with keyError := true } }
      key := { s.key with queue := q, keyboard := .error, lastError := some (.op .protectedCell), alarm := true }
      comp := { s.comp with items := [.status] } })) ∧
    (∀ i sh c0, currentEntry s = some (i, sh, c0) → sh.kind ≠ .number →
      let buf := bufferFor s i sh
      let p := s.cur.col - c0
      let ch := foldChar sh b
      let bad := sh.kind = .digits ∧ isDigit ch = false ∧ ch ≠ blank
      let full := s.key.insertMode = true ∧ buf.getD (sh.length - 1) blank ≠ blank
      let new := if s.key.insertMode then buf.take p ++ ch :: (buf.drop p).dropLast else buf.set p ch
      (bad → refused .notValidHere i sh c0 buf) ∧
      (¬bad → full → refused .fieldFull i sh c0 buf) ∧
      (¬bad → ¬full → p + 1 < sh.length → keyed i sh c0 (c0 + p + 1) new) ∧
      (¬bad → ¬full → sh.length ≤ p + 1 → sh.opts.autoAdvance = false → keyed i sh c0 s.cur.col new) ∧
      (¬bad → ¬full → sh.length ≤ p + 1 → sh.opts.autoAdvance = true → tabbed i sh c0 s.cur.col new)) ∧
    (∀ i sh c0, currentEntry s = some (i, sh, c0) → sh.kind = .number →
      let buf := bufferFor s i sh
      let fits := isDigit b = true ∨ (b = minus ∧ sh.signed = true ∧ buf = []) ∨
        (b = point ∧ 0 < sh.decimals ∧ point ∉ buf)
      let room := buf.length < sh.length ∧
        (isDigit b = true → ∀ ip fp, buf = ip ++ point :: fp → point ∉ ip → fp.length < sh.decimals)
      let col := c0 + min (buf.length + 1) (sh.length - 1)
      (¬fits → refused .notValidHere i sh c0 buf) ∧
      (fits → ¬room → refused .fieldFull i sh c0 buf) ∧
      (fits → room → sh.opts.autoAdvance = false ∨ buf.length + 1 < sh.length → keyed i sh c0 col (buf ++ [b])) ∧
      (fits → room → sh.opts.autoAdvance = true → buf.length + 1 = sh.length → tabbed i sh c0 col (buf ++ [b])))

/-- BACKSPACE, DELETE and CLEAR TO END in an entry instance change its edit buffer, which its cells then show, and place the
cursor; outside an entry instance they raise PROTECTED. With no position to the left, or on an empty NUMBER buffer of a
pending edit, BACKSPACE sounds ALARM and changes nothing else; with no edit pending an empty NUMBER buffer begins one.
INSERT turns the insert mode over. No stored value changes. -/
def Obligations.EditingKeysChangeBuffer : Prop :=
  ∀ (i : Instr) (k : Key) (b : Byte) (q : List Byte) (s : State), keyRowOf i = some k → KeyStands k b q s →
    s.key.keyboard = .free →
    let alarmed := exec i s = .next (settle { s with key := { s.key with queue := q, alarm := true } })
    let edited (x : Inst) (sh : Shape) (c0 : Nat) (buf : Text) (col : Nat) := ∃ u, exec i s = .next (settle u) ∧
      u = { s with
        cur := { s.cur with col := col }
        key := { s.key with queue := q, edit := some ⟨x, buf⟩ }
        comp := { s.comp with image := u.comp.image } } ∧
      (MemoriesSound s → recordsOnScreen s.form = true → ∀ r0, instFirst s.form s.cur.top x = some (r0, c0) →
        echoes r0 c0 sh buf s u)
    (k = .insert → exec i s = .next (settle { s with
      key := { s.key with queue := q, insertMode := !s.key.insertMode }
      comp := { s.comp with items := [.status] } })) ∧
    (k = .backspace ∨ k = .delete ∨ k = .clearToEnd → currentEntry s = none → exec i s = .next (settle { s with
      tp := { s.tp with edge := { s.tp.edge with keyError := true } }
      key := { s.key with queue := q, keyboard := .error, lastError := some (.op .protectedCell), alarm := true }
      comp := { s.comp with items := [.status] } })) ∧
    (∀ x sh c0, currentEntry s = some (x, sh, c0) → sh.kind ≠ .number →
      let buf := bufferFor s x sh
      let p := s.cur.col - c0
      (k = .delete → edited x sh c0 (buf.take p ++ buf.drop (p + 1) ++ [blank]) s.cur.col) ∧
      (k = .clearToEnd → edited x sh c0 ((buf.take p ++ List.replicate sh.length blank).take sh.length) s.cur.col) ∧
      (k = .backspace → 0 < p → s.key.insertMode = false → edited x sh c0 (buf.set (p - 1) blank) (c0 + p - 1)) ∧
      (k = .backspace → 0 < p → s.key.insertMode = true →
        edited x sh c0 (buf.take (p - 1) ++ buf.drop p ++ [blank]) (c0 + p - 1)) ∧
      (k = .backspace → p = 0 → alarmed)) ∧
    (∀ x sh c0, currentEntry s = some (x, sh, c0) → sh.kind = .number →
      let buf := bufferFor s x sh
      (k = .clearToEnd → edited x sh c0 [] c0) ∧
      (k = .delete ∨ k = .backspace → buf ≠ [] →
        edited x sh c0 buf.dropLast (c0 + min (buf.length - 1) (sh.length - 1))) ∧
      (k = .delete ∨ k = .backspace → buf = [] → s.key.edit ≠ none → alarmed) ∧
      (k = .delete ∨ k = .backspace → buf = [] → s.key.edit = none → edited x sh c0 [] c0))

/-- CLEAR ALL empties every entry value, sets the modified flag of each entry field and the column-modified flag of each
entry cell that had content and the line-modified flag of each line that was ENTERED, and puts the cursor Home. REPEAT
ABOVE gives the instance the value of the one above it, with its column-modified and its line's line-modified flag set,
and leaves every other entry and DISPLAY instance alone. No flag is cleared. After each, the computed values follow their
inputs, and what changed of them is handed on. -/
def Obligations.ClearAllAndRepeatAbove : Prop :=
  ∀ (k : Key) (b : Byte) (q : List Byte) (s : State), KeyStands k b q s → s.key.keyboard = .free →
    (k = .clearAll → ∃ u, exec .clearAll s = .next (settle u) ∧
      u.key = { s.key with queue := q, edit := none } ∧ u.send = s.send ∧
      u.cur = ⟨(homeCell s.form).1, (homeCell s.form).2, s.cur.top⟩ ∧
      u.tp = { s.tp with edge := { s.tp.edge with deskChange := u.tp.edge.deskChange } } ∧ deskChangeRight s u ∧
      u.line = { s.line with taken := u.line.taken } ∧
      u.desk = { s.desk with active := u.desk.active, tallies := u.desk.tallies } ∧
      u.form = { s.form with vals := u.form.vals, lines := u.form.lines } ∧
      (∀ i sh v, instShape s.form i = some sh → instValue u.form i = some v →
        (isEntryKind sh.kind = true → valueAbsent v = true) ∧ (sh.kind = .display → instValue s.form i = some v)) ∧
      (∀ fd v w, findField s.form fd.number = some fd → valFind s.form.vals fd.number = some v →
        valFind u.form.vals fd.number = some w →
        w.modified = (v.modified || (isEntryKind fd.shape.kind && !valueAbsent v.value))) ∧
      (∀ (l : Nat) (ln ln' : LineRec), s.form.lines[l]? = some ln → u.form.lines[l]? = some ln' →
        ln'.modified = (ln.modified || lineEntered s.form ln) ∧
        ∀ c cd v w, findCol s.form c = some cd → valFind ln.cells c = some v → valFind ln'.cells c = some w →
          w.modified = (v.modified || (isEntryKind cd.shape.kind && !valueAbsent v.value))) ∧
      (∀ l < s.form.d, productsFollow u.form l) ∧ sumsFollow u ∧ HandedOn s u) ∧
    (k = .repeatAbove → ∀ l c sh c0 v, currentEntry s = some (.cell (l + 1) c, sh, c0) →
      instValue s.form (.cell l c) = some v → v ≠ .overflow → instValue s.form (.cell (l + 1) c) ≠ none →
      ∃ u, exec .repeatAbove s = .next (settle u) ∧ instValue u.form (.cell (l + 1) c) = some v ∧
        u.key = { s.key with queue := q, edit := none, alarm := u.key.alarm } ∧ u.send = s.send ∧
        u.tp = { s.tp with edge := { s.tp.edge with deskChange := u.tp.edge.deskChange } } ∧ deskChangeRight s u ∧
        u.desk = { s.desk with active := u.desk.active, tallies := u.desk.tallies } ∧
        u.form = { s.form with vals := u.form.vals, lines := u.form.lines } ∧
        (∀ i sh', i ≠ .cell (l + 1) c → instShape s.form i = some sh' → storesOwn sh'.kind = true →
          instValue u.form i = instValue s.form i) ∧
        (∀ j, j ≠ l + 1 → u.form.lines[j]? = s.form.lines[j]?) ∧
        (∀ (ln ln' : LineRec), s.form.lines[l + 1]? = some ln → u.form.lines[l + 1]? = some ln' → ln'.modified = true ∧
          ∀ n w w', valFind ln.cells n = some w → valFind ln'.cells n = some w' →
            w'.modified = (w.modified || decide (n = c))) ∧
        productsFollow u.form (l + 1) ∧ sumsFollow u ∧ HandedOn s u)

/-- LINE INSERT and LINE DELETE with the cursor off the window rows raise NOT IN BODY and keep a pending edit. On a window
row they first complete the pending edit, and a completion that fails raises its error and changes nothing else. LINE
INSERT then moves the lines from the cursor's line on down by one and leaves an EMPTY line in their place, line-modified
set from it on, unless the last line is ENTERED, which raises LINE GROUP FULL. LINE DELETE moves the lines after the
cursor's line up by one, leaves an EMPTY line last, and sets line-modified on each line whose content changed. Flags move
with their lines, the cursor goes to the first tab stop of its row, the sums follow, and the rows from the line on are
repainted. Values are stated for the entry and DISPLAY columns. -/
def Obligations.LineKeysShiftLines : Prop :=
  ∀ (i : Instr) (k : Key) (b : Byte) (q : List Byte) (s : State), keyRowOf i = some k →
    k = .lineInsert ∨ k = .lineDelete → KeyStands k b q s → s.key.keyboard = .free →
    (cursorLine s = none → exec i s = .next (settle (errs .notInBody q s))) ∧
    (∀ e sh x, cursorLine s ≠ none → s.key.edit = some e → instShape s.form e.inst = some sh →
      checkBuffer sh e.buf = .error x → exec i s = .next (settle (errs x q s))) ∧
    (∀ l, cursorLine s = some l → CursorSound s → s.key.edit = none →
      k = .lineDelete ∨ lineEnteredAt s.form (s.form.d - 1) = false → ∃ u, exec i s = .next (settle u) ∧
        u.key = { s.key with queue := q } ∧ ∀ j < l, u.form.lines[j]? = s.form.lines[j]?) ∧
    (∀ l, cursorLine s = some l → CursorSound s → mayComplete s → ∃ w, readied q s w ∧
      (k = .lineInsert → lineEnteredAt w.form (s.form.d - 1) = true →
        exec i s = .next (settle (errs .lineGroupFull q w))) ∧
      (k = .lineDelete ∨ lineEnteredAt w.form (s.form.d - 1) = false → ∃ u, exec i s = .next (settle u) ∧
        u.key = { s.key with queue := q, edit := none } ∧ u.send = s.send ∧ u.form.lines.length = s.form.d ∧
        u.form = { s.form with vals := u.form.vals, lines := u.form.lines } ∧
        (∀ n fd, findField s.form n = some fd → isSumKind fd.shape.kind = false →
          instValue u.form (.field n) = instValue w.form (.field n)) ∧
        (∀ n x x', valFind w.form.vals n = some x → valFind u.form.vals n = some x' → x'.modified = x.modified) ∧
        u.desk = { s.desk with active := u.desk.active, tallies := u.desk.tallies } ∧
        u.tp = { w.tp with edge := { w.tp.edge with deskChange := u.tp.edge.deskChange } } ∧ deskChangeRight w u ∧
        (∀ j, l ≤ j → productsFollow u.form j) ∧ sumsFollow u ∧ HandedOn w u ∧ u.line = { s.line with taken := u.line.taken } ∧
        u.comp = { s.comp with items := u.comp.items } ∧ Item.status ∉ u.comp.items ∧
        (∀ it ∈ w.comp.items, it ∈ u.comp.items) ∧
        (∀ m < s.form.w, l ≤ s.cur.top + m → Item.bodyRow (s.form.h + m) ∈ u.comp.items) ∧
        (∀ c, (stopCols s.form).head? = some c → u.cur = { s.cur with col := c }) ∧
        (stopCols s.form = [] → u.cur = s.cur) ∧
        (∀ j < l, u.form.lines[j]? = w.form.lines[j]?) ∧
        (k = .lineInsert →
          (∀ c cd, findCol s.form c = some cd → storesOwn cd.shape.kind = true →
            (∃ v, instValue u.form (.cell l c) = some v ∧ valueAbsent v = true) ∧
            ∀ j, l ≤ j → j + 1 < s.form.d → instValue u.form (.cell (j + 1) c) = instValue w.form (.cell j c)) ∧
          (∀ j ln, l ≤ j → u.form.lines[j]? = some ln → ln.modified = true) ∧
          (∀ ln n x, u.form.lines[l]? = some ln → valFind ln.cells n = some x → x.modified = false) ∧
          (∀ j (ln ln' : LineRec), l ≤ j → w.form.lines[j]? = some ln → u.form.lines[j + 1]? = some ln' →
            ∀ n x x', valFind ln.cells n = some x → valFind ln'.cells n = some x' → x'.modified = x.modified)) ∧
        (k = .lineDelete →
          (∀ c cd, findCol s.form c = some cd → storesOwn cd.shape.kind = true →
            (∃ v, instValue u.form (.cell (s.form.d - 1) c) = some v ∧ valueAbsent v = true) ∧
            ∀ j, l ≤ j → j + 1 < s.form.d → instValue u.form (.cell j c) = instValue w.form (.cell (j + 1) c)) ∧
          (∀ j (old moved ln : LineRec), l ≤ j → w.form.lines[j]? = some old → u.form.lines[j]? = some ln →
            (if j + 1 < s.form.d then w.form.lines[j + 1]? else some (newLine s.form)) = some moved →
            (ln.modified = true ↔ moved.modified = true ∨ ∃ cd ∈ s.form.cols, storesOwn cd.shape.kind = true ∧
              lineValue old cd.number ≠ lineValue moved cd.number) ∧
            ∀ n x x', valFind moved.cells n = some x → valFind ln.cells n = some x' → x'.modified = x.modified))))

/-- SEND first completes the pending edit; a completion that fails raises its error and changes nothing else. Then SEND
locks the keyboard and begins the assembly with its key code and the cursor recorded, or raises E06 with the cursor on the
first empty mandatory instance, the window moved where its line is not visible. The instances examined are the mandatory
header fields, the mandatory columns of each ENTERED line, and the mandatory footer fields, in this order. A signal key
abandons the pending edit and begins an assembly without a check. -/
def Obligations.SendAndSignalBeginAssembly : Prop :=
  (∀ (k : Key) (b : Byte) (q : List Byte) (s : State), KeyStands k b q s → s.key.keyboard = .free →
    let begun (code : Byte) (items : List Item) (w : State) : State := { w with
      key := { w.key with queue := q, keyboard := .locked, edit := none }
      send := { state := .assembling
                record := some { code := code, row := s.cur.row, col := s.cur.col
                                 line := lineAt s.form s.cur.top s.cur.row }
                block := [], readPos := 0 }
      comp := { w.comp with items := items ++ [.status] } }
    (k = .signal → exec .signalKey s = .next (settle
      (begun b ((s.key.edit.bind (fun e => instItem s.form s.cur.top e.inst)).toList) s))) ∧
    (k = .send → ∀ e sh x, s.key.edit = some e → instShape s.form e.inst = some sh → checkBuffer sh e.buf = .error x →
      exec .send s = .next (settle (errs x q s))) ∧
    (k = .send → s.key.edit = none → offender s.form = none →
      exec .send s = .next (settle (begun 0x93 s.comp.items s))) ∧
    (k = .send → mayComplete s → ∃ w, readied q s w ∧
      (let placed (cur : CursorEngine) := ∃ u, exec .send s = .next (settle (errs .mandatoryEmpty q u)) ∧
        movedTo q cur w u
       (offender w.form = none → exec .send s = .next (settle (begun 0x93 w.comp.items w))) ∧
       (∀ n fd, offender w.form = some (.field n) → findField s.form n = some fd →
         placed ⟨fd.row, fd.col, s.cur.top⟩) ∧
       (∀ l c cd, offender w.form = some (.cell l c) → findCol s.form c = some cd →
         (s.cur.top ≤ l → l < s.cur.top + s.form.w → placed ⟨s.form.h + (l - s.cur.top), cd.col, s.cur.top⟩) ∧
         (l < s.cur.top ∨ s.cur.top + s.form.w ≤ l →
           placed ⟨s.form.h + (l - min l (s.form.d - s.form.w)), cd.col, min l (s.form.d - s.form.w)⟩))))) ∧
  (∀ (f : FormStore),
    let fixed (header : Bool) := (f.fields.filter (fun fd =>
      fd.shape.opts.mandatory && decide (decide (fd.row < f.h) = header))).map (fun fd => Inst.field fd.number)
    let body := (List.range f.d).flatMap (fun l => if lineEnteredAt f l then
      (f.cols.filter (fun cd => cd.shape.opts.mandatory)).map (fun cd => Inst.cell l cd.number) else [])
    let empty (i : Inst) := valueAbsent ((instValue f i).getD .absent)
    (∀ pre i post, fixed true ++ body ++ fixed false = pre ++ i :: post → (∀ x ∈ pre, empty x = false) →
      empty i = true → offender f = some i) ∧
    ((∀ x ∈ fixed true ++ body ++ fixed false, empty x = false) → offender f = none))

/-- An assembly within 2048 bytes completes READY with BLOCK READY pending; a longer one ends in E08 with the block
discarded. The block is key code, cursor row, column and line, the item count in two bytes, and for SEND a FIELD item for
each screen field with its modified flag set, in screen order, and a LINE item for each line with its line-modified flag
set, in position order, each line with every entry column in column-number order. A TEXT value goes without its trailing
blanks, a DIGITS value whole, a NUMBER value as its canonical text. A signal key's block holds no item. -/
def Obligations.AssemblyBuildsBlock : Prop :=
  (∀ (r : SendRec) (s : State), s.send.state = .assembling → s.send.record = some r →
    ((sendBlock s.form r).length ≤ 2048 → exec .assemblyComplete s = .next (settle { s with
      send := { s.send with state := .ready, block := sendBlock s.form r, readPos := 0 } }) ∧
      blockReady { s with send := { s.send with state := .ready, block := sendBlock s.form r, readPos := 0 } } = true) ∧
    (2048 < (sendBlock s.form r).length → ∃ u, exec .assemblyComplete s = .next (settle u) ∧
      u.send.state = .none ∧ u.send.block = [] ∧ u.form = s.form ∧ u.cur = s.cur ∧
      u.key = { s.key with keyboard := .error, lastError := some (.op .blockTooLarge), alarm := true } ∧
      u.tp = { s.tp with edge := { s.tp.edge with keyError := true } } ∧ Item.status ∈ u.comp.items) ∧
    (sendBlock s.form r).take 4 = [r.code, BitVec.ofNat 8 r.row, BitVec.ofNat 8 r.col, lineByte r.line] ∧
    (r.code ≠ 0x93 → sendBlock s.form r =
      [r.code, BitVec.ofNat 8 r.row, BitVec.ofNat 8 r.col, lineByte r.line, 0, 0])) ∧
  (∀ (r : SendRec) (f : FormStore) (cols : List ColumnDef), r.code = 0x93 →
    cols.Pairwise (fun a b => a.number < b.number) →
    (∀ cd, cd ∈ cols ↔ findCol f cd.number = some cd ∧ isEntryKind cd.shape.kind = true ∧ cd.number ≤ 12) →
    let part (sh : Shape) (v : Option Value) : List Byte :=
      BitVec.ofNat 8 (itemText sh (v.getD .absent)).length :: itemText sh (v.getD .absent)
    let fields := (f.fields.filter (fun fd => (valFind f.vals fd.number).any (·.modified))).map (fun fd =>
      [0x01, BitVec.ofNat 8 fd.number] ++ part fd.shape (instValue f (.field fd.number)))
    let lines := (f.lines.zipIdx.filter (fun p => p.1.modified)).map (fun p =>
      [0x02, BitVec.ofNat 8 p.2, if lineEntered f p.1 then 1 else 0] ++
        cols.flatMap (fun cd => part cd.shape (instValue f (.cell p.2 cd.number))))
    sendBlock f r = [r.code, BitVec.ofNat 8 r.row, BitVec.ofNat 8 r.col, lineByte r.line] ++
      [BitVec.ofNat 8 ((fields.length + lines.length) / 256), BitVec.ofNat 8 (fields.length + lines.length)] ++
      fields.flatten ++ lines.flatten) ∧
  (∀ (sh : Shape) (t : Text),
    (sh.kind = .text → ∃ n, t = itemText sh (.text t) ++ List.replicate n blank ∧
      (itemText sh (.text t)).getLast? ≠ some blank) ∧
    (sh.kind = .digits → itemText sh (.text t) = t) ∧
    (sh.kind = .number → itemText sh .absent = [] ∧ itemText sh .overflow = [0x2A] ∧
      ∀ v, itemText sh (.number v) = canonicalText sh.decimals (.number v)))

/-! ## The Composer -/

/-- The completion of a render draws its item and takes it from the list, to the tail again when it was marked. STATUS
gives row 24 its 80 cells and CLEAR blanks rows 0 to 23. LABELS gives every header and footer cell outside the fields its
label character. FIELD shows its instance in its cells, BODY ROW the instances of its row's line in the cells of their
columns and the template row's label characters in the others. Each leaves every other cell of the image alone. The status
row holds the keyboard word, INS, the line part, the error text and the banner in their columns. That the image takes all
cells of an item at the completion of its render, from the state as it stands then, is the model's reading
(notes/assumptions/11.md). -/
def Obligations.RenderDrawsHeadItem : Prop :=
  ∀ (it : Item) (is : List Item) (s : State), s.comp.items = it :: is → s.comp.rendering = true → MemoriesSound s →
    let covers (fd : FieldDef) (r c : Nat) := fd.row = r ∧ fd.col ≤ c ∧ c < fd.col + fd.shape.length
    let within (cd : ColumnDef) (c : Nat) := cd.col ≤ c ∧ c < cd.col + cd.shape.length
    ∃ u, exec .renderComplete s = .next (settle u) ∧
      u = { s with comp := { s.comp with
        image := u.comp.image, items := if s.comp.remark then is ++ [it] else is, rendering := false, remark := false } } ∧
      (it = .status → (∀ c < 80, some (imageCell u 24 c) = (statusCells s)[c]?) ∧
        (∀ r c, r < 24 → c < 80 → imageCell u r c = imageCell s r c)) ∧
      (it = .status →
        let code (c : Nat) : Byte := (imageCell u 24 c).code
        let shows (c n : Nat) (t : Text) := ∀ j < n, code (c + j) = t.getD j blank
        let coded (n : Nat) (name : Text) := shows 0 6 (chars ['E', 'R', 'R'] ++ [0x30 + BitVec.ofNat 8 (n / 10 % 10),
          0x30 + BitVec.ofNat 8 (n % 10)]) ∧ shows 20 19 name
        (∀ c < 80, (imageCell u 24 c).attrs =
          if s.key.keyboard = .error ∧ c < 5 then ⟨true, true, false, false⟩ else noAttrs) ∧
        code 6 = blank ∧ code 10 = blank ∧ code 39 = blank ∧
        (s.key.keyboard = .free → shows 0 6 (chars ['R', 'E', 'A', 'D', 'Y'])) ∧
        (s.key.keyboard = .locked → shows 0 6 (chars ['W', 'A', 'I', 'T'])) ∧
        (s.key.keyboard = .system → shows 0 6 (chars ['S', 'E', 'T', 'U', 'P'])) ∧
        (s.key.keyboard ≠ .error → shows 20 19 []) ∧
        (s.key.keyboard = .error → ∀ n m, s.key.lastError = some (.reject n m) → coded n m) ∧
        (s.key.keyboard = .error → ∀ x, s.key.lastError = some (.op x) → match x with
          | .protectedCell => coded 1 (chars ['P', 'R', 'O', 'T', 'E', 'C', 'T', 'E', 'D'])
          | .notValidHere =>
            coded 2 (chars ['N', 'O', 'T', ' ', 'V', 'A', 'L', 'I', 'D', ' ', 'H', 'E', 'R', 'E'])
          | .fieldFull => coded 3 (chars ['F', 'I', 'E', 'L', 'D', ' ', 'F', 'U', 'L', 'L'])
          | .tooLarge => coded 4 (chars ['T', 'O', 'O', ' ', 'L', 'A', 'R', 'G', 'E'])
          | .mustFill => coded 5 (chars ['M', 'U', 'S', 'T', ' ', 'F', 'I', 'L', 'L'])
          | .mandatoryEmpty =>
            coded 6 (chars ['M', 'A', 'N', 'D', 'A', 'T', 'O', 'R', 'Y', ' ', 'E', 'M', 'P', 'T', 'Y'])
          | .lineGroupFull =>
            coded 7 (chars ['L', 'I', 'N', 'E', ' ', 'G', 'R', 'O', 'U', 'P', ' ', 'F', 'U', 'L', 'L'])
          | .blockTooLarge =>
            coded 8 (chars ['B', 'L', 'O', 'C', 'K', ' ', 'T', 'O', 'O', ' ', 'L', 'A', 'R', 'G', 'E'])
          | .notInBody => coded 10 (chars ['N', 'O', 'T', ' ', 'I', 'N', ' ', 'B', 'O', 'D', 'Y'])) ∧
        shows 7 3 (if s.key.insertMode then chars ['I', 'N', 'S'] else []) ∧
        (∀ l, s.form.state = .active → lineAt s.form s.cur.top s.cur.row = some l → l < 999 → s.form.d < 100 →
          shows 11 9 (chars ['L', 'N', ' '] ++
            [(l + 1) / 100, (l + 1) / 10 % 10, (l + 1) % 10].map (fun n => 0x30 + BitVec.ofNat 8 n) ++ chars ['/'] ++
            [s.form.d / 10, s.form.d % 10].map (fun n => 0x30 + BitVec.ofNat 8 n))) ∧
        (s.form.state ≠ .active ∨ lineAt s.form s.cur.top s.cur.row = none → shows 11 9 []) ∧
        shows 40 40 ((s.desk.banner.map (·.text)).getD [])) ∧
      (it = .clear → (∀ r c, r < 24 → c < 80 → imageCell u r c = blankCell) ∧
        (∀ c < 80, imageCell u 24 c = imageCell s 24 c)) ∧
      (it = .labels → ∀ r c, c < 80 →
        (r < 24 → ¬(s.form.h ≤ r ∧ r < s.form.h + s.form.w) → (∀ fd ∈ s.form.fields, ¬covers fd r c) →
          imageCell u r c = ⟨cellRead blank s.form.screenPlane (80 * r + c), noAttrs⟩) ∧
        (24 ≤ r ∨ (s.form.h ≤ r ∧ r < s.form.h + s.form.w) ∨ (∃ fd ∈ s.form.fields, covers fd r c) →
          imageCell u r c = imageCell s r c)) ∧
      (∀ n fd, it = .field n → findField s.form n = some fd → recordsOnScreen s.form = true → ∀ r c, c < 80 →
        (covers fd r c → imageCell u r c = shownCell s (.field n) fd.shape (c - fd.col)) ∧
        (¬covers fd r c → imageCell u r c = imageCell s r c)) ∧
      (∀ row l, it = .bodyRow row → lineAt s.form s.cur.top row = some l → recordsOnScreen s.form = true →
        ∀ r c, c < 80 →
        (r ≠ row → imageCell u r c = imageCell s r c) ∧
        (r = row → (∀ cd ∈ s.form.cols, ¬within cd c) →
          imageCell u r c = ⟨cellRead blank s.form.linePlane c, noAttrs⟩) ∧
        (r = row → ∀ cd ∈ s.form.cols, within cd c → (∀ g ∈ s.form.cols, within g c → g = cd) →
          imageCell u r c = shownCell s (.cell l cd.number) cd.shape (c - cd.col))) ∧
      ((∀ n, it = .field n → findField s.form n = none) → (∀ row, it = .bodyRow row → lineAt s.form s.cur.top row = none) →
        it ≠ .status → it ≠ .clear → it ≠ .labels → u.comp.image = s.comp.image)

/-! ## The Desk Line -/

/-- A character received on the line joins the FIFO with its mark, framing and late flags and starts the gap timer; at a
full FIFO it is lost with everything that was being built. In loopback the next character of the frame being sent joins
the FIFO so, with the gap timer stopped in SEND, and no other character comes: the count of looped characters and this
reading of R156 are the model's (notes/assumptions/15.md), as is that an event which cannot happen changes nothing
(notes/assumptions/3.md) and the field `sampling` (notes/assumptions/10.md). -/
def Obligations.ReceiverTakesCharacters : Prop :=
  ∀ (data : Byte) (mark framing : Bool) (s : State), s.tp.phase = .ready → s.line.rxOpen = true →
    s.line.breakHold = false →
    let joins (l : DeskLineUnit) (framing : Bool) :=
      (s.line.fifo.length < 16 → exec (.characterReceived data mark framing) s = .next (settle { s with
        line := { l with
          fifo := s.line.fifo ++ [{ data := data, mark := mark, framing := framing, late := s.line.gapRecorded }] } })) ∧
      (16 ≤ s.line.fifo.length → exec (.characterReceived data mark framing) s = .next (settle { s with
        line := { l with
          fifo := [], buffer := [], rxState := .hunt
          flags := { l.flags with overrun := true } } }))
    (s.line.loopback = false → s.line.tx ≠ .send → joins { s.line with
      sampling := false, gapRunning := true, gapRecorded := false
      flags := { s.line.flags with framing := s.line.flags.framing || framing } } framing) ∧
    (s.line.loopback = true → s.line.tx = .send → framing = false → ∀ f, s.line.frame = some f →
      (frameChars f)[s.line.looped]? = some (data, mark) → joins { s.line with
        sampling := false, gapRunning := false, gapRecorded := false, looped := s.line.looped + 1 } false) ∧
    (s.line.loopback = true → s.line.tx ≠ .send ∨ framing = true ∨
      (∀ f, s.line.frame = some f → (frameChars f)[s.line.looped]? ≠ some (data, mark)) →
      exec (.characterReceived data mark framing) s = .next s)

/-- What the events of the line do: a break, its end, a start bit, the receive listen, the join listen and the expiry of
the gap timer. The field `sampling` is the model's (notes/assumptions/10.md). -/
def Obligations.LineEventsAct : Prop :=
  ∀ s : State, s.tp.phase = .ready →
    (s.line.rxOpen = true → s.line.breakHold = false → s.line.loopback = false → s.line.tx ≠ .send →
      exec .breakDetected s = .next (settle { s with
        line := { s.line with breakHold := true, sampling := false, flags := { s.line.flags with brk := true } } })) ∧
    (s.line.breakHold = true →
      exec .lineHighAfterBreak s = .next (settle { s with line := { s.line with breakHold := false } })) ∧
    (s.line.breakHold = false → s.line.loopback = false → s.line.tx ≠ .send → exec .startBit s =
      .next (settle { s with line := { s.line with gapRunning := false, sampling := s.line.rxOpen } })) ∧
    (s.line.rxOpen = false →
      exec .receiveListenComplete s = .next (settle { s with line := { s.line with rxOpen := true } })) ∧
    (s.line.breakHold = false → s.line.sampling = false → s.line.joined = false →
      exec .joinListenComplete s = .next (settle { s with line := { s.line with joined := true } })) ∧
    (s.line.gapRunning = true → s.line.rxState = .accept → s.line.fifo = [] →
      exec .gapTimerExpiry s = .next (settle { s with
        line := { s.line with
          gapRunning := false, gapRecorded := true, rxState := .hunt, buffer := []
          flags := { s.line.flags with timeout := true } } })) ∧
    (s.line.gapRunning = true → s.line.rxState ≠ .accept ∨ s.line.fifo ≠ [] →
      exec .gapTimerExpiry s = .next (settle { s with
        line := { s.line with gapRunning := false, gapRecorded := true } }))

/-- A character goes out as 11 bit times, start bit, data least significant bit first, mark, stop, and the samples of
those bit times give it back; a high start sample is a false start, a low stop sample a framing flag. The characters of a
frame go out back to back. The frame assembler takes the head of the FIFO while the hand-off holding place is empty. A
frame sent by a station is received by every other that accepts its head: its characters, taken one by one by a receiver
in HUNT, leave that very frame in the holding place and the receiver in HUNT; in loopback they do so for a PASS and a
BANNER, whatever their source, and any other frame is discarded without a flag. A head that is not accepted leads to SKIP,
which nothing but a head ends. In ACCEPT a late character abandons the frame with TIMEOUT, a character with its framing
flag without a flag, a head with LENGTH, a length above 72 with LENGTH; a complete frame is discarded with CHECK when its
sum is not 0, and with LENGTH or CLASH by the first test of its validation that fails. -/
def Obligations.SentFrameIsReceived : Prop :=
  (∀ (d : Byte) (m : Bool),
    charBits (d, m) = [false, d.getLsbD 0, d.getLsbD 1, d.getLsbD 2, d.getLsbD 3, d.getLsbD 4, d.getLsbD 5,
      d.getLsbD 6, d.getLsbD 7, m, true] ∧
    sampledChar (charBits (d, m)) = some (d, m, false) ∧
    sampledChar ((charBits (d, m)).set 10 false) = some (d, m, true) ∧
    sampledChar ((charBits (d, m)).set 0 true) = none) ∧
  (∀ (f : Frame) (l : DeskLineUnit),
    (frameBits f).length = 11 * (5 + f.payload.length) ∧ (frameBits f).getLast? = some true ∧
    (∀ k c j, (frameChars f)[k]? = some c → j < 11 → (frameBits f)[11 * k + j]? = (charBits c)[j]?) ∧
    (∀ n b, l.tx = .send → l.frame = some f → (frameBits f)[n]? = some b → sentLevel l n = b) ∧
    (∀ n, l.tx ≠ .send → sentLevel l n = true)) ∧
  (∀ (c : RxChar) (cs : List RxChar) (s : State), s.line.fifo = c :: cs → s.line.handoff = none →
    ∃ l, exec .frameAssemblerCharacter s = .next (settle { s with line := l }) ∧
      l = assemble c { s.line with fifo := cs } ∧ l.fifo = cs ∧ l.tx = s.line.tx ∧ l.selection = s.line.selection) ∧
  (∀ (c : RxChar) (l : DeskLineUnit),
    let accepted := c.data.toNat = 31 ∨ (c.data.toNat = l.station.toNat ∧ l.station.toNat < 30)
    let out : DeskLineUnit := { l with rxState := .hunt, buffer := [] }
    let length : DeskLineUnit := { out with flags := { l.flags with length := true } }
    (l.rxState ≠ .accept →
      (c.mark = false ∨ c.framing = true → assemble c l = l) ∧
      (c.mark = true → c.framing = false → accepted →
        assemble c l = { l with rxState := .accept, buffer := [c.data] }) ∧
      (c.mark = true → c.framing = false → ¬accepted → assemble c l = { l with rxState := .skip, buffer := [] })) ∧
    (l.rxState = .accept →
      (c.late = true → assemble c l = assemble c { out with flags := { l.flags with timeout := true } }) ∧
      (c.late = false → c.framing = true → assemble c l = out) ∧
      (c.late = false → c.framing = false → c.mark = true → assemble c l = assemble c length) ∧
      (c.late = false → c.framing = false → c.mark = false →
        let bs := l.buffer ++ [c.data]
        let n := (bs.getD 3 0).toNat
        (bs.length < 4 ∨ (bs.length = 4 ∧ n ≤ 72) ∨ (4 < bs.length ∧ bs.length ≠ 5 + n) →
          assemble c l = { l with buffer := bs }) ∧
        (bs.length = 4 → 72 < n → assemble c l = length) ∧
        (4 < bs.length → bs.length = 5 + n → (bs.map (·.toNat)).sum % 256 ≠ 0 →
          assemble c l = { out with flags := { l.flags with check := true } }) ∧
        (∀ dest src kind len rest, bs = dest :: src :: kind :: len :: rest → bs.length = 5 + n →
          (bs.map (·.toNat)).sum % 256 = 0 →
          (30 ≤ src.toNat → assemble c l = length) ∧
          (src.toNat < 30 → l.loopback = false → src.toNat = l.station.toNat →
            assemble c l = { out with flags := { l.flags with clash := true } }) ∧
          (src.toNat < 30 → l.loopback = true ∨ src.toNat ≠ l.station.toNat →
            (frameKindOf kind = none → assemble c l = length) ∧
            ∀ k, frameKindOf kind = some k →
              (lengthLegal k n = false ∨ destLegal k dest = false → assemble c l = length) ∧
              (lengthLegal k n = true → destLegal k dest = true →
                (l.loopback = true → k ≠ .pass → k ≠ .banner → assemble c l = out) ∧
                (l.loopback = false ∨ k = .pass ∨ k = .banner → assemble c l = { out with
                  handoff := some { dest := dest, source := src, kind := k, payload := rest.take n } }))))))) ∧
  ((∀ b, frameKindOf b = match b.toNat with
      | 1 => some .greet | 2 => some .tally | 3 => some .retract | 4 => some .banner | 5 => some .pass
      | 6 => some .pause | 7 => some .resume | _ => none) ∧
    (∀ k n, lengthLegal k n = true ↔ match k with
      | .greet | .pause | .resume => n = 0 | .tally => n = 12 | .retract => n = 1 | .banner => n ≤ 40
      | .pass => 1 ≤ n ∧ n ≤ 64) ∧
    (∀ k (dest : Byte), destLegal k dest = true ↔ if k = .pass then dest.toNat < 30 else dest.toNat = 31)) ∧
  (∀ (f : Frame) (l : DeskLineUnit), l.rxState = .hunt → l.loopback = false → f.source.toNat < 30 →
    f.source.toNat ≠ l.station.toNat → lengthLegal f.kind f.payload.length = true → destLegal f.kind f.dest = true →
    acceptsHead l f.dest = true →
    (frameChars f).foldl
      (fun m p => assemble { data := p.1, mark := p.2, framing := false, late := false } m) l =
      { l with handoff := some f, buffer := [] }) ∧
  (∀ (f : Frame) (l : DeskLineUnit) (late : Bool), l.rxState = .hunt ∨ l.rxState = .skip →
    let taken := (frameChars f).foldl
      (fun m p => assemble { data := p.1, mark := p.2, framing := false, late := late && p.2 } m) l
    (acceptsHead l f.dest = false → taken = { l with rxState := .skip, buffer := [] }) ∧
    (acceptsHead l f.dest = true → l.loopback = true → f.source.toNat < 30 →
      lengthLegal f.kind f.payload.length = true → destLegal f.kind f.dest = true →
      taken = { l with
        rxState := .hunt, buffer := []
        handoff := if f.kind = .pass ∨ f.kind = .banner then some f else l.handoff }))

/-- The transmitter: the access gap leads from DEFER to SEND with the selected place's frame, marked taken, and abandons a
frame in ACCEPT with LENGTH in normal mode; a completed frame is retired and leads to YIELD; a collision leads to BACKOFF,
the sixth to the drop of the frame; BACKOFF leads back to DEFER, and YIELD to the next request. A held change of link mode
is applied when the transmitter leaves SEND; that it ends a break and keeps a recorded gap is the model's choice
(notes/assumptions/16.md). In loopback a frame is complete only when its last character has come round (the model's
reading, notes/assumptions/15.md); that an event out of turn changes nothing is the model's choice
(notes/assumptions/3.md). The field `sampling` is the model's (notes/assumptions/10.md). -/
def Obligations.TransmitterSendsAndRetires : Prop :=
  ∀ s : State, s.tp.phase = .ready →
    let left (l : DeskLineUnit) : DeskLineUnit := match s.line.held with
      | none => { l with sampling := false }
      | some on => { l with
          loopback := on, held := none, fifo := [], buffer := [], rxState := .hunt
          rxOpen := false, sampling := false, breakHold := false, gapRunning := false }
    let spaceRight (u : State) := u.tp.edge.space = true ↔ s.tp.edge.space = true ∨
      (s.desk.messages.length = 6 ∧ u.desk.messages.length = 5)
    (s.line.breakHold = false → s.line.sampling = false → s.line.tx = .defer →
      ∀ p f, s.line.selection = some p → supply s.desk (ownNumber s.line) p = some f →
      let sending : DeskLineUnit := { s.line with
        tx := .send, need := 0, taken := true, frame := some f, looped := 0, gapRunning := false, sampling := false }
      (s.line.rxState ≠ .accept ∨ s.line.loopback = true →
        exec .accessGapReached s = .next (settle { s with line := sending })) ∧
      (s.line.rxState = .accept → s.line.loopback = false → exec .accessGapReached s = .next (settle { s with
        line := { sending with rxState := .hunt, buffer := [], flags := { s.line.flags with length := true } } }))) ∧
    (s.line.tx = .send →
      (s.line.loopback = true → s.line.rxOpen = true → ∀ f, s.line.frame = some f → (frameChars f).length ≤ s.line.looped) →
      ∀ p, s.line.selection = some p →
      ∃ u, exec .frameSent s = .next (settle u) ∧
        u.line = left { s.line with
          tx := .yield, need := 32, attempts := 0, frame := none, selection := none, taken := false } ∧
        u.desk = (if s.line.taken then emptyPlace s.desk p else s.desk) ∧ spaceRight u ∧
        u.form = s.form ∧ u.key = s.key ∧ u.comp = s.comp ∧ u.send = s.send ∧ u.cur = s.cur) ∧
    (s.line.tx = .send → s.line.loopback = true → s.line.rxOpen = true →
      ∀ f c, s.line.frame = some f → (frameChars f)[s.line.looped]? = some c → exec .frameSent s = .next s) ∧
    (s.line.tx = .send → s.line.loopback = false → s.line.attempts < 5 →
      exec .collision s = .next (settle { s with
        line := left { s.line with
          tx := .backoff, need := (s.line.attempts + 1) * 8 + s.line.station.toNat, attempts := s.line.attempts + 1
          frame := none } })) ∧
    (s.line.tx = .send → s.line.loopback = false → 5 ≤ s.line.attempts →
      ∀ p f, s.line.selection = some p → s.line.frame = some f →
      ∃ u, exec .collision s = .next (settle u) ∧
        u.line = left { s.line with
          tx := .yield, need := 32, attempts := 0, frame := none, selection := none, taken := false
          flags := { s.line.flags with dropped := true }, lastDropped := some f.kind } ∧
        u.desk = (if s.line.taken then emptyPlace s.desk p else s.desk) ∧ spaceRight u ∧
        u.form = s.form ∧ u.key = s.key ∧ u.comp = s.comp ∧ u.send = s.send ∧ u.cur = s.cur) ∧
    (s.line.tx = .backoff → s.line.breakHold = false → exec .backoffComplete s = .next (settle { s with
      line := { s.line with tx := .defer, need := 33 + s.line.station.toNat } })) ∧
    (s.line.breakHold = false → s.line.sampling = false → s.line.tx = .yield →
      ∃ u, exec .yieldComplete s = .next (settle u) ∧
        u.line = { s.line with tx := u.line.tx, need := u.line.need, selection := arbiter s.desk, taken := false } ∧
        (u.line.tx = if arbiter s.desk = none then .idle else .defer) ∧
        u.desk = s.desk ∧ u.form = s.form ∧ u.key = s.key ∧ u.comp = s.comp)

/-! ## The Desk Exchange -/

/-- A frame in the holding place of a READY device: GREET forgets the source's shares, lets it out of the paused set and
announces every active tag again; TALLY sets one entry with age 0; RETRACT empties one entry or all of the source. Every
other entry stands, every DESK SUM is the desk total of its tag, and DESK CHANGE is raised exactly when one changed. -/
def Obligations.ContributionFramesChangeTable : Prop :=
  ∀ (f : Frame) (s : State), s.tp.phase = .ready → s.line.handoff = some f → MemoriesSound s → f.source.toNat < 30 →
    let src := f.source.toNat
    let after (o : Out) (entry : Nat → Option Entry → Option Entry) := ∃ u, o = .next (settle u) ∧
      u.line.handoff = none ∧
      (∀ t, assocGet u.desk.table (32 * t + src) = entry t (assocGet s.desk.table (32 * t + src))) ∧
      (∀ t n, n < 32 → n ≠ src → assocGet u.desk.table (32 * t + n) = assocGet s.desk.table (32 * t + n)) ∧
      (s.form.state = .active → ∀ fd x, findField s.form fd.number = some fd → fd.shape.kind = .deskSum →
        instValue u.form (.field fd.number) = some x → showsDesk u.desk fd.tag fd.shape x) ∧
      (∀ fd ∈ s.form.fields, fd.shape.kind = .deskSum →
        instValue u.form (.field fd.number) ≠ instValue s.form (.field fd.number) → Item.field fd.number ∈ u.comp.items) ∧
      u.form = { s.form with vals := u.form.vals } ∧
      (∀ n fd, findField s.form n = some fd → fd.shape.kind ≠ .deskSum →
        instValue u.form (.field n) = instValue s.form (.field n)) ∧
      u.tp = { s.tp with edge := { s.tp.edge with deskChange := u.tp.edge.deskChange } } ∧ deskChangeRight s u ∧
      u.desk.active = s.desk.active ∧ u.desk.messages = s.desk.messages ∧ u.desk.inbound = s.desk.inbound ∧
      u.cur = s.cur ∧ u.key = s.key ∧ u.send = s.send
    (f.kind = .greet → after (exec .greet s) (fun _ _ => none) ∧ ∀ t, exec .greet s = .next t →
      assocGet t.desk.paused src = none ∧
      (∀ n, assocGet t.desk.tallies n =
        if n ∈ s.desk.active.map (·.1) then some .tally else assocGet s.desk.tallies n)) ∧
    (f.kind = .tally → ∀ tag sh, tallyOf f.payload = some (tag, sh) →
      after (exec .tally s) (fun t old => if t = tag then some { share := sh, age := 0 } else old)) ∧
    (f.kind = .tally → tallyOf f.payload = none → exec .tally s = .next (settle { s with
      line := { s.line with handoff := none, flags := { s.line.flags with length := true } } })) ∧
    (f.kind = .retract → ∀ tag : Byte, f.payload = [tag] → 1 ≤ tag.toNat → tag.toNat ≤ 8 →
      after (exec .retract s) (fun t old => if t = tag.toNat then none else old)) ∧
    (f.kind = .retract → f.payload = [0] → after (exec .retract s) (fun _ _ => none)) ∧
    (f.kind = .retract → ∀ tag : Byte, f.payload = [tag] → 8 < tag.toNat → exec .retract s = .next (settle { s with
      line := { s.line with handoff := none, flags := { s.line.flags with length := true } } }))

/-- BANNER replaces the banner, PASS joins the inbound queue where it fits and asks for quiet from 384 bytes on, PAUSE and
RESUME put the source into the paused set and take it out. -/
def Obligations.MessageFramesAreDelivered : Prop :=
  ∀ (f : Frame) (s : State), s.tp.phase = .ready → s.line.handoff = some f → MemoriesSound s →
    let src := f.source.toNat
    let l := { s.line with handoff := none }
    (f.kind = .banner → ∃ u, exec .banner s = .next (settle u) ∧ Item.status ∈ u.comp.items ∧
      u = { s with line := l, comp := u.comp, desk := { s.desk with
        banner := if f.payload = [] then none else some { text := f.payload.map plainChar, age := 0 } } }) ∧
    (f.kind = .pass → 512 < inboundFill s.desk + (2 + f.payload.length) → exec .pass s = .next (settle { s with
      line := l, desk := { s.desk with inboundLost := true } })) ∧
    (f.kind = .pass → inboundFill s.desk + (2 + f.payload.length) ≤ 512 →
      inboundFill s.desk + (2 + f.payload.length) < 384 ∨ s.desk.pauseSent = true →
      exec .pass s = .next (settle { s with
        line := l, desk := { s.desk with inbound := s.desk.inbound ++ [⟨f.source, f.payload⟩] } })) ∧
    (f.kind = .pass → inboundFill s.desk + (2 + f.payload.length) ≤ 512 →
      384 ≤ inboundFill s.desk + (2 + f.payload.length) → s.desk.pauseSent = false →
      ∃ u, exec .pass s = .next (settle u) ∧ u.line = { l with taken := u.line.taken } ∧ u.desk = { s.desk with
        inbound := s.desk.inbound ++ [⟨f.source, f.payload⟩], pauseSent := true, flow := some .pause }) ∧
    (f.kind = .pause → ∃ u, exec .pause s = .next (settle u) ∧
      u = { s with line := l, desk := { s.desk with paused := u.desk.paused } } ∧
      ∀ n, assocGet u.desk.paused n = if n = src then some 2 else assocGet s.desk.paused n) ∧
    (f.kind = .resume → ∃ u, exec .resume s = .next (settle u) ∧
      u = { s with line := l, desk := { s.desk with paused := u.desk.paused } } ∧
      ∀ n, assocGet u.desk.paused n = if n = src then none else assocGet s.desk.paused n)

/-- PASS SEND and BANNER SEND queue a message frame after their tests in order, and PASS READ takes the oldest record of
the inbound queue and lets the senders go on at 128 bytes or less. -/
def Obligations.MessageOrdersQueueAndTake : Prop :=
  ∀ (dest : Byte) (data : List Byte) (n : Nat) (s : State), s.tp.phase = .ready →
    let z (k : Nat) : List Byte := List.replicate k 0
    (s.line.listenOnly = true → exec (.passSend dest 0 data) s = .next (framed .refusedState (z (3 + data.length)) s) ∧
      exec (.bannerSend 0 data) s = .next (framed .refusedState (z (2 + data.length)) s)) ∧
    (s.line.listenOnly = false → 30 ≤ dest.toNat →
      exec (.passSend dest 0 data) s = .next (framed .badArgument (z (3 + data.length)) s)) ∧
    (s.line.listenOnly = false → dest.toNat < 30 → data = [] ∨ 64 < data.length →
      exec (.passSend dest 0 data) s = .next (framed .badArgument (z (3 + data.length)) s)) ∧
    (s.line.listenOnly = false → dest.toNat < 30 → 1 ≤ data.length → data.length ≤ 64 → 6 ≤ s.desk.messages.length →
      exec (.passSend dest 0 data) s = .next (framed .full (z (3 + data.length)) s)) ∧
    (s.line.listenOnly = false → dest.toNat < 30 → 1 ≤ data.length → data.length ≤ 64 → s.desk.messages.length < 6 →
      exec (.passSend dest 0 data) s = .next (settle { framed .done (z (3 + data.length)) s with
        desk := { s.desk with messages := s.desk.messages ++ [.pass dest (data.map plainChar)] } })) ∧
    (s.line.listenOnly = false → data.length ≤ 40 → s.desk.messages.length < 6 →
      ∃ u, exec (.bannerSend 0 data) s = .next (settle u) ∧ Item.status ∈ u.comp.items ∧
        u = { framed .done (z (2 + data.length)) s with
          comp := u.comp
          desk := { s.desk with
            messages := s.desk.messages ++ [.banner (data.map plainChar)]
            banner := if data = [] then none else some { text := data.map plainChar, age := 0 } } }) ∧
    (s.desk.inbound = [] →
      exec (.passRead n) s = .next (settle (framed .done (0 :: ([0xFF, 0] ++ z n).take n) s))) ∧
    (∀ m ms, s.desk.inbound = m :: ms → ∃ u, exec (.passRead n) s = .next (settle u) ∧ u.desk.inbound = ms ∧
      u.tp = (framed .done (0 :: ([m.source, BitVec.ofNat 8 m.text.length] ++ m.text ++ z n).take n) s).tp ∧
      u.form = s.form ∧ u.cur = s.cur ∧ u.key = s.key ∧ u.send = s.send ∧
      (if (ms.map (fun x => 2 + x.text.length)).sum ≤ 128 ∧ s.desk.pauseSent = true
        then u.desk = { s.desk with inbound := ms, pauseSent := false, flow := some .resume }
        else u.desk = { s.desk with inbound := ms }))

/-- DESK READ reports the link status in 12 bytes and clears the link flags, reports a tag in 371 bytes and clears nothing,
and is refused for a selector above 8. That station 0 is bit 0 of the last of the four bytes of the paused-station set is
the model's reading (notes/assumptions/21.md). -/
def Obligations.DeskReadReports : Prop :=
  ∀ (sel : Byte) (n : Nat) (s : State), s.tp.phase = .ready →
    (∃ r : List Byte, r.length = 12 ∧
      r[4]? = some (match s.line.lastDropped with | none => 0 | some k => BitVec.ofNat 8 (kindCode k)) ∧
      r.drop 9 = [BitVec.ofNat 8 (inboundFill s.desk / 256), BitVec.ofNat 8 (inboundFill s.desk),
        BitVec.ofNat 8 s.desk.messages.length] ∧
      r.take 3 = [BitVec.ofNat 8 (linkMode s.line), BitVec.ofNat 8 (txCode s.line.tx), BitVec.ofNat 8 (rxCode s.line.rxState)] ∧
      (∀ b, r[3]? = some b → b.getLsbD 0 = s.line.flags.framing ∧ b.getLsbD 1 = s.line.flags.brk ∧
        b.getLsbD 2 = s.line.flags.overrun ∧ b.getLsbD 3 = s.line.flags.check ∧ b.getLsbD 4 = s.line.flags.timeout ∧
        b.getLsbD 5 = s.line.flags.length ∧ b.getLsbD 6 = s.line.flags.clash ∧ b.getLsbD 7 = s.line.flags.dropped) ∧
      (∀ station b, station < 32 → r[8 - station / 8]? = some b →
        (b.getLsbD (station % 8) = true ↔ station ∈ s.desk.paused.map (·.1))) ∧
      exec (.deskReadLinkStatus n) s = .next (settle
        { framed .done ([0, 0] ++ (r ++ List.replicate n 0).take n) s with
          line := { s.line with flags := LinkFlags.clear } })) ∧
    (1 ≤ sel.toNat → sel.toNat ≤ 8 → ∃ r : List Byte, r.length = 371 ∧
      r.take 11 = (match assocGet s.desk.active sel.toNat with | some sh => shareBytes sh | none => noneBytes) ∧
      (∀ src < 30, (r.drop (11 + 12 * src)).take 12 =
        (match assocGet s.desk.table (32 * sel.toNat + src) with
          | some e => shareBytes e.share ++ [BitVec.ofNat 8 e.age]
          | none => noneBytes ++ [0])) ∧
      exec (.deskReadTagReport sel n) s = .next (settle
        (framed .done ([0, 0] ++ (r ++ List.replicate n 0).take n) s))) ∧
    (8 < sel.toNat → exec (.deskReadTagReport sel n) s = .next (framed .badArgument (List.replicate (2 + n) 0) s))

/-- At a desk tick every entry ages by one and is emptied at 30, the refresh counter counts 0 to 7 and at 8 announces
every active tag, a pause that stands is renewed, every hold timer falls by one and lets its station go at 0, and the
banner ages and is emptied at 60. The DESK SUM fields follow the entries that are emptied, and DESK CHANGE is raised where
one changed. The rows that name one of these limits do that part alone: the model's reading (notes/assumptions/24.md). -/
def Obligations.DeskTickAgesAndRefreshes : Prop :=
  ∀ s : State, s.tp.phase = .ready → MemoriesSound s →
    (∃ u, exec .deskTick s = .next (settle u) ∧
      (∀ k, assocGet u.desk.table k = (assocGet s.desk.table k).bind
        (fun e => if e.age + 1 < 30 then some { e with age := e.age + 1 } else none)) ∧
      u.desk.refresh = (if s.desk.refresh + 1 < 8 then s.desk.refresh + 1 else 0) ∧
      (∀ n, assocGet u.desk.tallies n =
        if 8 ≤ s.desk.refresh + 1 ∧ n ∈ s.desk.active.map (·.1) then some .tally else assocGet s.desk.tallies n) ∧
      u.desk.flow = (if s.desk.pauseSent then some .pause else s.desk.flow) ∧
      (∀ k, assocGet u.desk.paused k = (assocGet s.desk.paused k).bind
        (fun n => if 1 < n then some (n - 1) else none)) ∧
      u.desk.banner = s.desk.banner.bind
        (fun b => if b.age + 1 < 60 then some { b with age := b.age + 1 } else none) ∧
      u.desk.greet = s.desk.greet ∧ u.desk.messages = s.desk.messages ∧ u.desk.inbound = s.desk.inbound ∧
      u.desk.active = s.desk.active ∧ u.cur = s.cur ∧ u.key = s.key ∧ u.send = s.send ∧ DeskSumsFollow s u ∧
      u.line = { s.line with taken := u.line.taken }) ∧
    (∀ tag src e, 1 ≤ tag → tag ≤ 8 → src < 30 → assocGet s.desk.table (32 * tag + src) = some e → e.age = 29 →
      ∃ u, exec (.contributionAgeOut tag src) s = .next (settle u) ∧
        (∀ k, assocGet u.desk.table k = if k = 32 * tag + src then none else assocGet s.desk.table k) ∧
        u.desk = { s.desk with table := u.desk.table } ∧ u.cur = s.cur ∧ u.key = s.key ∧ u.send = s.send ∧
        u.line = s.line ∧ DeskSumsFollow s u) ∧
    (s.desk.refresh = 7 → ∃ u, exec .refresh s = .next (settle u) ∧ u.desk.refresh = 0 ∧
      u = { s with line := { s.line with taken := u.line.taken }
                   desk := { s.desk with refresh := 0, tallies := u.desk.tallies } } ∧
      (∀ n, assocGet u.desk.tallies n =
        if n ∈ s.desk.active.map (·.1) then some .tally else assocGet s.desk.tallies n)) ∧
    (∀ k, assocGet s.desk.paused k = some 1 → ∃ u, exec (.holdTimerExpiry k) s = .next (settle u) ∧
      u = { s with desk := { s.desk with paused := u.desk.paused } } ∧
      (∀ j, assocGet u.desk.paused j = if j = k then none else assocGet s.desk.paused j)) ∧
    (∀ b, s.desk.banner = some b → b.age = 59 → ∃ u, exec .bannerExpiry s = .next (settle u) ∧
      u = { s with comp := u.comp, desk := { s.desk with banner := none } } ∧ Item.status ∈ u.comp.items)

/-! ## Numbers and encodings -/

/-- Every rounding divides by a power of ten and rounds half away from zero. -/
def Obligations.RoundingIsHalfAwayFromZero : Prop :=
  ∀ (v : Int) (k : Nat), 1 ≤ k →
    let p : Nat := 10 ^ k
    (0 ≤ v → roundDiv v k = ((2 * v.natAbs + p) / (2 * p) : Nat)) ∧ roundDiv (-v) k = -roundDiv v k ∧
    2 * (v - roundDiv v k * (p : Int)).natAbs ≤ p ∧
    (2 * (v - roundDiv v k * (p : Int)).natAbs = p → v.natAbs < (roundDiv v k).natAbs * p)

/-- The canonical text of a number that a NUMBER instance can hold parses to that number again. -/
def Obligations.CanonicalTextParsesBack : Prop :=
  ∀ (sh : Shape) (v : Int), sh.kind = .number → shapeLegal sh = true → v.natAbs < 10 ^ capacity sh →
    (v < 0 → sh.signed = true) → parseSystem sh (canonicalText sh.decimals (.number v)) = some (.number v)

/-- The 11-byte value field of a share carries it whole within 20 digits, and OVERFLOW beyond. -/
def Obligations.ShareFieldCarriesValue : Prop :=
  (∀ v : Int, v.natAbs < 10 ^ 20 → shareOfBytes (shareBytes (.value v)) = some (.value v)) ∧
  (∀ v : Int, 10 ^ 20 ≤ v.natAbs → shareOfBytes (shareBytes (.value v)) = some .overflow) ∧
  shareOfBytes (shareBytes .overflow) = some .overflow ∧ (∀ sh, (shareBytes sh).length = 11)

/-- The frame decoder reads the frame of every well-formed order as that order, with every argument at every value and
data of every length. On the pins, each eight rising edges of SCLK make one byte, most significant bit first; the falling
edge of SELN, the bits of an order's frame and the rising edge of SELN make FRAME_OPEN and that order; a frame closed with
a byte part-clocked is abandoned, or is of an unknown code; SCLK makes nothing while SELN is high, and a reset loses the
open frame. The decoder is in CODE, ARGUMENTS, BODY or IGNORE by the bytes wholly clocked. While a bit of an order's frame
is clocked, SDO has the level of that bit of the bytes which the order drives, and SDO is released while SELN is high. The
split into commands is the model's (notes/assumptions/4.md), as is that the command is taken in one state (entry 6). -/
def Obligations.OrderFramesDecode : Prop :=
  (∀ (i : Instr) (bytes : List Byte), wellFormed i = true → frameOf i = some bytes → commandOf bytes false = some i) ∧
  (∀ b : Byte, portBits b = [b.getLsbD 7, b.getLsbD 6, b.getLsbD 5, b.getLsbD 4, b.getLsbD 3, b.getLsbD 2, b.getLsbD 1,
    b.getLsbD 0] ∧ portByte (portBits b) = b) ∧
  (∀ (bytes : List Byte) (bits : List Bool), bits.length < 8 →
    (bytes.flatMap portBits ++ bits).foldl clockBit openedFrame = { bytes := bytes, part := bits }) ∧
  (let edges (bits : List Bool) := .selnFalls :: bits.map PortEvent.sclkRises
   (∀ i bytes, wellFormed i = true → frameOf i = some bytes →
      portCommands (edges (bytes.flatMap portBits) ++ [.selnRises]) none = [.frameOpen, i]) ∧
   (∀ (bytes : List Byte) (bits : List Bool), 0 < bits.length → bits.length < 8 →
      let made := portCommands (edges (bytes.flatMap portBits ++ bits) ++ [.selnRises]) none
      (bytes = [] → made = [.frameOpen, .frameAbandoned [] true]) ∧
      ∀ code rest, bytes = code :: rest → made = [.frameOpen,
        if argCount code = none then .unknownOrderCode code rest else .frameAbandoned bytes true]) ∧
   (∀ bits : List Bool, portCommands (bits.map .sclkRises ++ [.selnRises]) none = []) ∧
   (∀ bits more : List Bool, portCommands (edges bits ++ .reset :: more.map .sclkRises ++ [.selnRises]) none = [.frameOpen])) ∧
  (∀ (code : Byte) (rest : List Byte) (part : List Bool),
    frameDecoder { bytes := [], part := part } = .code ∧
    (argCount code = none → frameDecoder { bytes := code :: rest, part := part } = .ignore) ∧
    ∀ k, argCount code = some k →
      frameDecoder { bytes := code :: rest, part := part } = if rest.length < k then .arguments else .body) ∧
  (∀ (i : Instr) (bytes : List Byte) (s : State), wellFormed i = true → frameOf i = some bytes →
    ∃ t, exec i s = .next t ∧ t.tp.sdo.length = bytes.length ∧
      ∀ n b, (t.tp.sdo.flatMap portBits)[n]? = some b →
        sdoLevel (some (((bytes.flatMap portBits).take n).foldl clockBit openedFrame)) s = some b) ∧
  (∀ s, sdoLevel none s = none)

/-! ## Invariants that every step keeps -/

/-- The key queue, the receive FIFO, the frame buffer, the message queue, the inbound queue and the send block never hold
more than their rules allow, and the read position stays within the block. -/
def Obligations.QueuesStayBounded : Prop :=
  ∀ s t : State, QueuesBounded s → step s = .next t → QueuesBounded t

/-- The keyboard is SYSTEM exactly while the form is not ACTIVE and LOCKED exactly while the send state is not NONE. The
repaint list never holds an item twice, and a render is in progress exactly while it is not empty. -/
def Obligations.LockAndRepaintListStaySound : Prop :=
  (∀ s t : State, LockAgrees s → step s = .next t → LockAgrees t) ∧
  ∀ s t : State, RepaintSound s → step s = .next t → RepaintSound t

/-- Every memory and table keeps its canonical form. -/
def Obligations.MemoriesStayCanonical : Prop :=
  ∀ s t : State, MemoriesSound s → step s = .next t → MemoriesSound t

/-- The contribution table holds no own entry, no entry aged 30 and no share beyond range; timers, counter and banner stay
in their ranges, and nothing received is held in STARTING. -/
def Obligations.DeskTablesStaySound : Prop :=
  ∀ s t : State, StartSound s ∧ DeskSound s → step s = .next t → StartSound t ∧ DeskSound t

/-- In an ACTIVE form every PRODUCT, COLUMN SUM, local contribution and DESK SUM is the value its rule gives for the stored
inputs and the contribution table, and every step keeps it, whatever path led there (R102). The premise is that the records
are sound, which every step keeps too. -/
def Obligations.ComputedValuesFollowInputs : Prop :=
  ∀ s t : State, RecordsSound s → step s = .next t → RecordsSound t ∧ (Reckoned s → Reckoned t)

/-- The cursor stays on the form area and the window on the line group. -/
def Obligations.CursorAndWindowStayInRange : Prop :=
  ∀ s t : State, CursorSound s → step s = .next t → CursorSound t

/-! ## The video readout -/

/-- The video readout scans rows 0 to 24, columns 0 to 79 of each, and begins again at row 0. With the display off it
presents a blank for every cell; with it on, each cell of the image as it stands when the scan reaches it, the cursor
cell with inverse toggled, and with blink added when that option is on. A pass in the middle of a render presents the
cells the render has drawn anew and the others as they were, with nothing drawn yet what `videoCell` gives. A scan presents
one cell a moment, in this order, and changes no state. -/
def Obligations.VideoReadoutPresentsScreen : Prop :=
  (∀ n r c, r ≤ 24 → c < 80 → (scanRow n = r ∧ scanCol n = c ↔ n % 2000 = 80 * r + c)) ∧
  (∀ (s : State) (r c : Nat),
    (s.comp.displayOn = false → videoCell s r c = ⟨0x20, noAttrs⟩) ∧
    (s.comp.displayOn = true → r ≠ s.cur.row ∨ c ≠ s.cur.col → videoCell s r c = imageCell s r c) ∧
    (s.comp.displayOn = true → r = s.cur.row → c = s.cur.col →
      (videoCell s r c).code = (imageCell s r c).code ∧
      (videoCell s r c).attrs = { (imageCell s r c).attrs with
        inverse := !(imageCell s r c).attrs.inverse
        blink := (imageCell s r c).attrs.blink || s.comp.cursorBlink })) ∧
  (∀ (ks : List Nat) (n : Nat) (s : State), MemoriesSound s →
    let m := Moment.draw ks { state := s, drawn := [] }
    m.state = s ∧
    (Moment.present n { state := s, drawn := [] } =
      { row := scanRow n, col := scanCol n, cell := videoCell s (scanRow n) (scanCol n) }) ∧
    (s.comp.rendering = false ∨ 80 * scanRow n + scanCol n ∉ ks → m.present n =
      { row := scanRow n, col := scanCol n, cell := videoCell s (scanRow n) (scanCol n) }) ∧
    (∀ i is, s.comp.items = i :: is → s.comp.rendering = true → 80 * scanRow n + scanCol n ∈ ks → m.present n =
      { row := scanRow n, col := scanCol n, cell := videoCell (render i s) (scanRow n) (scanCol n) })) ∧
  (∀ (n k : Nat) (ms : List Moment), (scanFrom n ms)[k]? = (ms[k]?).map (fun m => m.present (n + k)))
end

