-- ==== Sys2Proof/Config.lean ====
section
/-!
DEFINITION. What the hardware fixes outside its state: the four line rates that the rate strap names.
The spec leaves no value of a result open, so there is no free value here (see NOTES.md).
-/
namespace Sys2Proof.Config

/-- The line rate in bit/s that a rate strap stands for (R139, R190). -/
def bitsPerSecond (r : Rate) : Nat :=
  match r.toNat with
  | 0 => 19200
  | 1 => 38400
  | 2 => 76800
  | _ => 153600

end Sys2Proof.Config
end

