-- ==== Sys2Proof/Laws/Reckoner.lean ====
section
/-!
SUPPORT. What the Reckoner's operations compute, in the words of Safety.lean: one lemma for each, which says everything it
does.
-/
namespace Sys2Proof.Machine

theorem fitValue_fitsAs (sh : Shape) (k : Nat) (p : Int) : fitsAs sh k p (fitValue sh (rescale p k sh.decimals)) := by
  simp [fitsAs, fitValue, fitsCap, capacity, rescale]

theorem productValue_isProduct (sh : Shape) (da db : Nat) (a b : Value) :
    isProduct sh da db a b (productValue sh da db a b) := by
  refine ⟨fun h => ?_, fun x h => ?_, fun x y ha hb => ?_⟩
  · rcases h with rfl | rfl
    · rfl
    · cases a <;> rfl
  · rcases h with ⟨rfl, rfl | rfl⟩ | ⟨rfl, rfl⟩ <;> rfl
  · subst ha hb
    exact fitValue_fitsAs sh (da + db) (x * y)

theorem shareValue_showsShare (sh : Shape) (S : Share) : showsShare sh S (shareValue sh S) := by
  cases S with
  | overflow => rfl
  | value v => exact fitValue_fitsAs sh 4 v

/-- A sum of parts is OVERFLOW where one of them is, else the exact sum. -/
theorem sumShares_cases (ss : List Share) :
    (.overflow ∈ ss → sumShares ss = .overflow) ∧ (.overflow ∉ ss → sumShares ss = .value (ss.map shareNumber).sum) := by
  induction ss with
  | nil => exact ⟨fun h => by simp at h, fun _ => rfl⟩
  | cons a ss ih =>
    have hs : sumShares (a :: ss) = addShare a (sumShares ss) := rfl
    cases a with
    | overflow => exact ⟨fun _ => rfl, fun h => by simp at h⟩
    | value v =>
      refine ⟨fun h => ?_, fun h => ?_⟩
      · rw [hs, ih.1 (by simpa using h)]
        rfl
      · rw [hs, ih.2 (by simpa using h)]
        simp [addShare, shareNumber]

theorem columnShare_columnTotal (f : FormStore) (c : Nat) : columnTotal f c (columnShare f c) := by
  have hs := sumShares_cases (f.lines.map (fun ln => valueShare (colDecimals f c) (lineValue ln c)))
  have ho : ∀ v : Value, valueShare (colDecimals f c) v = .overflow ↔ v = .overflow := by
    intro v
    cases v <;> simp [valueShare]
  refine ⟨fun ⟨ln, hm, hv⟩ => hs.1 (List.mem_map.2 ⟨ln, hm, (ho _).2 hv⟩), fun h => ?_⟩
  refine (hs.2 fun hm => ?_).trans ?_
  · obtain ⟨ln, hl, hv⟩ := List.mem_map.1 hm
    exact h ln hl ((ho _).1 hv)
  · rw [List.map_map]
    congr 2
    refine List.map_congr_left fun ln hl => ?_
    have := h ln hl
    revert this
    show lineValue ln c ≠ .overflow → shareNumber (valueShare (colDecimals f c) (lineValue ln c)) = _
    generalize lineValue ln c = v
    intro hv
    cases v <;> simp_all [valueShare, shareNumber, colDecimals, reckoningScale]

theorem deskTotal_deskTotalIs (d : DeskExchange) (t : Nat) : deskTotalIs d t (deskTotal d t) := by
  have hs := sumShares_cases ((assocGet d.active t).toList ++ receivedShares d t)
  have ht : deskTotal d t = sumShares ((assocGet d.active t).toList ++ receivedShares d t) := by
    unfold deskTotal
    cases assocGet d.active t with
    | some S => rfl
    | none =>
      show addShare (.value 0) (sumShares (receivedShares d t)) = sumShares (receivedShares d t)
      cases sumShares (receivedShares d t) <;> simp [addShare]
  exact ht ▸ hs

end Sys2Proof.Machine
end

