-- ==== Sys2Proof/Tests/Slice0.lean ====
section
/-!
SUPPORT. The model's own tests: the refusals of WellFormed, the worked examples of spec/, and for every statement with
hypotheses a state and operands that meet them (`witness_…`). `test_…` theorems take what they expect from the place of
spec/ that their docstring names.
-/
namespace Sys2Proof.Tests

open Machine

/-! ## Small states -/

/-- READY, start-up behind it, nothing received and nothing to send, on station 5. -/
def ready : State :=
  { State.reset with
    tp := { TpPort.afterReset false true false false with phase := .ready }
    line := { DeskLineUnit.afterReset 5 0 false with rxOpen := true }
    desk := { DeskExchange.afterReset with greet := false } }

/-- No option and no attribute. -/
def plain : Opts := ⟨false, false, false, false, false⟩

/-- A shape without option and attribute. -/
def shape (length : Nat) (kind : Kind) (decimals : Nat) (signed : Bool) : Shape :=
  ⟨length, kind, decimals, signed, plain, ⟨false, false, false, false, false⟩⟩

/-- A mandatory TEXT field, a column sum, a DISPLAY field and a desk sum around a body of a TEXT, a NUMBER, a PRODUCT and
an ORDINAL column, with a header of 1 row, a window of 2 and 3 lines. -/
def smallForm : FormStore :=
  { openedForm 1 2 3 with
    fields :=
      [⟨1, 0, 0, { shape 4 .text 0 false with opts := ⟨true, false, false, false, true⟩ }, 0, 0⟩,
        ⟨2, 0, 10, shape 8 .columnSum 0 true, 2, 0⟩,
        ⟨3, 20, 0, shape 5 .display 0 false, 0, 0⟩,
        ⟨4, 20, 10, shape 8 .deskSum 0 true, 2, 1⟩]
    cols :=
      [⟨1, 0, shape 3 .text 0 false, 0, 0⟩, ⟨2, 10, shape 6 .number 0 true, 0, 0⟩,
        ⟨3, 20, shape 6 .product 0 true, 2, 2⟩, ⟨4, 30, shape 3 .ordinal 0 false, 0, 0⟩] }

/-- `ready` with the small form in DEFINE. -/
def defining : State := { ready with form := smallForm }

/-- `ready` with the small form ACTIVE, every entry absent, the cursor Home. -/
def active : State :=
  { ready with
    form := { activated smallForm with
      vals := [⟨1, .text [blank, blank, blank, blank], false⟩, ⟨2, .number 0, false⟩,
        ⟨3, .text [blank, blank, blank, blank, blank], false⟩, ⟨4, .number 0, false⟩] }
    key := { KeyEngine.afterReset with keyboard := .free }
    desk := { DeskExchange.afterReset with greet := false, active := [(1, .value 0)] } }

/-- A machine with the cursor on a cell. -/
def at' (r c : Nat) (s : State) : State := { s with cur := { s.cur with row := r, col := c } }

/-- A machine with a key code at the head of its queue. -/
def keyed (b : Byte) (s : State) : State := { s with key := { s.key with queue := b :: s.key.queue } }

/-- A machine with a pending edit. -/
def editing (i : Inst) (buf : Text) (s : State) : State := { s with key := { s.key with edit := some ⟨i, buf⟩ } }

/-- A machine whose send state is READY with a block of three bytes, the keyboard LOCKED. -/
def sent : State :=
  { active with
    key := { active.key with keyboard := .locked }
    send := ⟨.ready, some ⟨0xC1, 0, 0, none⟩, [1, 2, 3], 0⟩ }

/-- `ready` with the Desk Line Unit changed. -/
def lined (f : DeskLineUnit → DeskLineUnit) : State := { ready with line := f ready.line }

/-- `active` with a received frame in the hand-off holding place. -/
def handed (f : Frame) : State := { active with line := { active.line with handoff := some f } }

/-- What a command answers, seen through `p`. -/
def after (i : Instr) (s : State) (p : State → Bool) : Bool :=
  match exec i s with
  | .next t => p t
  | _ => false

/-! ## WellFormed refuses ill-formed commands -/

theorem test_unknown_code_must_be_unknown : wellFormed (.unknownOrderCode 0x11 []) = false := by decide
theorem test_abandoned_frame_must_be_unfinished : wellFormed (.frameAbandoned [0x13, 0x7F] false) = false := by decide
theorem test_tag_report_has_a_tag : wellFormed (.deskReadTagReport 0 12) = false := by decide
theorem test_entry_has_a_tag : wellFormed (.contributionAgeOut 9 3) = false := by decide
theorem test_entry_has_a_source : wellFormed (.contributionAgeOut 8 30) = false := by decide
theorem test_paused_station_takes_part : wellFormed (.holdTimerExpiry 30) = false := by decide

/-! ## Worked examples of the spec -/

/-- 01, the order form: with H = 5, W = 14 the footer has 5 rows, and line 17 with T = 10 is shown on row 12. -/
theorem test_order_form_geometry :
    footerRows (openedForm 5 14 40) = 5 ∧ lineRow (openedForm 5 14 40) 10 17 = some 12 ∧
    lineRow (openedForm 5 14 40) 10 24 = none := by decide

/-- 02, a wrapping label: ten characters DOWN into 2 by 4 cells leave "ICEG" on row 20. -/
theorem test_label_wraps : after (.labelWrite 0 20 0 21 3 1 0 [0x41, 0x42, 0x43, 0x44, 0x45, 0x46, 0x47, 0x48, 0x49, 0x4A])
    active (fun t => (List.range 4).map (fun c => cellRead blank t.form.screenPlane (cellKey 20 c)) = [0x49, 0x43, 0x45, 0x47])
    = true := by decide

/-- 02, R31: PACKED 0x00 0x41 0x22 is "004122". -/
theorem test_packed : decodeData .packed [0x00, 0x41, 0x22] = some [0x30, 0x30, 0x34, 0x31, 0x32, 0x32] := by decide

/-- 04, typeahead at the limit: the sixteenth code joins the queue, an undefined one is ignored, the next sounds ALARM. -/
theorem test_typeahead : after (.key [0x41, 0x9F, 0x42, 0x43])
    { active with key := { active.key with queue := List.replicate 15 0x80 } }
    (fun t => t.key.queue = List.replicate 15 0x80 ++ [0x41] ∧ t.key.typeaheadLost = true ∧ t.key.alarm = true) = true := by
  decide

/-- 04, editing a text field: 't' over the stored "RAIL" with upper-fold begins the buffer "TAIL". -/
theorem test_data_key_edits : after .dataKey
    (keyed 0x74 { active with form := setInstValue (.field 1) (.text [0x52, 0x41, 0x49, 0x4C]) active.form })
    (fun t => t.key.edit = some ⟨.field 1, [0x54, 0x41, 0x49, 0x4C]⟩ ∧ t.cur = ⟨0, 1, 0⟩) = true := by decide

/-- 04, keying a price: a fourth fraction digit in "3.475" with d = 3 is E03. -/
theorem test_fourth_fraction_digit :
    numberCheck (shape 10 .number 3 false) [0x33, 0x2E, 0x34, 0x37, 0x35] 0x31 = some .fieldFull := by decide

/-- 05, capacities of the order form. -/
theorem test_capacities :
    capacity (shape 6 .number 0 true) = 5 ∧ capacity (shape 10 .number 3 false) = 9 ∧
    capacity (shape 12 .product 2 true) = 10 ∧ capacity (shape 14 .deskSum 2 true) = 12 := by decide

/-- 05, R93: the values the rule rounds by 10 and by 100. -/
theorem test_rounding :
    roundDiv 1005 1 = 101 ∧ roundDiv (-1005) 1 = -101 ∧ roundDiv 1004 1 = 100 ∧ roundDiv (-1004) 1 = -100 ∧
    roundDiv 10301944 2 = 103019 ∧ roundDiv 10301950 2 = 103020 ∧ roundDiv (-4) 1 = 0 := by decide

/-- 05, R94: a zero-filled field of length 8 with d = 2 shows 450 as "00004.50". -/
theorem test_zero_fill :
    displayText { shape 8 .number 2 false with opts := { plain with zeroFill := true } } (.number 450) =
      [0x30, 0x30, 0x30, 0x30, 0x34, 0x2E, 0x35, 0x30] := by decide

/-- 05, R95: −67 at scale 2 reads "-0.67". -/
theorem test_canonical_text : canonicalText 2 (.number (-67)) = [0x2D, 0x30, 0x2E, 0x36, 0x37] := by decide

/-- 05, extended prices: 3 times 0.335 is 1.005 and is stored as 1.01. -/
theorem test_product_rounds :
    productValue (shape 12 .product 2 true) 0 3 (.number 3) (.number 335) = .number 101 := by decide

/-- 05, an overflow: seventeen digits do not fit the price column, whose value becomes OVERFLOW. -/
theorem test_system_overflow : parseSystem (shape 10 .number 3 false)
    (List.replicate 14 0x39 ++ [0x2E, 0x39, 0x39, 0x39]) = some .overflow := by decide

/-- 06, two status rows: the error text of E05 at column 20 and the keyboard word at column 0. -/
theorem test_status_row :
    ((statusText { active with key := { active.key with keyboard := .error, lastError := some (.op .mustFill) } }).drop 20).take 9
      = chars ['M', 'U', 'S', 'T', ' ', 'F', 'I', 'L', 'L'] ∧
    (statusText { active with key := { active.key with keyboard := .error, lastError := some (.op .mustFill) } }).take 5
      = chars ['E', 'R', 'R', '0', '5'] := by decide

/-- 07, R129: the block of a signal key is its header alone, key code, row, column, line and a count of 0. -/
theorem test_signal_block : sendBlock active.form ⟨0xC1, 1, 10, some 0⟩ = [0xC1, 1, 10, 0, 0, 0] := by decide

/-- 08, one passed message: the check byte of the PASS of "OK" from station 9 to station 2 is 84. -/
theorem test_check_byte : frameBytes ⟨2, 9, .pass, [79, 75]⟩ = [2, 9, 5, 2, 79, 75, 84] := by decide

/-- 08, a collision: the sources 2 and 5 are sent least significant bit first, between start bit, mark and stop bit. -/
theorem test_character_bits :
    charBits (2, false) = [false, false, true, false, false, false, false, false, false, false, true] ∧
    charBits (5, false) = [false, true, false, true, false, false, false, false, false, false, true] := by decide

/-- 08, R156: in loopback FRAME_SENT waits for the last character, which then goes to the receiver in SEND. -/
theorem test_loopback_waits :
    (let s (n : Nat) := lined (fun l => { l with
      loopback := true, tx := .send, selection := some .greet, frame := some ⟨31, 5, .greet, []⟩, looped := n })
    after .frameSent (s 4) (fun t => t.line.tx = .send) = true ∧
    after (.characterReceived 219 false false) (s 4) (fun t => t.line.looped = 5 ∧ t.line.gapRunning = false) = true ∧
    after .frameSent (s 5) (fun t => t.line.tx = .yield) = true) := by decide

/-- 08, a collision: after its first collision station 5 needs 13 bit times of backoff. -/
theorem test_backoff : after .collision
    (lined (fun l => { l with tx := .send, selection := some (.tag 1), taken := true }))
    (fun t => t.line.tx = .backoff ∧ t.line.need = 13 ∧ t.line.attempts = 1) = true := by decide

/-- 09, a full inbound queue: the sixth record of 66 bytes brings the fill to 396 and places a PAUSE. -/
theorem test_sixth_record_pauses : after .pass
    { handed ⟨5, 9, .pass, List.replicate 64 0x41⟩ with
      desk := { active.desk with inbound := List.replicate 5 ⟨9, List.replicate 64 0x41⟩ } }
    (fun t => inboundFill t.desk = 396 ∧ t.desk.pauseSent = true ∧ t.desk.flow = some .pause) = true := by decide

/-- 9.9: without station 9 the parts add up to 10425400, and a field with d = 2 shows 1042.54. -/
theorem test_share_ages_out : after .deskTick
    { active with desk := { active.desk with
        active := [(1, .value 420400)]
        table := [(36, ⟨.value 10005000, 6⟩), (41, ⟨.value (-123456), 29⟩)] } }
    (fun t => deskTotal t.desk 1 = .value 10425400 ∧
      shareValue (shape 14 .deskSum 2 true) (deskTotal t.desk 1) = .number 104254) = true := by decide

/-- 10, a station joins the desk: the reply of CAUSE READ to STARTED is 3, and ATTN goes high with it. -/
theorem test_cause_read_started : after (.causeRead 1)
    { ready with tp := { ready.tp with edge := { EdgeCauses.clear with started := true } } }
    (fun t => t.tp.sdo = [0, 3] ∧ attn t = true) = true := by decide

/-- 10, a station joins the desk: station 9 enters DEFER for its GREET with 42 bit times. -/
theorem test_join_greets : after .joinListenComplete
    { ready with line := { ready.line with station := 9 }, desk := DeskExchange.afterReset }
    (fun t => t.line.tx = .defer ∧ t.line.need = 42 ∧ t.line.selection = some .greet) = true := by decide

/-- 10, a station joins the desk: an order in STARTING is refused REFUSED STATE. -/
theorem test_starting_refuses : after (.formBegin 5 14 40 0) State.reset
    (fun t => t.tp.outcome = .refusedState ∧ t.form.state = .empty) = true := by decide

/-- R179: SDO drives 0x00 on the two bytes clocked after FORM END, which has neither data nor a reply. -/
theorem test_ignored_bytes : after (.formEnd 2) ready (fun t => t.tp.sdo = [0, 0, 0]) = true := by decide

/-- R118: the scan reaches row 24, column 79 and then row 0 again. -/
theorem test_scan_goes_round :
    (scanRow 1999, scanCol 1999) = (24, 79) ∧ (scanRow 2000, scanCol 2000) = (0, 0) ∧ (scanRow 81, scanCol 81) = (1, 1) := by
  decide

/-- R196: the status bytes of a station in READY with an EMPTY form, nothing queued and the outcome DONE. -/
theorem test_status_bytes : statusBytes { ready with tp := { ready.tp with outcome := .done } } = [0x80, 1, 0, 0] := by decide

/-! ## Witnesses: states and operands that meet the hypotheses of the statements

Where a statement has clauses of one hypothesis each, the witness has one conjunct for each, at the ends of its range.
-/

theorem witness_StepRunsFrontCommand : ready.pending = [] := by decide

theorem witness_ResetsClearEveryBlock : ready.tp.phase = .ready := by decide

/-- STARTING as RESETN and the supply leave it. -/
def starting (resetnLow supplySteady clearing : Bool) : State :=
  { State.reset with tp := TpPort.afterReset resetnLow supplySteady clearing true }

theorem witness_StartUpSequence :
    ((starting true true false).tp.resetnLow = true ∧ (starting true true false).tp.supplySteady = true) ∧
    ((starting true false false).tp.resetnLow = true ∧ (starting true false false).tp.supplySteady = false ∧
      (starting true false false).tp.phase = .starting) ∧
    (State.reset.tp.phase = .starting ∧ State.reset.tp.supplySteady = false ∧ State.reset.tp.resetnLow = false) ∧
    ((starting false true true).tp.phase = .starting ∧ (starting false true true).tp.clearing = true) := by decide

theorem witness_CommandEndsWithRenderAndRequest :
    State.reset.tp.phase ≠ .ready ∧
    (let s := { (lined (fun l => { l with joined := true })) with desk := DeskExchange.afterReset }
     (s.tp.phase = .ready ∧ s.line.joined = true ∧ s.line.listenOnly = false ∧ s.line.tx = .idle) ∧
      arbiter s.desk = some .greet) ∧
    (let s := lined (fun l => { l with joined := true })
     (s.tp.phase = .ready ∧ s.line.joined = true ∧ s.line.listenOnly = false ∧ s.line.tx = .idle) ∧
      arbiter s.desk = none) := by decide

theorem witness_ArbiterPrecedence :
    DeskExchange.afterReset.greet = true ∧
    (let d := { ready.desk with flow := some .pause }
     d.greet = false ∧ d.flow ≠ none) ∧
    (let d := { ready.desk with tallies := [(1, .tally), (8, .retract)] }
     d.greet = false ∧ d.flow = none ∧ assocWf d.tallies = true ∧ assocGet d.tallies 1 = some .tally) ∧
    (let d := { ready.desk with messages := [.pass 3 [0x41], .banner []], paused := [(3, 2)] }
     d.greet = false ∧ d.flow = none ∧ d.tallies = [] ∧ d.messages[1]? = some (.banner []) ∧
      heldMessage d (.banner []) = false ∧ heldMessage d (.pass 3 [0x41]) = true) ∧
    (let d := { ready.desk with messages := [.pass 29 [0x41]], paused := [(29, 1)] }
     d.greet = false ∧ d.flow = none ∧ d.tallies = [] ∧ ∀ m ∈ d.messages, heldMessage d m = true) := by decide

theorem witness_ArbiterPrecedence_lowest (t' : Nat) (a' : Announce)
    (h : assocGet [(1, Announce.tally), (8, Announce.retract)] t' = some a') : 1 ≤ t' := by
  simp only [assocGet] at h
  split at h
  · omega
  · split at h
    · omega
    · cases h

theorem witness_UnknownCodeEndsUnknown : argCount 0x10 = none ∧ argCount 0x65 = none := by decide

theorem witness_AbandonedFramesDoNotAct :
    (argCount 0x26 = some 7 ∧ ([0, 20, 0, 21, 3, 1] : List Byte).length < 7 ∧
      (0x26 : Byte) ∉ ([0x11, 0x12, 0x41, 0x51, 0x64] : List Byte)) ∧
    (argCount 0x34 = some 1 ∧ ([] : List Byte).length < 1 ∧ (0x34 : Byte) ∉ ([0x11, 0x12, 0x41, 0x51, 0x64] : List Byte)) ∧
    (argCount 0x41 = some 0 ∧ ready.tp.phase = .ready) ∧
    (argCount 0x51 = some 0 ∧ sent.tp.phase = .ready ∧ sent.send.state = .ready) ∧
    argCount 0x12 = some 0 := by decide

theorem witness_StatusReadReportsAndClears :
    ({ active.key with queue := List.replicate 16 0x41 } : KeyEngine).queue.length ≤ 16 ∧ active.tp.phase = .ready := by decide

theorem witness_CauseReadAnswersHighestPriority : ready.tp.phase = .ready ∧ (0 : Nat) < 1 := by decide

theorem witness_ControlCommandsAct :
    ready.tp.decoder = .idle ∧ ({ ready.key with alarm := true } : KeyEngine).alarm = true ∧ ready.tp.phase = .ready ∧
    (lined (fun l => { l with listenOnly := true })).line.listenOnly = true ∧
    (ready.line.listenOnly = false ∧ (0xFE : Byte).getLsbD 0 = ready.line.loopback) ∧
    (let s := lined (fun l => { l with tx := .send })
     s.line.listenOnly = false ∧ (1 : Byte).getLsbD 0 ≠ s.line.loopback ∧ s.line.tx = .send) ∧
    ((1 : Byte).getLsbD 0 ≠ ready.line.loopback ∧ ready.line.tx ≠ .send) := by decide

theorem witness_StartingRefusesOrders :
    (StartSound State.reset ∧ State.reset.tp.phase = .starting) ∧
    (frameOf (.formEnd 2) = some [0x27, 0, 0] ∧ (∀ n, Instr.formEnd 2 ≠ .statusRead n) ∧ ∀ n, Instr.formEnd 2 ≠ .causeRead n) ∧
    (frameOf (.causeRead 2) = some [0x12, 0, 0] ∧ ∀ n, Instr.causeRead 2 ≠ .statusRead n) :=
  ⟨⟨⟨by decide, by decide, by decide, by decide⟩, by decide⟩, ⟨rfl, nofun, nofun⟩, ⟨rfl, nofun⟩⟩

theorem witness_StreamEndsByOtherOrder :
    after (.statusRead 4) ready (fun _ => true) = true ∧ after (.causeRead 1) ready (fun _ => true) = true ∧
    (after (.streamNext 0 []) ready (fun _ => true) = true ∧ ready.tp.stream = none) ∧
    after (.streamBegin 9 0) active (fun t => t.tp.outcome ≠ .done) = true ∧
    (frameOf (.windowSet 0 0) ≠ none ∧ after (.windowSet 0 0) active (fun _ => true) = true) ∧
    argCount 0x00 = none ∧ (argCount 0x34 = some 1 ∧ ([] : List Byte).length < 1) ∧
    after (.frameAbandoned [] true) active (fun _ => true) = true ∧
    (keyRowOf .tab ≠ none ∧ after .tab active (fun _ => true) = true) ∧
    (frameOf .deskTick = none ∧ after .deskTick active (fun _ => true) = true) := by decide

theorem witness_KeyOrderOffersCodes : ready.tp.phase = .ready ∧ ready.key.queue.length ≤ 16 := by decide

theorem witness_FormBeginOpensForm :
    ready.tp.phase = .ready ∧
    (let legal (h w d : Byte) := h.toNat ≤ 23 ∧ w.toNat ≤ 16 ∧ h.toNat + w.toNat ≤ 24 ∧
      (w.toNat = 0 → d.toNat = 0) ∧ (w.toNat ≠ 0 → w.toNat ≤ d.toNat ∧ d.toNat ≤ 48)
     legal 23 0 0 ∧ legal 8 16 48 ∧ ¬legal 24 0 0 ∧ ¬legal 8 16 49 ∧ ¬legal 9 16 48) := by decide

theorem witness_DefinesPlaceRecordInOrder :
    active.form.state ≠ .define ∧
    (defining.tp.phase = .ready ∧ defining.form.state = .define ∧ defining.form.fields.length < 96 ∧
      defining.form.cols.length < 12) ∧
    fieldOf 5 0 40 6 0 0 0 0 0 0 = none ∧
    (fieldOf 5 1 40 6 2 0 0 0 0 0).map (fieldLegal defining.form) = some false ∧
    (fieldOf 96 0 74 6 2 0 0 0 0 0).map (fieldLegal defining.form) = some true ∧
    (columnOf 1 40 6 2 0 0 0 0 0).map (columnLegal defining.form) = some false ∧
    (columnOf 12 74 6 2 0 0 0 0 0).map (columnLegal defining.form) = some true ∧
    recordsOnScreen defining.form = true ∧
    defining.form.fields.Pairwise (fun a b => fieldBefore a b = true) ∧
    defining.form.cols.Pairwise (fun a b => a.col < b.col) := by decide

theorem witness_DropsRemoveRecord :
    active.form.state ≠ .define ∧ defining.form.state = .define ∧
    (∀ g ∈ defining.form.fields, g.number ≠ (5 : Byte).toNat) ∧ (∃ g ∈ defining.form.fields, g.number = (4 : Byte).toNat) ∧
    (∀ g ∈ defining.form.cols, g.number ≠ (5 : Byte).toNat) ∧ (∃ g ∈ defining.form.cols, g.number = (4 : Byte).toNat) := by
  decide

/-- The last row of the footer, ACROSS. -/
def bottomLabel : LabelArgs := ⟨false, 23, 78, 23, 79, false, .plain⟩

/-- The end of the template row, DOWN. -/
def templateLabel : LabelArgs := ⟨true, 0, 79, 0, 79, true, .plain⟩

theorem active_memories : MemoriesSound active :=
  ⟨by decide, by decide, by decide, by decide, by decide, by decide, by decide⟩

theorem witness_LabelWriteFillsCells :
    (MemoriesSound active ∧ active.tp.phase = .ready ∧ active.form.state ≠ .empty ∧
      labelArgs 0 23 78 23 79 0 0 = some bottomLabel ∧ rectLegal active.form bottomLabel = true ∧
      ([0x41, 0x42] : List Byte).length ≤ (rectCells bottomLabel).length) ∧
    (MemoriesSound defining ∧ defining.tp.phase = .ready ∧ defining.form.state ≠ .empty ∧ defining.form.state ≠ .active ∧
      labelArgs 1 0 79 0 79 1 0 = some templateLabel ∧ rectLegal defining.form templateLabel = true ∧
      ([0x41] : List Byte).length ≤ (rectCells templateLabel).length) :=
  ⟨⟨active_memories, by decide⟩,
    ⟨⟨by decide, by decide, by decide, by decide, by decide, by decide, by decide⟩, by decide⟩⟩

theorem witness_FormEndActivatesForm :
    active.form.state ≠ .define ∧ defining.form.state = .define ∧ formSound defining.form = true ∧
    formSound { smallForm with cols := [] } = false := by decide

/-- `active` with the DISPLAY field turned into a DIGITS field, which holds digits. -/
def digitsField : State :=
  { active with form := { active.form with
      fields := [⟨3, 20, 0, shape 5 .digits 0 false, 0, 0⟩]
      vals := [⟨3, .text [0x30, 0x31, 0x32, 0x33, 0x34], false⟩] } }

theorem witness_TextFieldWriteReplacesValue :
    (active.tp.phase = .ready ∧ active.form.state = .active ∧ active.send.state ≠ .assembling ∧ (3 : Byte).toNat ≤ 3) ∧
    ((findField active.form 1).map (·.shape.kind) = some .text ∧ (findField active.form 3).map (·.shape.kind) = some .display ∧
      (findField digitsField.form 3).map (·.shape.kind) = some .digits ∧
      ∀ b ∈ ([0x39, 0x05] : List Byte), digitsAllowed (plainChar b) = true) ∧
    ((0 : Byte).getLsbD 0 = false ∧ valFind active.form.vals 3 = some ⟨3, .text (List.replicate 5 blank), false⟩ ∧
      (List.replicate 5 blank).length = 5) ∧
    ((3 : Byte).getLsbD 0 = true ∧ valFind digitsField.form.vals 3 = some ⟨3, .text [0x30, 0x31, 0x32, 0x33, 0x34], false⟩) ∧
    (findField active.form 3).map (fun fd => decide ((4 : Byte).toNat < fd.shape.length ∧
      (4 : Byte).toNat + ([0x41] : List Byte).length ≤ fd.shape.length)) = some true := by decide

/-- Data that wraps: eight characters from offset 2 on in a field of length 6 write the first two positions twice. -/
theorem witness_TextFieldWriteReplacesValue_wraps :
    let chars : List Byte := [0x41, 0x42, 0x43, 0x44, 0x45, 0x46, 0x47, 0x48]
    (2 : Nat) < 6 ∧ chars[7]? = some 0x48 ∧ chars.length ≤ 7 + 6 ∧ (2 + 7) % 6 = 3 ∧ chars[2]? = some 0x43 ∧
    chars.length ≤ 2 + 6 ∧ (2 + 2) % 6 = 4 ∧ ∀ m < ([0x41, 0x42, 0x43] : List Byte).length, (4 + m) % 6 ≠ 3 := by decide

/-- `active` with a signed NUMBER field of one decimal alone, which holds 0.5. -/
def numberField : State :=
  { active with form := { active.form with
      fields := [⟨3, 20, 0, shape 5 .number 1 true, 0, 0⟩], vals := [⟨3, .number 5, false⟩] } }

theorem witness_TextFieldWriteReplacesValue_number :
    (let s := numberField
     s.tp.phase = .ready ∧ s.form.state = .active ∧ s.send.state ≠ .assembling ∧ (3 : Byte).toNat ≤ 3 ∧
      findField s.form 3 = some ⟨3, 20, 0, shape 5 .number 1 true, 0, 0⟩ ∧ (4 : Byte).toNat < 5 ∧ formatOf 0 = some .plain ∧
      decodeData .plain [0x2D, 0x37] = some [minus, 0x37] ∧ valFind s.form.vals 3 = some ⟨3, .number 5, false⟩ ∧
      parseSystem (shape 5 .number 1 true) [0x41] = none ∧
      parseSystem (shape 5 .number 1 true) [minus, 0x37] = some (.number (-70))) ∧
    ((findField digitsField.form 3).map (·.shape.kind) = some .digits ∧ decodeData .plain [0x41] = some [0x41] ∧
      ∃ b ∈ ([0x41] : Text), digitsAllowed b = false) ∧
    (∀ b ∈ ([] : Text), b = blank) ∧ (∀ b ∈ ([blank, blank] : Text), b = blank) ∧
    ((∀ b ∈ ([blank] ++ [] : Text), b = blank) ∧ (∀ b ∈ ([0x31] ++ [0x32, 0x35] : Text), isDigit b = true) ∧
      ([] ++ [minus] ++ [0x31] ++ [point] ++ [0x32, 0x35] : Text).length = 5 ∧
      (shape 5 .number 1 false).signed = false ∧ (shape 5 .number 1 true).signed = true ∧
      (roundDiv (-125) 1).natAbs < 10 ^ capacity (shape 5 .number 1 true) ∧
      10 ^ capacity (shape 5 .number 1 true) ≤ (-99999 * 10 : Int).natAbs ∧
      parseSystem (shape 5 .number 1 true) [minus, 0x31, point, 0x32, 0x35] ≠ none) := by decide

theorem witness_NumberCellWriteRecomputes :
    (active.tp.phase = .ready ∧ active.form.state = .active ∧ active.send.state ≠ .assembling ∧ (2 : Byte).toNat < active.form.d ∧
      (3 : Byte).toNat ≤ 3) ∧
    findCol active.form 2 = some ⟨2, 10, shape 6 .number 0 true, 0, 0⟩ ∧ (5 : Byte).toNat < 6 ∧
    formatOf 0 = some .plain ∧ decodeData .plain [0x31, 0x32] = some [0x31, 0x32] ∧
    parseSystem (shape 6 .number 0 true) [0x31, 0x32] = some (.number 12) ∧
    instValue active.form (.cell 2 2) = some .absent := by decide

/-- `active` with a second TEXT field in its header, and a stream that points at the first one. -/
def streaming : State :=
  { active with
    tp := { active.tp with stream := some ⟨1, true⟩ }
    form := { active.form with
      fields := [⟨1, 0, 0, shape 4 .text 0 false, 0, 0⟩, ⟨2, 0, 10, shape 8 .columnSum 0 true, 2, 0⟩,
        ⟨5, 0, 40, shape 4 .number 0 false, 0, 0⟩, ⟨4, 20, 10, shape 8 .deskSum 0 true, 2, 1⟩] } }

theorem witness_StreamOrdersWriteInTurn :
    (active.tp.phase = .ready ∧ active.form.state = .active ∧
      (findField active.form 1).map (fun fd => decide (fd.shape.kind ≠ .columnSum ∧ fd.shape.kind ≠ .deskSum)) = some true) ∧
    (let fd : FieldDef := ⟨1, 0, 0, shape 4 .text 0 false, 0, 0⟩
     let post := streaming.form.fields.drop 1
     streaming.tp.stream = some ⟨1, true⟩ ∧ streaming.form.fields = [] ++ fd :: post ∧ 0 < fd.shape.length ∧
      ({ sent.send with state := .assembling } : SendAssembler).state = .assembling ∧ streaming.send.state ≠ .assembling ∧
      formatOf 3 = none ∧ formatOf 2 = some .rep ∧ formatOf 0 = some .plain ∧
      ((decodeData .rep [0x41]).bind (writtenValue fd.shape false 0 .absent)) = none ∧
      ((decodeData .plain [0x41]).bind (writtenValue fd.shape false 0 .absent)) = some (.text [0x41, blank, blank, blank]) ∧
      instValue streaming.form (.field 1) ≠ none ∧ fd.shape.kind = .text ∧
      ([0x41, 0x41, 0x41, 0x41] : List Byte).length ≤ fd.shape.length ∧
      ∀ g ∈ streaming.form.fields, g.number = 1 → g.shape.kind ≠ .deskSum) ∧
    (let takes (g : FieldDef) := g.shape.kind ≠ .columnSum ∧ g.shape.kind ≠ .deskSum ∧ decide (g.row < streaming.form.h) = true
     streaming.form.fields.drop 1 = [⟨2, 0, 10, shape 8 .columnSum 0 true, 2, 0⟩] ++
        ⟨5, 0, 40, shape 4 .number 0 false, 0, 0⟩ :: streaming.form.fields.drop 3 ∧
      (∀ x ∈ [(⟨2, 0, 10, shape 8 .columnSum 0 true, 2, 0⟩ : FieldDef)], ¬takes x) ∧
      takes ⟨5, 0, 40, shape 4 .number 0 false, 0, 0⟩ ∧ ∀ x ∈ streaming.form.fields.drop 3, ¬takes x) := by decide

theorem witness_ReadsReturnState :
    active.form.state = .active ∧ defining.form.state ≠ .active ∧ ready.form.state ≠ .active ∧
    (findField active.form 4).map (·.shape.kind) = some .deskSum ∧ instValue active.form (.field 4) = some (.number 0) ∧
    ((2 : Byte).toNat < active.form.d ∧ (findCol active.form 3).map (·.shape.kind) = some .product ∧
      instValue active.form (.cell 2 3) = some .absent) := by decide

theorem witness_EntriesClearEmptiesEntries :
    active.tp.phase = .ready ∧ active.form.state = .active ∧ active.send.state ≠ .assembling ∧
    ({ sent.send with state := .assembling } : SendAssembler).state = .assembling ∧
    (instShape active.form (.cell 2 2)).map (fun sh => isEntryKind sh.kind) = some true ∧
    instValue active.form (.cell 2 2) ≠ none ∧ (valFind active.form.vals 1).isSome = true ∧
    ((active.form.lines[2]?).bind (·.cells.head?)).map (·.key) = some 1 ∧ findCol active.form 1 ≠ none := by decide

theorem witness_CursorAndWindowSet :
    (active.tp.phase = .ready ∧ active.form.state = .active ∧ active.send.state ≠ .assembling) ∧
    (findField active.form 4).isSome = true ∧
    ((findCol active.form 2).isSome = true ∧ (1 : Byte).toNat < active.form.d ∧ active.cur.top ≤ (1 : Byte).toNat ∧
      (1 : Byte).toNat < active.cur.top + active.form.w) ∧
    ((2 : Byte).toNat < active.form.d ∧ active.cur.top + active.form.w ≤ (2 : Byte).toNat) ∧
    ((23 : Byte).toNat ≤ 23 ∧ (79 : Byte).toNat ≤ 79) ∧ 23 < (24 : Byte).toNat ∧ 79 < (80 : Byte).toNat := by decide

theorem witness_BlockReadInPieces : sent.tp.phase = .ready ∧ sent.send.state = .ready ∧ active.send.state ≠ .ready := by decide

theorem witness_ReleaseAndRejectAnswerSend :
    active.key.keyboard ≠ .locked ∧ (sent.tp.phase = .ready ∧ sent.key.keyboard = .locked) ∧ 3 < (4 : Byte).toNat ∧
    (3 : Byte).toNat ≤ 3 ∧ (20 ≤ (20 : Byte).toNat ∧ (99 : Byte).toNat ≤ 99 ∧ (List.replicate 30 (0x41 : Byte)).length ≤ 30) ∧
    (19 : Byte).toNat < 20 ∧ 99 < (100 : Byte).toNat ∧ 30 < (List.replicate 31 (0x41 : Byte)).length ∧ 2 < (3 : Byte).toNat ∧
    (findField sent.form 4).isSome = true ∧ findField sent.form 5 = none ∧
    ((findCol sent.form 4).isSome = true ∧ (1 : Byte).toNat < sent.form.d ∧ sent.cur.top ≤ (1 : Byte).toNat ∧
      (1 : Byte).toNat < sent.cur.top + sent.form.w) ∧
    ((2 : Byte).toNat < sent.form.d ∧ sent.cur.top + sent.form.w ≤ (2 : Byte).toNat) ∧
    findCol sent.form 5 = none ∧ sent.form.d ≤ (3 : Byte).toNat := by decide

/-- A key put before an empty queue stands where the Key Engine takes keys. -/
theorem stands {k : Key} {b : Byte} {s : State}
    (h : keyOf b = some k ∧ s.key.queue = [] ∧ s.form.state = .active ∧ s.send.state = .none ∧ s.comp.items = [] ∧
      s.comp.rendering = false) : KeyStands k b [] (keyed b s) :=
  ⟨congrArg (List.cons b) h.2.1, h.1, h.2.2.1, h.2.2.2.1, h.2.2.2.2.1, h.2.2.2.2.2⟩

theorem witness_KeysAreTakenFromHead :
    (keyRowOf .tab = some .tab ∧ RepaintSound (keyed 0x80 active)) ∧
    (keyOf 0x80 = some .tab ∧ (keyed 0x80 active).key.queue = 0x80 :: [] ∧ (keyed 0x80 active).form.state = .active ∧
      (keyed 0x80 active).key.keyboard = .free ∧ (keyed 0x80 active).send.state = .none ∧
      (keyed 0x80 active).comp.items = []) ∧
    (ready.form.state ≠ .active ∧ (sent.key.keyboard ≠ .free ∧ sent.key.keyboard ≠ .error) ∧ sent.send.state ≠ .none ∧
      (keyed 0x81 active).key.queue.head?.bind keyOf ≠ some .tab) :=
  ⟨⟨rfl, by decide, by decide, by decide⟩, by decide, by decide⟩

/-- `active` in ERROR. -/
def inError : State := { active with key := { active.key with keyboard := .error, lastError := some (.op .tooLarge) } }

theorem witness_ErrorDiscardsKeysUntilReset :
    (ready.key.keyboard = .system ∧ sent.key.keyboard = .locked) ∧
    (keyRowOf .dataKey = some .data ∧ KeyStands .data 0x7E [] (keyed 0x7E inError) ∧
      (keyed 0x7E inError).key.keyboard = .error ∧ Key.data ≠ .reset) ∧
    (keyRowOf .reset = some .reset ∧ KeyStands .reset 0x92 [] (keyed 0x92 inError) ∧
      (keyed 0x92 inError).key.keyboard = .error) ∧
    (KeyStands .reset 0x92 [] (keyed 0x92 active) ∧ (keyed 0x92 active).key.keyboard = .free) :=
  ⟨by decide, ⟨rfl, stands (by decide), rfl, by decide⟩, ⟨rfl, stands (by decide), rfl⟩, stands (by decide), rfl⟩

/-- The arrow keys' edges of the form area and of the window, on states where the key stands. -/
theorem witness_ArrowKeysMoveCursor :
    (∀ r c, (keyed 0x85 (at' r c active)).key.keyboard = .free ∧ (keyed 0x85 (at' r c active)).key.edit = none) ∧
    (∀ r c, KeyStands .home 0x82 [] (keyed 0x82 (at' r c active)) ∧ KeyStands .left 0x84 [] (keyed 0x84 (at' r c active)) ∧
      KeyStands .right 0x85 [] (keyed 0x85 (at' r c active)) ∧ KeyStands .up 0x86 [] (keyed 0x86 (at' r c active)) ∧
      KeyStands .down 0x87 [] (keyed 0x87 (at' r c active))) ∧
    ((at' 0 78 active).cur.col < 79 ∧ (at' 22 79 active).cur.row < 23 ∧ (at' 23 79 active).cur.row = 23) ∧
    (0 < (at' 0 1 active).cur.col ∧ 0 < (at' 1 0 active).cur.row ∧ (at' 0 0 active).cur.row = 0) ∧
    (0 < active.form.w ∧ (at' 2 0 active).cur.row + 1 = active.form.h + active.form.w ∧
      active.cur.top + active.form.w < active.form.d) ∧
    ¬(0 < active.form.w ∧ (at' 23 0 active).cur.row + 1 = active.form.h + active.form.w ∧
      active.cur.top + active.form.w < active.form.d) ∧
    ((at' 1 0 active).cur.row = active.form.h ∧ 0 < ({ active.cur with top := 1 } : CursorEngine).top) ∧
    ¬(0 < active.form.w ∧ (at' 0 0 active).cur.row = active.form.h ∧ 0 < active.cur.top) :=
  ⟨fun _ _ => ⟨rfl, rfl⟩,
    fun _ _ => ⟨⟨rfl, rfl, rfl, rfl, rfl, rfl⟩, ⟨rfl, rfl, rfl, rfl, rfl, rfl⟩, ⟨rfl, rfl, rfl, rfl, rfl, rfl⟩,
      ⟨rfl, rfl, rfl, rfl, rfl, rfl⟩, ⟨rfl, rfl, rfl, rfl, rfl, rfl⟩⟩,
    by decide, by decide, by decide, by decide, by decide, by decide⟩

/-- `active` with another window top. -/
def topped (top : Nat) : State := { active with cur := { active.cur with top := top } }

/-- A key at the head of the queue, the cursor on a cell, T at `top`. -/
def pressed (b : Byte) (r c top : Nat) : State := keyed b { active with cur := ⟨r, c, top⟩ }

/-- The stops of the small form: its header field, then two a window row. -/
theorem active_stops : tabStops active.form = [(0, 0), (1, 0), (1, 10), (2, 0), (2, 10)] ∧ stopCols active.form = [0, 10] := by
  decide

/-- On the small form, whose footer has no stop: TAB and NEWLINE at the end of the window, in it and past the last stop,
BACKTAB at its start, in it, before the first stop and inside an entry instance, the page keys at the ends. -/
theorem witness_StopAndPageKeysMove :
    (keyRowOf .tab = some .tab ∧ KeyStands .tab 0x80 [] (pressed 0x80 2 10 0) ∧
      (let s := pressed 0x80 2 10 0
       s.key.keyboard = .free ∧ s.key.edit = none ∧ referenceCell s = (2, 10) ∧ s.cur.top + s.form.w < s.form.d) ∧
      (referenceCell (pressed 0x80 1 5 0) = (1, 5) ∧ cellBefore (1, 5) (1, 10) = true ∧ cellBefore (1, 5) (1, 0) = false) ∧
      (pressed 0x80 20 0 1).cur.top + 2 = 3 ∧ ∀ x ∈ tabStops active.form, cellBefore (20, 0) x = false) ∧
    (let s := { active with form := { active.form with fields := [], cols := [] } }
     KeyStands .newline 0x83 [] (keyed 0x83 s) ∧ tabStops (keyed 0x83 s).form = []) ∧
    (KeyStands .backtab 0x81 [] (pressed 0x81 1 0 1) ∧
      (currentEntry (pressed 0x81 1 0 1)).map (fun e => e.2.2) = some 0 ∧
      currentEntry (pressed 0x81 0 20 0) = none ∧ referenceCell (pressed 0x81 0 20 0) = (0, 20) ∧
      cellBefore (0, 0) (0, 20) = true ∧ cellBefore (1, 0) (0, 20) = false ∧
      (currentEntry (pressed 0x81 0 0 0)).map (fun e => e.2.2) = some 0 ∧
      (∀ x ∈ tabStops active.form, cellBefore x (0, 0) = false)) ∧
    (KeyStands .backtab 0x81 [] (pressed 0x81 1 15 0) ∧
      (currentEntry (pressed 0x81 1 15 0)).map (fun e => decide (15 ≠ e.2.2)) = some true) ∧
    (KeyStands .newline 0x83 [] (pressed 0x83 2 0 0) ∧ (pressed 0x83 2 0 0).cur.row + 1 = active.form.h + active.form.w ∧
      (∀ x ∈ tabStops active.form, x.1 ≤ (pressed 0x83 2 0 1).cur.row) ∧ (pressed 0x83 0 0 0).cur.row < 1) ∧
    (KeyStands .pageForward 0x88 [] (keyed 0x88 (topped 1)) ∧
      min ((keyed 0x88 (topped 1)).cur.top + active.form.w) (active.form.d - active.form.w) = (keyed 0x88 (topped 1)).cur.top) ∧
    (KeyStands .pageForward 0x88 [] (keyed 0x88 (topped 0)) ∧
      min ((keyed 0x88 (topped 0)).cur.top + active.form.w) (active.form.d - active.form.w) ≠ (keyed 0x88 (topped 0)).cur.top) ∧
    (KeyStands .pageBack 0x89 [] (keyed 0x89 (topped 0)) ∧ (topped 0).cur.top - active.form.w = (topped 0).cur.top) ∧
    (KeyStands .pageBack 0x89 [] (keyed 0x89 (topped 1)) ∧ (topped 1).cur.top - active.form.w ≠ (topped 1).cur.top) :=
  ⟨⟨rfl, stands (by decide), by decide⟩, ⟨stands (by decide), by decide⟩, ⟨stands (by decide), by decide⟩,
    ⟨stands (by decide), by decide⟩, ⟨stands (by decide), by decide⟩, ⟨stands (by decide), by decide⟩,
    ⟨stands (by decide), by decide⟩, ⟨stands (by decide), by decide⟩, ⟨stands (by decide), by decide⟩⟩

/-- `active` with an edit on a cell of line 1, the cursor on it, and a key at the head of the queue. -/
def leaving (k : Byte) (c : Nat) (buf : Text) : State := keyed k (editing (.cell 1 c) buf (at' 2 10 active))

/-- `leaving` in a form without stops. -/
def stopless : State :=
  { leaving 0x80 2 [] with form := { active.form with w := 0, fields := [] } }

theorem witness_LeavingCompletesEdit :
    (let s := leaving 0x87 2 [0x2D, 0x37]
     (keyRowOf .down = some .down ∧ (moveOf .down).isSome = true ∧ KeyStands .down 0x87 [] s) ∧ s.key.keyboard = .free ∧
      s.key.edit = some ⟨.cell 1 2, [0x2D, 0x37]⟩ ∧ instShape s.form (.cell 1 2) = some (shape 6 .number 0 true) ∧
      isEntryKind .number = true ∧ downMove s = .target 2 10 1 ∧ leaves s (.cell 1 2) 2 10 1 = true ∧
      instValue s.form (.cell 1 2) ≠ none) ∧
    (let s := leaving 0x85 2 [0x2D, 0x37]
     KeyStands .right 0x85 [] s ∧ rightMove s = .target 2 11 0 ∧ leaves s (.cell 1 2) 2 11 0 = false) ∧
    (let s := leaving 0x82 1 [0x41, 0x42, 0x43]
     KeyStands .home 0x82 [] s ∧ homeMove s = .target 0 0 0 ∧ leaves s (.cell 1 1) 0 0 0 = true) ∧
    (KeyStands .tab 0x80 [] stopless ∧ stopless.key.edit = some ⟨.cell 1 2, []⟩ ∧ tabMove stopless = .blocked) :=
  ⟨⟨⟨rfl, rfl, stands (by decide)⟩, by decide⟩, ⟨stands (by decide), by decide⟩, ⟨stands (by decide), by decide⟩,
    ⟨⟨rfl, rfl, rfl, rfl, rfl, rfl⟩, by decide⟩⟩

theorem witness_LeavingCompletesEdit_check :
    checkBuffer (shape 6 .number 0 true) [0x2D, 0x37] = .ok (.number (-7)) ∧
    checkBuffer (shape 6 .number 0 true) [0x39, 0x39, 0x39, 0x39, 0x39, 0x39] = .error .tooLarge ∧
    (let sh := { shape 3 .digits 0 false with opts := { plain with mustFill := true } }
     sh.opts.mustFill = true ∧ (∃ b ∈ ([0x31, 0x32, blank] : Text), b = blank) ∧
      ∃ b ∈ ([0x31, 0x32, blank] : Text), b ≠ blank) ∧
    (let sh := { shape 4 .number 1 false with opts := { plain with mustFill := true } }
     capacity sh = 3 ∧ ([0x31, 0x32] : Text) ≠ [] ∧ (([0x31, 0x32] : Text).filter isDigit).length < capacity sh ∧
      capacity sh ≤ (([0x31, 0x32, point, 0x33] : Text).filter isDigit).length ∧
      ([0x31, 0x32, point, 0x33] : Text) = (if false then [minus] else []) ++ [0x31, 0x32] ++ [point] ++ [0x33] ∧
      (∀ b ∈ ([0x31, 0x32] ++ [0x33] : Text), isDigit b = true) ∧ ([0x33] : Text).length ≤ sh.decimals ∧
      digitsNat ([0x31, 0x32] ++ [0x33]) * 10 ^ (sh.decimals - 1) < 10 ^ capacity sh) ∧
    (10 ^ capacity (shape 1 .number 0 false) ≤ digitsNat [0x31, 0x30] * 10 ^ 0) := by
  refine ⟨by rfl, by rfl, by decide, by decide, by decide⟩

/-- The hypotheses of the echo: the image is canonical, the records are on the screen, the instance is on the screen. -/
theorem echo_stands (b : Byte) :
    MemoriesSound (keyed b (at' 0 2 active)) ∧ recordsOnScreen (keyed b (at' 0 2 active)).form = true ∧
    instFirst (keyed b (at' 0 2 active)).form 0 (.field 1) = some (0, 0) ∧
    instFirst (keyed b (at' 1 10 active)).form 0 (.cell 0 2) = some (1, 10) :=
  ⟨⟨rfl, rfl, rfl, rfl, rfl, rfl, rfl⟩, rfl, rfl, rfl⟩

/-- A machine in insert mode. -/
def inserting (s : State) : State := { s with key := { s.key with insertMode := true } }

/-- `active` with auto-advance in its TEXT field and its NUMBER column. -/
def advancing : State :=
  let auto (sh : Shape) : Shape := { sh with opts := { plain with autoAdvance := true } }
  { active with form := { active.form with
      fields := [⟨1, 0, 0, auto (shape 4 .text 0 false), 0, 0⟩], vals := [⟨1, .text [blank, blank, blank, blank], false⟩]
      cols := [⟨2, 10, auto (shape 6 .number 1 true), 0, 0⟩] } }

/-- A pending edit, none on a NUMBER and none on a TEXT instance: the buffer that a data key finds. -/
theorem witness_DataKeyWritesBuffer_buffer :
    (editing (.field 1) [0x41] active).key.edit = some ⟨.field 1, [0x41]⟩ ∧ active.key.edit = none ∧
    (shape 6 .number 0 true).kind = .number ∧ (shape 4 .text 0 false).kind ≠ .number ∧
    instValue active.form (.field 1) = some (.text [blank, blank, blank, blank]) := by decide

/-- TEXT and DIGITS: outside an entry instance, a refused character, insert mode with and without room, a position before
the last one, and the last position without and with auto-advance. -/
theorem witness_DataKeyWritesBuffer_text :
    (KeyStands .data 0x20 [] (keyed 0x20 (at' 0 20 active)) ∧ (keyed 0x20 (at' 0 20 active)).key.keyboard = .free ∧
      currentEntry (keyed 0x20 (at' 0 20 active)) = none) ∧
    (let s := keyed 0x41 (at' 20 0 digitsField)
     KeyStands .data 0x41 [] s ∧ s.key.keyboard = .free ∧ currentEntry s = some (.field 3, shape 5 .digits 0 false, 0) ∧
      isDigit (foldChar (shape 5 .digits 0 false) 0x41) = false ∧ foldChar (shape 5 .digits 0 false) 0x41 ≠ blank) ∧
    (let s := keyed 0x39 (inserting (at' 20 0 digitsField))
     KeyStands .data 0x39 [] s ∧ s.key.keyboard = .free ∧ currentEntry s = some (.field 3, shape 5 .digits 0 false, 0) ∧
      isDigit (foldChar (shape 5 .digits 0 false) 0x39) = true ∧ s.key.insertMode = true ∧
      (bufferFor s (.field 3) (shape 5 .digits 0 false)).getD 4 blank ≠ blank) ∧
    (let s := keyed 0x7E (inserting (at' 0 2 active))
     KeyStands .data 0x7E [] s ∧ s.key.keyboard = .free ∧ s.key.insertMode = true ∧
      (currentEntry s).map (fun e => decide (e.2.1.kind = .text ∧ s.cur.col - e.2.2 + 1 < e.2.1.length ∧
        (bufferFor s e.1 e.2.1).getD (e.2.1.length - 1) blank = blank)) = some true) ∧
    (let s := keyed 0x7E (at' 0 2 active)
     KeyStands .data 0x7E [] s ∧ s.key.keyboard = .free ∧ s.key.insertMode = false ∧
      (currentEntry s).map (fun e => decide (e.2.1.kind = .text ∧ s.cur.col - e.2.2 + 1 < e.2.1.length)) = some true) ∧
    (let s := keyed 0x7E (at' 0 3 active)
     KeyStands .data 0x7E [] s ∧ s.key.keyboard = .free ∧ s.key.insertMode = false ∧
      (currentEntry s).map (fun e => decide (e.2.1.kind = .text ∧ e.2.1.length ≤ s.cur.col - e.2.2 + 1 ∧
        e.2.1.opts.autoAdvance = false)) = some true) ∧
    (let s := keyed 0x7E (at' 0 3 advancing)
     KeyStands .data 0x7E [] s ∧ s.key.keyboard = .free ∧ s.key.insertMode = false ∧ keyOf 0x80 = some .tab ∧
      (currentEntry s).map (fun e => decide (e.2.1.kind = .text ∧ e.2.1.length ≤ s.cur.col - e.2.2 + 1 ∧
        e.2.1.opts.autoAdvance = true)) = some true) :=
  ⟨⟨stands (by decide), by decide⟩, ⟨stands (by decide), by decide⟩, ⟨stands (by decide), by decide⟩,
    ⟨stands (by decide), by decide⟩, ⟨stands (by decide), by decide⟩, ⟨stands (by decide), by decide⟩,
    ⟨stands (by decide), by decide⟩⟩

/-- NUMBER: a sign, a point and a letter that have no place, a full buffer and a full fraction, an accepted character
without and with auto-advance, and the one that fills the buffer with auto-advance. -/
theorem witness_DataKeyWritesBuffer_number :
    (let s := keyed 0x2D (editing (.cell 0 2) [0x31] (at' 1 10 active))
     KeyStands .data 0x2D [] s ∧ s.key.keyboard = .free ∧ currentEntry s = some (.cell 0 2, shape 6 .number 0 true, 10) ∧
      bufferFor s (.cell 0 2) (shape 6 .number 0 true) ≠ []) ∧
    (let s := keyed 0x2E (at' 1 10 active)
     KeyStands .data 0x2E [] s ∧ currentEntry s = some (.cell 0 2, shape 6 .number 0 true, 10) ∧ isDigit 0x2E = false) ∧
    (let s := keyed 0x31 (editing (.cell 0 2) [0x31, 0x31, 0x31, 0x31, 0x31, 0x31] (at' 1 10 active))
     KeyStands .data 0x31 [] s ∧ currentEntry s = some (.cell 0 2, shape 6 .number 0 true, 10) ∧ isDigit 0x31 = true ∧
      ¬(bufferFor s (.cell 0 2) (shape 6 .number 0 true)).length < 6) ∧
    (let s := keyed 0x31 (editing (.cell 0 2) ([0x31] ++ point :: [0x32]) (at' 1 10 advancing))
     KeyStands .data 0x31 [] s ∧ (currentEntry s).map (fun e => decide (e.1 = .cell 0 2 ∧ e.2.1.kind = .number ∧
        bufferFor s e.1 e.2.1 = [0x31] ++ point :: [0x32] ∧ ¬([0x32] : Text).length < e.2.1.decimals)) = some true ∧
      point ∉ ([0x31] : Text)) ∧
    (let s := keyed 0x2D (at' 1 10 active)
     KeyStands .data 0x2D [] s ∧ s.key.keyboard = .free ∧
      (currentEntry s).map (fun e => decide (e.2.1.kind = .number ∧ e.2.1.signed = true ∧ bufferFor s e.1 e.2.1 = [] ∧
        e.2.1.opts.autoAdvance = false)) = some true) ∧
    (let s := keyed 0x2E (editing (.cell 0 2) [0x31, 0x31, 0x31, 0x31] (at' 1 10 advancing))
     KeyStands .data 0x2E [] s ∧ (currentEntry s).map (fun e => decide (e.2.1.kind = .number ∧ 0 < e.2.1.decimals ∧
        point ∉ bufferFor s e.1 e.2.1 ∧ (bufferFor s e.1 e.2.1).length + 1 < e.2.1.length)) = some true) ∧
    (let s := keyed 0x2E (editing (.cell 0 2) [0x31, 0x31, 0x31, 0x31, 0x31] (at' 1 10 advancing))
     KeyStands .data 0x2E [] s ∧ (currentEntry s).map (fun e => decide (e.2.1.kind = .number ∧ 0 < e.2.1.decimals ∧
        point ∉ bufferFor s e.1 e.2.1 ∧ e.2.1.opts.autoAdvance = true ∧
        (bufferFor s e.1 e.2.1).length + 1 = e.2.1.length)) = some true) :=
  ⟨⟨stands (by decide), by decide⟩, ⟨stands (by decide), by decide⟩, ⟨stands (by decide), by decide⟩,
    ⟨stands (by decide), by decide⟩, ⟨stands (by decide), by decide⟩, ⟨stands (by decide), by decide⟩,
    ⟨stands (by decide), by decide⟩⟩

theorem witness_EditingKeysChangeBuffer :
    (keyRowOf .insert = some .insert ∧ KeyStands .insert 0x8C [] (keyed 0x8C active) ∧
      (keyed 0x8C active).key.keyboard = .free) ∧
    (keyRowOf .delete = some .delete ∧ KeyStands .delete 0x8B [] (keyed 0x8B (at' 0 20 active)) ∧
      currentEntry (keyed 0x8B (at' 0 20 active)) = none) ∧
    (let s := keyed 0x8A (at' 0 3 active)
     KeyStands .backspace 0x8A [] s ∧ s.key.insertMode = false ∧
      (currentEntry s).map (fun e => decide (e.2.1.kind ≠ .number ∧ 0 < s.cur.col - e.2.2)) = some true) ∧
    (let s := keyed 0x8A { at' 0 3 active with key := { active.key with insertMode := true } }
     KeyStands .backspace 0x8A [] s ∧ s.key.insertMode = true ∧
      (currentEntry s).map (fun e => decide (e.2.1.kind ≠ .number ∧ 0 < s.cur.col - e.2.2)) = some true) ∧
    (let s := keyed 0x8A (at' 0 0 active)
     KeyStands .backspace 0x8A [] s ∧
      (currentEntry s).map (fun e => decide (e.2.1.kind ≠ .number ∧ s.cur.col - e.2.2 = 0)) = some true) ∧
    (let s := keyed 0x8B (editing (.cell 0 2) [0x31] (at' 1 10 active))
     KeyStands .delete 0x8B [] s ∧ s.key.keyboard = .free ∧
      (currentEntry s).map (fun e => decide (e.2.1.kind = .number ∧ bufferFor s e.1 e.2.1 ≠ [])) = some true) ∧
    (let s := keyed 0x8A (editing (.cell 0 2) [] (at' 1 10 active))
     KeyStands .backspace 0x8A [] s ∧ s.key.edit ≠ none ∧
      (currentEntry s).map (fun e => decide (e.2.1.kind = .number ∧ bufferFor s e.1 e.2.1 = [])) = some true) ∧
    (let s := keyed 0x8B (at' 1 10 active)
     KeyStands .delete 0x8B [] s ∧ s.key.edit = none ∧
      (currentEntry s).map (fun e => decide (e.2.1.kind = .number ∧ bufferFor s e.1 e.2.1 = [])) = some true) ∧
    (let s := keyed 0x8D (editing (.cell 0 2) [0x31] (at' 1 10 active))
     KeyStands .clearToEnd 0x8D [] s ∧ (currentEntry s).map (fun e => decide (e.2.1.kind = .number)) = some true) :=
  ⟨⟨rfl, stands (by decide), rfl⟩, ⟨rfl, stands (by decide), by decide⟩, ⟨stands (by decide), by decide⟩,
    ⟨stands (by decide), by decide⟩, ⟨stands (by decide), by decide⟩, ⟨stands (by decide), by decide⟩,
    ⟨stands (by decide), by decide⟩, ⟨stands (by decide), by decide⟩, ⟨stands (by decide), by decide⟩⟩

theorem witness_ClearAllAndRepeatAbove :
    (KeyStands .clearAll 0x8E [] (keyed 0x8E active) ∧ (keyed 0x8E active).key.keyboard = .free ∧
      (instShape active.form (.field 1)).map (fun sh => isEntryKind sh.kind) = some true ∧
      (valFind active.form.vals 1).isSome = true ∧ findCol active.form 2 = some ⟨2, 10, shape 6 .number 0 true, 0, 0⟩ ∧
      (active.form.lines[2]?).map (fun ln => (valFind ln.cells 2).isSome) = some true) ∧
    (let s := keyed 0x8F (at' 2 10 active)
     KeyStands .repeatAbove 0x8F [] s ∧ s.key.keyboard = .free ∧
      currentEntry s = some (.cell 1 2, shape 6 .number 0 true, 10) ∧
      instValue s.form (.cell 0 2) = some .absent ∧ instValue s.form (.cell 1 2) ≠ none) :=
  ⟨⟨stands (by decide), by decide⟩, ⟨stands (by decide), by decide⟩⟩

/-- A machine whose last line is ENTERED. -/
def lastEntered (s : State) : State := { s with form := setInstValue (.cell 2 2) (.number 7) s.form }

/-- No edit is pending: nothing stands in the way of a completion. -/
theorem mayComplete_none {s : State} (h : s.key.edit = none) : mayComplete s := fun e he => by simp [h] at he

/-- An edit of a cell of column 2 of the small form whose buffer passes. -/
theorem mayComplete_cell {s : State} {l : Nat} {buf : Text} {v : Value} (h : s.key.edit = some ⟨.cell l 2, buf⟩)
    (hs : instShape s.form (.cell l 2) = some (shape 6 .number 0 true))
    (hb : checkBuffer (shape 6 .number 0 true) buf = .ok v) (hv : instValue s.form (.cell l 2) ≠ none) : mayComplete s := by
  intro e he
  cases h.symm.trans he
  exact ⟨_, v, hs, rfl, hb, hv⟩

/-- Off the window rows, with a pending edit that fails, and on a window row: LINE INSERT without and with a pending edit,
LINE DELETE on the first line, the second and, in a form without stops, the last. -/
theorem witness_LineKeysShiftLines :
    (keyRowOf .lineInsert = some .lineInsert ∧ KeyStands .lineInsert 0x90 [] (keyed 0x90 (at' 0 0 active)) ∧
      (keyed 0x90 (at' 0 0 active)).key.keyboard = .free ∧ cursorLine (keyed 0x90 (at' 0 0 active)) = none) ∧
    (let s := keyed 0x91 (editing (.cell 1 2) [minus] (at' 2 10 active))
     (keyRowOf .lineDelete = some .lineDelete ∧ KeyStands .lineDelete 0x91 [] s) ∧ s.key.keyboard = .free ∧
      cursorLine s ≠ none ∧ s.key.edit = some ⟨.cell 1 2, [minus]⟩ ∧
      instShape s.form (.cell 1 2) = some (shape 6 .number 0 true) ∧
      (match checkBuffer (shape 6 .number 0 true) [minus] with | .error .notValidHere => true | _ => false) = true) ∧
    (let s := keyed 0x90 (lastEntered (at' 2 10 active))
     (KeyStands .lineInsert 0x90 [] s ∧ CursorSound s ∧ mayComplete s) ∧ s.key.keyboard = .free ∧ cursorLine s = some 1 ∧
      s.key.edit = none ∧ lineEnteredAt s.form (s.form.d - 1) = true) ∧
    (let s := keyed 0x90 (editing (.cell 1 2) [0x37] (at' 2 10 active))
     (KeyStands .lineInsert 0x90 [] s ∧ CursorSound s ∧ mayComplete s) ∧ s.key.keyboard = .free ∧ cursorLine s = some 1 ∧
      findCol s.form 2 = some ⟨2, 10, shape 6 .number 0 true, 0, 0⟩ ∧ storesOwn .number = true ∧
      lineEnteredAt s.form (s.form.d - 1) = false ∧ (stopCols s.form).head? = some 0) ∧
    (let s := keyed 0x90 (at' 2 10 active)
     (KeyStands .lineInsert 0x90 [] s ∧ CursorSound s) ∧ s.key.keyboard = .free ∧ cursorLine s = some 1 ∧
      s.key.edit = none ∧ lineEnteredAt s.form (s.form.d - 1) = false) ∧
    (let s := keyed 0x91 (at' 1 10 active)
     (KeyStands .lineDelete 0x91 [] s ∧ CursorSound s ∧ mayComplete s) ∧ s.key.keyboard = .free ∧ cursorLine s = some 0 ∧
      (0 + 1 < s.form.d ∧ s.form.lines[0 + 1]?.isSome = true) ∧ ¬(2 + 1 < s.form.d)) ∧
    (let s := keyed 0x91 { at' 2 10 active with
       cur := ⟨2, 10, 1⟩
       form := { active.form with cols := [⟨3, 20, shape 6 .ordinal 0 false, 0, 0⟩] } }
     (KeyStands .lineDelete 0x91 [] s ∧ CursorSound s ∧ mayComplete s) ∧ s.key.keyboard = .free ∧ cursorLine s = some 2 ∧
      stopCols s.form = []) :=
  ⟨⟨rfl, stands (by decide), by decide⟩, ⟨⟨rfl, stands (by decide)⟩, by decide⟩,
    ⟨⟨stands (by decide), ⟨by decide, by decide, by decide, by decide, by decide, by decide⟩, mayComplete_none rfl⟩,
      by decide⟩,
    ⟨⟨stands (by decide), ⟨by decide, by decide, by decide, by decide, by decide, by decide⟩,
      mayComplete_cell rfl rfl rfl (by decide)⟩, by decide⟩,
    ⟨⟨stands (by decide), by decide, by decide, by decide, by decide, by decide, by decide⟩, by decide⟩,
    ⟨⟨stands (by decide), ⟨by decide, by decide, by decide, by decide, by decide, by decide⟩, mayComplete_none rfl⟩,
      by decide⟩,
    ⟨⟨stands (by decide), ⟨by decide, by decide, by decide, by decide, by decide, by decide⟩, mayComplete_none rfl⟩,
      by decide⟩⟩

/-- `active` with its mandatory field filled, a mandatory first column, line `l` ENTERED and the window top at `top`. -/
def unfinished (l top : Nat) : State :=
  { active with
    cur := { active.cur with top := top }
    form := setInstValue (.cell l 2) (.number 7) (setInstValue (.field 1) (.text [0x41]) { active.form with
      cols := [⟨1, 0, { shape 3 .text 0 false with opts := { plain with mandatory := true } }, 0, 0⟩,
        ⟨2, 10, shape 6 .number 0 true, 0, 0⟩] }) }

/-- SEND with nothing to object to, with a pending edit that passes and one that fails; a signal key without and with a
pending edit; an offender in the header, on a visible line, below the window and above it. -/
theorem witness_SendAndSignalBeginAssembly :
    (let s := keyed 0x93 { active with form := setInstValue (.field 1) (.text [0x41]) active.form }
     (KeyStands .send 0x93 [] s ∧ mayComplete s) ∧ s.key.keyboard = .free ∧ s.key.edit = none ∧ offender s.form = none) ∧
    (let s := keyed 0x93 (editing (.cell 1 2) [0x37] (at' 2 10 active))
     (KeyStands .send 0x93 [] s ∧ mayComplete s) ∧ s.key.keyboard = .free ∧ s.key.edit ≠ none) ∧
    (let s := keyed 0x93 (editing (.cell 1 2) [minus] (at' 2 10 active))
     KeyStands .send 0x93 [] s ∧ s.key.keyboard = .free ∧ s.key.edit = some ⟨.cell 1 2, [minus]⟩ ∧
      instShape s.form (.cell 1 2) = some (shape 6 .number 0 true) ∧
      (match checkBuffer (shape 6 .number 0 true) [minus] with | .error .notValidHere => true | _ => false) = true) ∧
    (KeyStands .signal 0xC1 [] (keyed 0xC1 active) ∧ (keyed 0xC1 active).key.edit = none) ∧
    (let s := keyed 0xCC (editing (.cell 1 2) [minus] (at' 2 10 active))
     KeyStands .signal 0xCC [] s ∧ s.key.keyboard = .free ∧ s.key.edit ≠ none) ∧
    (let s := keyed 0x93 active
     (KeyStands .send 0x93 [] s ∧ mayComplete s) ∧ s.key.edit = none ∧ offender s.form = some (.field 1) ∧
      (findField s.form 1).isSome = true) ∧
    (let s := keyed 0x93 (unfinished 1 0)
     (KeyStands .send 0x93 [] s ∧ mayComplete s) ∧ offender s.form = some (.cell 1 1) ∧ (findCol s.form 1).isSome = true ∧
      s.cur.top ≤ 1 ∧ 1 < s.cur.top + s.form.w) ∧
    (let s := keyed 0x93 (unfinished 2 0)
     (KeyStands .send 0x93 [] s ∧ mayComplete s) ∧ offender s.form = some (.cell 2 1) ∧ s.cur.top + s.form.w ≤ 2) ∧
    (let s := keyed 0x93 (unfinished 0 1)
     (KeyStands .send 0x93 [] s ∧ mayComplete s) ∧ offender s.form = some (.cell 0 1) ∧ 0 < s.cur.top) :=
  ⟨⟨⟨stands (by decide), mayComplete_none rfl⟩, by decide⟩,
    ⟨⟨stands (by decide), mayComplete_cell rfl rfl rfl (by decide)⟩, by decide⟩,
    ⟨stands (by decide), by decide⟩, ⟨stands (by decide), by decide⟩, ⟨stands (by decide), by decide⟩,
    ⟨⟨stands (by decide), mayComplete_none rfl⟩, by decide⟩, ⟨⟨stands (by decide), mayComplete_none rfl⟩, by decide⟩,
    ⟨⟨stands (by decide), mayComplete_none rfl⟩, by decide⟩, ⟨⟨stands (by decide), mayComplete_none rfl⟩, by decide⟩⟩

/-- The instances examined in `unfinished 1 0`: the mandatory field is filled, the mandatory cell of line 1 is not. -/
theorem witness_SendAndSignalBeginAssembly_order :
    let empty (i : Inst) := valueAbsent ((instValue (unfinished 1 0).form i).getD .absent)
    [Inst.field 1, .cell 1 1] = [.field 1] ++ .cell 1 1 :: [] ∧ (∀ x ∈ [Inst.field 1], empty x = false) ∧
    empty (.cell 1 1) = true ∧ lineEnteredAt (unfinished 1 0).form 1 = true ∧
    lineEnteredAt (unfinished 1 0).form 0 = false := by decide

theorem witness_AssemblyBuildsBlock :
    (let s := { sent with send := ⟨.assembling, some ⟨0x93, 0, 0, none⟩, [], 0⟩ }
     s.send.state = .assembling ∧ (sendBlock s.form ⟨0x93, 0, 0, none⟩).length ≤ 2048) ∧ (0xC1 : Byte) ≠ 0x93 := by decide

/-- The entry columns of the small form in column-number order. -/
theorem witness_AssemblyBuildsBlock_columns :
    let cols : List ColumnDef := [⟨1, 0, shape 3 .text 0 false, 0, 0⟩, ⟨2, 10, shape 6 .number 0 true, 0, 0⟩]
    cols.Pairwise (fun a b => a.number < b.number) ∧
    ∀ cd, cd ∈ cols ↔ findCol active.form cd.number = some cd ∧ isEntryKind cd.shape.kind = true ∧ cd.number ≤ 12 := by
  refine ⟨by decide, fun cd => ⟨fun h => ?_, fun h => ?_⟩⟩
  · simp only [List.mem_cons, List.not_mem_nil, or_false] at h
    rcases h with rfl | rfl <;> decide
  · have hm : cd ∈ active.form.cols := List.mem_of_find?_eq_some h.1
    have hk := h.2.1
    simp only [show active.form.cols = smallForm.cols from rfl, smallForm, List.mem_cons, List.not_mem_nil, or_false] at hm
    rcases hm with rfl | rfl | rfl | rfl
    · simp
    · simp
    · exact absurd hk (by decide)
    · exact absurd hk (by decide)

/-- A block past 2048 bytes: 48 modified lines of one TEXT column of 44 characters, each filled. -/
theorem witness_AssemblyBuildsBlock_tooLarge :
    2048 < (sendBlock { openedForm 0 1 48 with
      state := .active, cols := [⟨1, 0, shape 44 .text 0 false, 0, 0⟩]
      lines := List.replicate 48 ⟨[⟨1, .text (List.replicate 44 0x41), true⟩], true⟩ } ⟨0x93, 0, 0, some 0⟩).length := by
  decide +kernel

/-- `active` with an item being rendered. -/
def rendering (it : Item) (is : List Item) : State :=
  { active with comp := { active.comp with items := it :: is, rendering := true, remark := true } }

theorem rendering_memories (it : Item) (is : List Item) : MemoriesSound (rendering it is) := ⟨rfl, rfl, rfl, rfl, rfl, rfl, rfl⟩

theorem witness_RenderDrawsHeadItem :
    (∀ it, MemoriesSound (rendering it [.clear]) ∧ (rendering it [.clear]).comp.items = it :: [.clear] ∧
      (rendering it [.clear]).comp.rendering = true ∧ recordsOnScreen (rendering it [.clear]).form = true) ∧
    (0 < 24 ∧ ¬(active.form.h ≤ 0 ∧ 0 < active.form.h + active.form.w) ∧
      (∀ fd ∈ active.form.fields, ¬(fd.row = 0 ∧ fd.col ≤ 79 ∧ 79 < fd.col + fd.shape.length)) ∧
      (∃ fd ∈ active.form.fields, fd.row = 20 ∧ fd.col ≤ 17 ∧ 17 < fd.col + fd.shape.length)) ∧
    ((findField active.form 4).isSome = true ∧ findField active.form 5 = none) ∧
    (lineAt active.form 0 2 = some 1 ∧ lineAt active.form 0 3 = none ∧
      (∀ cd ∈ active.form.cols, ¬(cd.col ≤ 79 ∧ 79 < cd.col + cd.shape.length)) ∧
      (let cd : ColumnDef := ⟨4, 30, shape 3 .ordinal 0 false, 0, 0⟩
       cd ∈ active.form.cols ∧ (cd.col ≤ 32 ∧ 32 < cd.col + cd.shape.length) ∧
        ∀ g ∈ active.form.cols, g.col ≤ 32 ∧ 32 < g.col + g.shape.length → g = cd)) :=
  ⟨fun it => ⟨rendering_memories it _, rfl, rfl, rfl⟩, by decide, by decide, by decide⟩

/-- STATUS rendered in every keyboard state, with every error as the last one, on the window rows and off them. -/
theorem witness_RenderDrawsHeadItem_status (k : Keyboard) (e : Option ErrorRec) (m : Bool) :
    let s (r : Nat) : State := { rendering .status [] with
      key := { active.key with keyboard := k, lastError := e, insertMode := m }, cur := ⟨r, 0, 1⟩ }
    (∀ r, MemoriesSound (s r) ∧ (s r).comp.items = .status :: [] ∧ (s r).comp.rendering = true ∧
      (s r).form.state = .active ∧ (s r).form.d = 3) ∧
    lineAt (s 1).form (s 1).cur.top (s 1).cur.row = some 1 ∧ lineAt (s 2).form (s 2).cur.top (s 2).cur.row = some 2 ∧
    lineAt (s 0).form (s 0).cur.top (s 0).cur.row = none ∧ lineAt (s 3).form (s 3).cur.top (s 3).cur.row = none :=
  ⟨fun _ => ⟨⟨rfl, rfl, rfl, rfl, rfl, rfl, rfl⟩, rfl, rfl, rfl, rfl⟩, rfl, rfl, rfl, rfl⟩

theorem witness_ReceiverTakesCharacters :
    (ready.tp.phase = .ready ∧ ready.line.rxOpen = true ∧ ready.line.breakHold = false ∧ ready.line.loopback = false ∧
      ready.line.tx ≠ .send) ∧
    (let s := lined (fun l => { l with loopback := true, tx := .send, frame := some ⟨31, 5, .retract, [1]⟩, looped := 5 })
     s.tp.phase = .ready ∧ s.line.rxOpen = true ∧ s.line.loopback = true ∧ s.line.tx = .send ∧
      (frameChars ⟨31, 5, .retract, [1]⟩)[s.line.looped]? = some (215, false)) ∧
    ((lined (fun l => { l with loopback := true })).line.loopback = true ∧
      (lined (fun l => { l with loopback := true })).line.tx ≠ .send) ∧
    (List.replicate 15 (⟨0, false, false, false⟩ : RxChar)).length < 16 ∧
    16 ≤ (List.replicate 16 (⟨0, false, false, false⟩ : RxChar)).length := by decide

theorem witness_LineEventsAct :
    (ready.tp.phase = .ready ∧ ready.line.rxOpen = true ∧ ready.line.breakHold = false ∧ ready.line.loopback = false ∧
      ready.line.tx ≠ .send ∧ ready.line.sampling = false ∧ ready.line.joined = false) ∧
    (lined (fun l => { l with breakHold := true })).line.breakHold = true ∧
    (lined (fun l => { l with rxOpen := false })).line.rxOpen = false ∧
    (let s := lined (fun l => { l with gapRunning := true, rxState := .accept })
     s.line.gapRunning = true ∧ s.line.rxState = .accept ∧ s.line.fifo = []) ∧
    (lined (fun l => { l with gapRunning := true })).line.rxState ≠ .accept := by decide

theorem witness_SentFrameIsReceived :
    (let l := ready.line
     let f : Frame := ⟨31, 29, .banner, List.replicate 40 0x41⟩
     l.rxState = .hunt ∧ l.loopback = false ∧ f.source.toNat < 30 ∧ f.source.toNat ≠ l.station.toNat ∧
      lengthLegal f.kind f.payload.length = true ∧ destLegal f.kind f.dest = true ∧ acceptsHead l f.dest = true) ∧
    (let s := lined (fun l => { l with fifo := [⟨31, true, false, false⟩] })
     s.line.fifo = ⟨31, true, false, false⟩ :: [] ∧ s.line.handoff = none) ∧
    ((frameChars ⟨31, 4, .greet, []⟩)[4]? = some (220, false) ∧ (frameBits ⟨31, 4, .greet, []⟩)[54]? = some true ∧
      (lined (fun l => { l with tx := .send })).line.tx = .send ∧ ready.line.tx ≠ .send) := by decide

/-- A character of no mark, framing or late flag. -/
def plainRx (b : Byte) : RxChar := ⟨b, false, false, false⟩

/-- Station 5 in ACCEPT with a buffer. -/
def accepting (buf : List Byte) : DeskLineUnit := { ready.line with rxState := .accept, buffer := buf }

/-- The heads that station 5 accepts and one that it does not; a late character, a framing flag, a head, and a character
before the length, as the length, above 72, before the check character, as a wrong check and as a right one. -/
theorem witness_SentFrameIsReceived_accept :
    (ready.line.rxState ≠ .accept ∧ ready.line.station.toNat = 5 ∧ ({ ready.line with rxState := .skip } : DeskLineUnit).rxState ≠
      .accept ∧ (31 : Byte).toNat = 31 ∧ (5 : Byte).toNat = ready.line.station.toNat ∧ (4 : Byte).toNat ≠ 31) ∧
    ((accepting []).rxState = .accept ∧ (⟨0, true, true, true⟩ : RxChar).late = true ∧
      (⟨0, true, true, false⟩ : RxChar).late = false ∧ (⟨0, true, false, false⟩ : RxChar).framing = false) ∧
    (([31, 4] ++ [1] : List Byte).length < 4 ∧ ([31, 4, 4] ++ [72] : List Byte).length = 4 ∧ (72 : Byte).toNat ≤ 72 ∧
      72 < (73 : Byte).toNat) ∧
    (let bs : List Byte := [31, 4, 1, 0] ++ [219]
     bs.length = 5 + (bs.getD 3 0).toNat ∧ (bs.map (·.toNat)).sum % 256 ≠ 0) ∧
    (let bs : List Byte := [31, 4, 3, 1] ++ [8]
     4 < bs.length ∧ bs.length ≠ 5 + (bs.getD 3 0).toNat) ∧
    (let bs : List Byte := [31, 4, 1, 0] ++ [220]
     bs = 31 :: 4 :: 1 :: 0 :: [220] ∧ bs.length = 5 + (bs.getD 3 0).toNat ∧ (bs.map (·.toNat)).sum % 256 = 0) := by decide

/-- The validation of a complete frame at station 5: source 30, its own number, an unknown kind, a length and a destination
that do not fit, a frame that is kept, and in loopback one that is not and one that is. -/
theorem witness_SentFrameIsReceived_validate :
    (∀ bs ∈ ([[31, 30, 1, 0, 194], [31, 5, 1, 0, 219], [31, 4, 8, 0, 213], [31, 4, 3, 0, 218], [4, 4, 1, 0, 247],
        [31, 29, 1, 0, 195]] : List (List Byte)),
      bs.length = 5 + (bs.getD 3 0).toNat ∧ (bs.map (·.toNat)).sum % 256 = 0) ∧
    30 ≤ (30 : Byte).toNat ∧ (29 : Byte).toNat < 30 ∧ (5 : Byte).toNat = (accepting []).station.toNat ∧
    (4 : Byte).toNat ≠ (accepting []).station.toNat ∧ frameKindOf 8 = none ∧ frameKindOf 3 = some .retract ∧
    lengthLegal .retract 0 = false ∧ frameKindOf 1 = some .greet ∧ lengthLegal .greet 0 = true ∧
    destLegal .greet 4 = false ∧ destLegal .greet 31 = true ∧ (accepting []).loopback = false ∧
    ({ accepting [] with loopback := true } : DeskLineUnit).loopback = true ∧ FrameKind.greet ≠ .pass ∧
    FrameKind.greet ≠ .banner ∧ frameKindOf 4 = some .banner ∧ lengthLegal .banner 40 = true := by decide

/-- A whole frame that station 5 skips, from HUNT and from SKIP, and one that comes round in loopback. -/
theorem witness_SentFrameIsReceived_whole :
    ready.line.rxState = .hunt ∧ ({ ready.line with rxState := .skip } : DeskLineUnit).rxState = .skip ∧
    acceptsHead ready.line 4 = false ∧ acceptsHead ready.line 31 = true ∧
    (let f : Frame := ⟨5, 5, .pass, [0x41]⟩
     let l := { ready.line with loopback := true }
     acceptsHead l f.dest = true ∧ l.loopback = true ∧ f.source.toNat < 30 ∧
      lengthLegal f.kind f.payload.length = true ∧ destLegal f.kind f.dest = true) := by decide

/-- 08, R148: a frame whose check character is one too small is discarded with CHECK, and the receiver is in HUNT. -/
theorem test_wrong_check : (assemble (plainRx 219) (accepting [31, 4, 1, 0])).flags.check = true ∧
    (assemble (plainRx 219) (accepting [31, 4, 1, 0])).rxState = .hunt ∧
    (assemble (plainRx 219) (accepting [31, 4, 1, 0])).handoff = none := by decide

/-- `ready` with the transmitter in a state, the announcement of tag 1 selected and taken. -/
def txIn (tx : TxState) (attempts : Nat) : State :=
  { lined (fun l => { l with
      tx := tx, selection := some (.tag 1), taken := true, attempts := attempts
      frame := some ⟨31, 5, .retract, [1]⟩ }) with
    desk := { ready.desk with tallies := [(1, .retract)] } }

theorem witness_TransmitterSendsAndRetires :
    (let s := txIn .defer 0
     s.tp.phase = .ready ∧ s.line.breakHold = false ∧ s.line.sampling = false ∧ s.line.tx = .defer ∧
      s.line.rxState ≠ .accept ∧ s.line.selection = some (.tag 1) ∧
      supply s.desk (ownNumber s.line) (.tag 1) = some ⟨31, 5, .retract, [1]⟩) ∧
    (let s := txIn .send 4
     s.line.tx = .send ∧ s.line.held = none ∧ s.line.selection = some (.tag 1) ∧ s.line.loopback = false ∧
      s.line.attempts < 5) ∧
    (let s := txIn .send 5
     s.line.tx = .send ∧ 5 ≤ s.line.attempts ∧ s.line.frame = some ⟨31, 5, .retract, [1]⟩) ∧
    (let l (n : Nat) := { (txIn .send 0).line with loopback := true, looped := n }
     (l 5).tx = .send ∧ (l 5).loopback = true ∧ (l 5).rxOpen = true ∧ (l 5).frame = some ⟨31, 5, .retract, [1]⟩ ∧
      (frameChars ⟨31, 5, .retract, [1]⟩)[(l 5).looped]? = some (215, false) ∧
      (frameChars ⟨31, 5, .retract, [1]⟩).length ≤ (l 6).looped) ∧
    ((txIn .backoff 1).line.tx = .backoff ∧ (txIn .backoff 1).line.breakHold = false) ∧
    ((txIn .yield 0).line.tx = .yield ∧ (txIn .yield 0).line.sampling = false) := by decide

/-- A receiver in ACCEPT at the entry to SEND, in normal mode and in loopback, and a held change of link mode at the end of
SEND: a frame sent, a collision and the sixth one. -/
theorem witness_TransmitterSendsAndRetires_modes :
    (let s (on : Bool) : State := { txIn .defer 0 with line := { (txIn .defer 0).line with
       rxState := .accept, buffer := [31], loopback := on } }
     (∀ on, (s on).tp.phase = .ready ∧ (s on).line.breakHold = false ∧ (s on).line.sampling = false ∧
      (s on).line.tx = .defer ∧ (s on).line.rxState = .accept ∧ (s on).line.selection = some (.tag 1) ∧
      supply (s on).desk (ownNumber (s on).line) (.tag 1) = some ⟨31, 5, .retract, [1]⟩) ∧
      (s true).line.loopback = true ∧ (s false).line.loopback = false) ∧
    (∀ n ∈ [0, 4, 5], ({ (txIn .send n).line with held := some true } : DeskLineUnit).tx = .send ∧
      (txIn .send n).line.loopback = false ∧ (txIn .send n).line.selection = some (.tag 1) ∧
      (txIn .send n).line.frame = some ⟨31, 5, .retract, [1]⟩) ∧
    (∀ n ∈ [0, 4], (txIn .send n).line.attempts < 5) := by decide

theorem handed_memories (f : Frame) : MemoriesSound (handed f) := by
  constructor
  · exact active_memories.image
  · exact active_memories.screenPlane
  · exact active_memories.linePlane
  · exact active_memories.table
  · exact active_memories.active
  · exact active_memories.tallies
  · exact active_memories.paused

/-- The payload of a TALLY of tag 8 with the value 0. -/
def tallyPayload : List Byte := 8 :: 0 :: List.replicate 10 0

theorem witness_ContributionFramesChangeTable :
    (MemoriesSound (handed ⟨31, 29, .greet, []⟩) ∧ (handed ⟨31, 29, .greet, []⟩).tp.phase = .ready ∧
      (handed ⟨31, 29, .greet, []⟩).line.handoff = some ⟨31, 29, .greet, []⟩ ∧ (29 : Byte).toNat < 30) ∧
    (MemoriesSound (handed ⟨31, 0, .tally, tallyPayload⟩) ∧ tallyOf tallyPayload = some (8, .value 0) ∧
      tallyOf (9 :: 0 :: List.replicate 10 0) = none) ∧
    (MemoriesSound (handed ⟨31, 4, .retract, [8]⟩) ∧ (1 ≤ (8 : Byte).toNat ∧ (8 : Byte).toNat ≤ 8) ∧ 8 < (9 : Byte).toNat) :=
  ⟨⟨handed_memories _, by decide⟩, ⟨handed_memories _, by decide⟩, ⟨handed_memories _, by decide⟩⟩

/-- `handed` with records of 66 bytes already in the inbound queue. -/
def queued (n : Nat) : State :=
  { handed ⟨5, 4, .pass, List.replicate 64 0x41⟩ with
    desk := { active.desk with inbound := List.replicate n ⟨4, List.replicate 64 0x41⟩ } }

theorem queued_memories (n : Nat) : MemoriesSound (queued n) := ⟨rfl, rfl, rfl, rfl, rfl, rfl, rfl⟩

theorem witness_MessageFramesAreDelivered :
    (MemoriesSound (handed ⟨31, 4, .banner, []⟩) ∧ (handed ⟨31, 4, .banner, []⟩).tp.phase = .ready) ∧
    (MemoriesSound (queued 7) ∧ (queued 7).tp.phase = .ready ∧
      512 < inboundFill (queued 7).desk + (2 + (List.replicate 64 (0x41 : Byte)).length)) ∧
    (MemoriesSound (queued 4) ∧ inboundFill (queued 4).desk + (2 + (List.replicate 64 (0x41 : Byte)).length) < 384) ∧
    (MemoriesSound (queued 6) ∧ inboundFill (queued 6).desk + (2 + (List.replicate 64 (0x41 : Byte)).length) ≤ 512 ∧
      384 ≤ inboundFill (queued 6).desk + (2 + (List.replicate 64 (0x41 : Byte)).length) ∧
      (queued 6).desk.pauseSent = false) :=
  ⟨⟨handed_memories _, by decide⟩, ⟨queued_memories 7, by decide⟩, ⟨queued_memories 4, by decide⟩,
    ⟨queued_memories 6, by decide⟩⟩

theorem witness_MessageOrdersQueueAndTake :
    ready.tp.phase = .ready ∧ (lined (fun l => { l with listenOnly := true })).line.listenOnly = true ∧
    ready.line.listenOnly = false ∧ 30 ≤ (30 : Byte).toNat ∧ (29 : Byte).toNat < 30 ∧
    64 < (List.replicate 65 (0x41 : Byte)).length ∧
    (1 ≤ (List.replicate 64 (0x41 : Byte)).length ∧ (List.replicate 64 (0x41 : Byte)).length ≤ 64) ∧
    6 ≤ (List.replicate 6 (OutMsg.banner [])).length ∧ ready.desk.messages.length < 6 ∧
    (List.replicate 40 (0x41 : Byte)).length ≤ 40 ∧ ready.desk.inbound = [] := by decide

theorem witness_DeskReadReports :
    ready.tp.phase = .ready ∧ (1 ≤ (8 : Byte).toNat ∧ (8 : Byte).toNat ≤ 8) ∧ 8 < (9 : Byte).toNat := by decide

/-- `active` with every limit of the desk tick one tick ahead. -/
def lastTick : State :=
  { active with desk := { active.desk with
      table := [(32 * 8 + 29, ⟨.value 1, 29⟩)], refresh := 7, paused := [(29, 1)], banner := some ⟨[0x41], 59⟩ } }

theorem witness_DeskTickAgesAndRefreshes :
    (MemoriesSound lastTick ∧ lastTick.tp.phase = .ready) ∧
    (1 ≤ 8 ∧ 29 < 30 ∧ assocGet lastTick.desk.table (32 * 8 + 29) = some ⟨.value 1, 29⟩) ∧ lastTick.desk.refresh = 7 ∧
    assocGet lastTick.desk.paused 29 = some 1 ∧ lastTick.desk.banner = some ⟨[0x41], 59⟩ ∧
    (lastTick.form.state = .active ∧ (findField lastTick.form 4).map (·.shape.kind) = some .deskSum ∧
      instValue lastTick.form (.field 4) = some (.number 0)) ∧
    (findField lastTick.form 2).map (·.shape.kind) = some .columnSum ∧ ready.form.state ≠ .active :=
  ⟨⟨⟨by decide, by decide, by decide, by decide, by decide, by decide, by decide⟩, by decide⟩, by decide⟩

theorem witness_RoundingIsHalfAwayFromZero : (1 : Nat) ≤ 4 ∧ (0 : Int) ≤ 5 ∧
    2 * ((5 : Int) - roundDiv 5 1 * (10 : Int)).natAbs = 10 := by decide

theorem witness_CanonicalTextParsesBack :
    (shape 15 .number 4 true).kind = .number ∧ shapeLegal (shape 15 .number 4 true) = true ∧
    (-9999999999999 : Int).natAbs < 10 ^ capacity (shape 15 .number 4 true) ∧ (shape 15 .number 4 true).signed = true := by
  decide

theorem witness_ShareFieldCarriesValue :
    (-(10 ^ 20 - 1) : Int).natAbs < 10 ^ 20 ∧ 10 ^ 20 ≤ (-(10 ^ 20) : Int).natAbs := by decide

theorem witness_OrderFramesDecode :
    wellFormed (.reject 99 2 47 12 [0x41]) = true ∧
    frameOf (.reject 99 2 47 12 [0x41]) = some [0x53, 99, 2, 47, 12, 0x41] := by decide

/-- Bits of a byte part-clocked, after no byte, after a known and after an unknown order code; codes with and without
arguments; the first and the last bit that SDO drives in a frame of STATUS READ. -/
theorem witness_OrderFramesDecode_pins :
    (0 < [true].length ∧ [true].length < 8 ∧ (List.replicate 7 true).length < 8) ∧
    argCount 0x10 = none ∧ argCount 0x34 = some 1 ∧ argCount 0x41 = some 0 ∧
    (frameOf (.statusRead 4) = some [0x11, 0, 0, 0, 0] ∧ after (.statusRead 4) ready (fun t =>
      (t.tp.sdo.flatMap portBits)[0]? = some false ∧ (t.tp.sdo.flatMap portBits)[39]?.isSome = true ∧
      (t.tp.sdo.flatMap portBits)[40]? = none) = true) := by decide

/-- 10.1, R179: the order code 0x31 comes in most significant bit first, and its byte is whole at the eighth edge. -/
theorem test_port_byte :
    let bits := [false, false, true, true, false, false, false, true]
    bits.foldl clockBit openedFrame = ⟨[0x31], []⟩ ∧ frameDecoder (bits.foldl clockBit openedFrame) = .arguments ∧
    (bits.take 7).foldl clockBit openedFrame = ⟨[], bits.take 7⟩ ∧
    frameDecoder ((bits.take 7).foldl clockBit openedFrame) = .code := by decide

/-- R185, R196: SDO is low while the order code of STATUS READ is clocked, and high at the first edge of the first status
byte, whose bit 7 says READY; released with SELN high. -/
theorem test_sdo_level :
    sdoLevel (some openedFrame) ready = some false ∧ sdoLevel (some ⟨[0x11], []⟩) ready = some true ∧
    sdoLevel (some ⟨[0x11], [false]⟩) ready = some false ∧ sdoLevel none ready = none := by decide

/-- `active` with a command waiting. -/
def busy : State := { keyed 0x80 active with pending := [.tab, .deskTick] }

/-- A step of `busy` answers a next state: the hypothesis that the statements about every step share. -/
theorem busy_steps : ∃ t, step busy = .next t := ⟨_, rfl⟩

theorem witness_QueuesStayBounded : QueuesBounded busy :=
  ⟨by decide, by decide, by decide, by decide, by decide, by decide, by decide⟩

/-- A frame buffer that lacks its check character alone. -/
theorem witness_QueuesStayBounded_frame :
    let l := { ready.line with buffer := [31, 4, 4, 72] ++ List.replicate 72 0x41 }
    (l.buffer.getD 3 0).toNat ≤ maxLengthByte ∧ l.buffer.length < 5 + (l.buffer.getD 3 0).toNat := by decide

theorem witness_LockAndRepaintListStaySound : LockAgrees busy ∧ RepaintSound busy :=
  ⟨⟨by decide, by decide⟩, by decide, by decide, by decide⟩

/-- What the sums, products and shares of `busy` are: its PRODUCT names a NUMBER column twice, its COLUMN SUM and its one
DESK SUM of tag 1 name that column, and every value is there. -/
theorem witness_productsFollow :
    findCol busy.form 3 = some ⟨3, 20, shape 6 .product 0 true, 2, 2⟩ ∧
    findCol busy.form 2 = some ⟨2, 10, shape 6 .number 0 true, 0, 0⟩ ∧ instValue busy.form (.cell 2 3) = some .absent ∧
    (findField busy.form 2).map (·.shape.kind) = some .columnSum ∧ instValue busy.form (.field 2) = some (.number 0) ∧
    (findField busy.form 4).map (fun fd => (fd.shape.kind, fd.tag)) = some (.deskSum, 1) ∧
    assocGet busy.desk.active 1 = some (.value 0) ∧
    (∀ f ∈ busy.form.fields, ∀ g ∈ busy.form.fields, f.shape.kind = .deskSum → g.shape.kind = .deskSum → g = f) := by
  decide

theorem busy_records : RecordsSound busy where
  fields := by decide
  cols := by decide
  vals := by decide
  lines := by decide
  sums _ fd hm hk := by
    revert fd
    simp only [show busy.form.fields = smallForm.fields from rfl, smallForm, List.mem_cons, List.not_mem_nil, or_false]
    rintro fd (rfl | rfl | rfl | rfl) hk
    · cases hk
    · exact ⟨_, rfl, .inl rfl⟩
    · cases hk
    · exact ⟨_, rfl, .inl rfl⟩
  operands _ cd hm hk := by
    revert cd
    simp only [show busy.form.cols = smallForm.cols from rfl, smallForm, List.mem_cons, List.not_mem_nil, or_false]
    rintro cd (rfl | rfl | rfl | rfl) hk
    · cases hk
    · cases hk
    · exact ⟨_, _, rfl, rfl, rfl, rfl⟩
    · cases hk
  tags _ := ⟨by decide, fun t => by
    show (assocGet [(1, Share.value 0)] t).isSome = true ↔ t ∈ [1]
    simp only [assocGet]
    split <;> simp_all [eq_comm]⟩
  stream := nofun

theorem busy_reckoned : Reckoned busy where
  products _ l cd ca cb v hc hk ha _ hb _ hv := by
    have hm : cd ∈ busy.form.cols := List.mem_of_find?_eq_some hc
    simp only [show busy.form.cols = smallForm.cols from rfl, smallForm, List.mem_cons, List.not_mem_nil, or_false] at hm
    rcases hm with rfl | rfl | rfl | rfl
    · cases hk
    · cases hk
    · have h2 : (instValue busy.form (.cell l 2)).getD .absent = .absent := by
        match l with
        | 0 | 1 | 2 => rfl
        | n + 3 => rfl
      have h3 : v = .absent := by
        match l with
        | 0 | 1 | 2 => exact (Option.some.inj hv).symm
        | n + 3 => cases hv
      show isProduct _ _ _ ((instValue busy.form (.cell l 2)).getD .absent) ((instValue busy.form (.cell l 2)).getD .absent) v
      rw [h2, h3]
      exact productValue_isProduct _ _ _ .absent .absent
    · cases hk
  sums _ := by
    refine ⟨fun fd x hf hx => ?_, fun fd hm hk _ S hS => ?_⟩
    · have hm : fd ∈ busy.form.fields := List.mem_of_find?_eq_some hf
      simp only [show busy.form.fields = smallForm.fields from rfl, smallForm, List.mem_cons, List.not_mem_nil, or_false] at hm
      rcases hm with rfl | rfl | rfl | rfl
      · exact ⟨nofun, nofun⟩
      · cases hx
        exact ⟨fun _ => ⟨_, columnShare_columnTotal busy.form 2, rfl⟩, nofun⟩
      · exact ⟨nofun, nofun⟩
      · cases hx
        exact ⟨nofun, fun _ => ⟨_, deskTotal_deskTotalIs busy.desk 1, rfl⟩⟩
    · simp only [show busy.form.fields = smallForm.fields from rfl, smallForm, List.mem_cons, List.not_mem_nil, or_false] at hm
      rcases hm with rfl | rfl | rfl | rfl
      · cases hk
      · cases hk
      · cases hk
      · cases hS
        exact columnShare_columnTotal busy.form 2

theorem witness_ComputedValuesFollowInputs : RecordsSound busy ∧ Reckoned busy := ⟨busy_records, busy_reckoned⟩

/-- A CELL WRITE that changes the sums of `active`: 7 in line 1 makes product, column sum, local contribution and desk sum
(5.4, 5.5: at reckoning scale the part is 7 times 10 000). -/
theorem test_cell_write_reckons : after (.cellWrite 1 2 0 0 0 [0x37]) active (fun t =>
    instValue t.form (.cell 1 3) = some (.number 49) ∧ instValue t.form (.field 2) = some (.number 7) ∧
    assocGet t.desk.active 1 = some (.value 70000) ∧ instValue t.form (.field 4) = some (.number 7) ∧
    assocGet t.desk.tallies 1 = some .tally) = true := by decide

theorem witness_MemoriesStayCanonical : MemoriesSound busy :=
  ⟨by decide, by decide, by decide, by decide, by decide, by decide, by decide⟩

theorem witness_DeskTablesStaySound : StartSound busy ∧ DeskSound busy :=
  ⟨⟨by decide, by decide, by decide, by decide⟩, ⟨by decide, nofun, by decide, by decide, nofun, by decide⟩⟩

theorem witness_CursorAndWindowStayInRange : CursorSound busy :=
  ⟨by decide, by decide, by decide, by decide, by decide, by decide⟩

theorem witness_VideoReadoutPresentsScreen :
    (24 ≤ 24 ∧ 79 < 80 ∧ 1999 % 2000 = 80 * 24 + 79 ∧ 2000 % 2000 = 80 * 0 + 0) ∧
    (active.comp.displayOn = false ∧ ({ active.comp with displayOn := true } : Composer).displayOn = true) ∧
    ((0 : Nat) = active.cur.row ∧ (0 : Nat) = active.cur.col ∧ (24 : Nat) ≠ active.cur.row) ∧
    (MemoriesSound (rendering .status []) ∧ (rendering .status []).comp.rendering = true ∧
      (rendering .status []).comp.items = .status :: [] ∧ 80 * scanRow 1920 + scanCol 1920 ∈ [1920] ∧
      80 * scanRow 1921 + scanCol 1921 ∉ [1920]) :=
  ⟨by decide, by decide, by decide, rendering_memories _ _, by decide⟩

end Sys2Proof.Tests
end

/-! ## What the resets leave

Every reset puts every block at the values of its chapter; the straps and the port that it leaves vary (`resetTo`, R189).
Each relation of Safety.lean is shown of `resetTo`, so that it holds after power-on, RESETN and SOFT RESET alike. -/
namespace Sys2Proof.Proofs

open Machine

section Resets

variable (station : Station) (rate : Rate) (listenOnly : Bool) (tp : TpPort) (s : State)

/-- The state after reset is what a power-on leaves, whose RESETN is high. -/
theorem reset_eq_resetTo :
    State.reset = resetTo 0 0 false (TpPort.afterReset false false false true) State.reset := rfl

/-- R68, R131, R143, R170, R173: a reset empties every queue and buffer. -/
theorem queuesBounded_resetTo : QueuesBounded (resetTo station rate listenOnly tp s) where
  keys := Nat.zero_le _
  fifo := Nat.zero_le _
  buffer := .inl (Nat.zero_lt_succ 3)
  messages := Nat.zero_le _
  inbound := Nat.zero_le _
  block := Nat.zero_le _
  readPos := Nat.le_refl 0

/-- The keyboard is SYSTEM and the form EMPTY (R21, R90), and nothing is sent (R138). -/
theorem lockAgrees_resetTo : LockAgrees (resetTo station rate listenOnly tp s) where
  system := iff_of_true rfl nofun
  locked := iff_of_false nofun (absurd rfl)

/-- R121. -/
theorem repaintSound_resetTo : RepaintSound (resetTo station rate listenOnly tp s) where
  nodup := .nil
  rendering := iff_of_false nofun (absurd rfl)
  remark := nofun

/-- The one thing that a reset has to see to is that no clearing runs with RESETN low or the supply not steady; `sdo` is
what the frame of a SOFT RESET drove. -/
theorem startSound_resetTo {resetnLow supplySteady clearing awaitHigh : Bool} {sdo : List Byte}
    (hlow : resetnLow = true → clearing = false) (hsupply : supplySteady = false → clearing = false) :
    StartSound (resetTo station rate listenOnly
      { TpPort.afterReset resetnLow supplySteady clearing awaitHigh with sdo := sdo } s) where
  stream _ := rfl
  low h := ⟨rfl, hlow h⟩
  supply h := ⟨rfl, hsupply h⟩
  clearing _ := rfl

/-- Every memory is empty, which is canonical. -/
theorem memoriesSound_resetTo : MemoriesSound (resetTo station rate listenOnly tp s) :=
  ⟨rfl, rfl, rfl, rfl, rfl, rfl, rfl⟩

/-- R159, R178: the tables, the hand-off place and the banner are empty and the refresh counter is 0. -/
theorem deskSound_resetTo : DeskSound (resetTo station rate listenOnly tp s) where
  entries := rfl
  handoff := nofun
  refresh := show 0 < refreshPeriod by decide
  timers := rfl
  banner := nofun
  starting _ := ⟨rfl, rfl, rfl⟩

/-- The cursor is on row 0, column 0 with T = 0 (R66), and a form without rows and lines is a legal one (R21). -/
theorem cursorSound_resetTo : CursorSound (resetTo station rate listenOnly tp s) where
  geometry := rfl
  records := rfl
  row := show 0 < formRows by decide
  col := show 0 < screenCols by decide
  top := Nat.le_refl 0
  lines := nofun

/-- There are no records, the form is not ACTIVE and no stream is pointed. -/
theorem recordsSound_resetTo (hstream : tp.stream = none) : RecordsSound (resetTo station rate listenOnly tp s) where
  fields := .nil
  cols := .nil
  vals := nofun
  lines := nofun
  sums := nofun
  operands := nofun
  tags := nofun
  stream _ hst := nomatch hstream.symm.trans hst

/-- The form is not ACTIVE, so that no computed value is held to its rule. -/
theorem reckoned_resetTo : Reckoned (resetTo station rate listenOnly tp s) where
  products := nofun
  sums := nofun

/-- No cause is pending (R186): none of the edge causes, no block, no inbound message and no link flag. -/
theorem causePending_resetTo (hedge : tp.edge = EdgeCauses.clear) (k : Nat) :
    causePending (resetTo station rate listenOnly tp s) k = false := by
  have hedge : (resetTo station rate listenOnly tp s).tp.edge = EdgeCauses.clear := hedge
  simp only [causePending, hedge]
  split <;> rfl

/-- The enable set of R192 holds each of the seven causes (R194: bit k − 1 enables cause k). -/
theorem causeEnabled_of_enable_eq {t : State} (henable : t.tp.enable = 0x7F) {k : Nat} (hlo : 1 ≤ k) (hhi : k ≤ 7) :
    causeEnabled t k = true := by
  have hbits : ∀ j < 7, (0x7F : Byte).getLsbD j = true := by decide
  rw [causeEnabled, henable]
  exact hbits (k - 1) (by omega)

/-- ATTN is high while no cause is pending (R188). -/
theorem attn_of_none_pending {t : State} (h : ∀ k, causePending t k = false) : attn t = true := by
  simp [attn, h]

/-- Whatever levels a reset finds and whatever its frame drove on SDO, every block stands as its chapter says. -/
theorem blocksReset_resetTo (resetnLow supplySteady clearing awaitHigh : Bool) (sdo : List Byte) :
    BlocksReset (resetTo station rate listenOnly
      { TpPort.afterReset resetnLow supplySteady clearing awaitHigh with sdo := sdo } s) where
  form := ⟨rfl, rfl, rfl, rfl, rfl⟩
  tables := ⟨rfl, rfl, rfl, rfl⟩
  planes _ := ⟨rfl, rfl⟩
  cursor := ⟨rfl, rfl, rfl⟩
  keys := ⟨rfl, rfl, rfl, rfl, rfl, rfl, rfl⟩
  image _ _ := rfl
  composer := ⟨rfl, rfl, rfl, rfl, rfl⟩
  send := ⟨rfl, rfl, rfl, rfl⟩
  receiver := ⟨rfl, rfl, rfl, rfl, rfl⟩
  transmitter := ⟨rfl, rfl, rfl, rfl⟩
  link := ⟨rfl, rfl, rfl, rfl⟩
  shares := ⟨rfl, rfl, rfl⟩
  slot := ⟨rfl, rfl⟩
  messages := ⟨rfl, rfl, rfl, rfl⟩
  stations := ⟨rfl, rfl, rfl⟩
  port := ⟨rfl, rfl, rfl, rfl⟩
  causes :=
    have pending := causePending_resetTo station rate listenOnly _ s rfl
    ⟨pending, fun _ => causeEnabled_of_enable_eq rfl, attn_of_none_pending pending⟩

end Resets

/-- Settles O3: the state after reset is one that `resetTo` gives, with no clearing begun and no stream pointed. -/
theorem resetIsSound : Obligations.ResetIsSound := by
  unfold Obligations.ResetIsSound
  rw [reset_eq_resetTo]
  exact ⟨queuesBounded_resetTo .., lockAgrees_resetTo .., repaintSound_resetTo ..,
    startSound_resetTo _ _ _ _ (fun _ => rfl) (fun _ => rfl), memoriesSound_resetTo .., deskSound_resetTo ..,
    cursorSound_resetTo .., blocksReset_resetTo .., recordsSound_resetTo _ _ _ _ _ rfl, reckoned_resetTo ..⟩

end Sys2Proof.Proofs

/-! ## The frame of an order

What an order's own rule reads and what its frame leaves, for the orders of chapter 2. -/
namespace Sys2Proof.Proofs

open Machine

section Frame

/-- The machine that an order's own rule reads: the frame of `k` bytes closed and the stream ended (R41, R180). -/
def inFrame (k : Nat) (s : State) : State := endStream (closeFrame (zeros k) s)

variable (k : Nat) (s : State)

@[simp] theorem inFrame_form : (inFrame k s).form = s.form := rfl
@[simp] theorem inFrame_cur : (inFrame k s).cur = s.cur := rfl
@[simp] theorem inFrame_key : (inFrame k s).key = s.key := rfl
@[simp] theorem inFrame_comp : (inFrame k s).comp = s.comp := rfl
@[simp] theorem inFrame_send : (inFrame k s).send = s.send := rfl
@[simp] theorem inFrame_line : (inFrame k s).line = s.line := rfl
@[simp] theorem inFrame_desk : (inFrame k s).desk = s.desk := rfl

theorem record_inFrame (o : OrderOutcome) : record o (inFrame k s) = framed o (List.replicate k 0) s := rfl

variable {k s} {n : Nat} {body : State → Verdict}

/-- An order in READY that its rule takes, its frame counted from the order code on. -/
theorem order_taken {t : State} (hk : 1 + n = k) (hp : s.tp.phase = .ready) (hb : body (inFrame k s) = .ok t) :
    runOrder n body s = .next (settle (record .done t)) := by
  subst hk
  exact runOrder_ok hp hb rfl

/-- An order in READY that its rule refuses. -/
theorem order_refused {o : OrderOutcome} (hk : 1 + n = k) (hp : s.tp.phase = .ready)
    (hb : body (inFrame k s) = .error o) : runOrder n body s = .next (framed o (List.replicate k 0) s) := by
  subst hk
  exact runOrder_error hp hb rfl

end Frame

end Sys2Proof.Proofs

/-! ## Records and labels of a form -/
namespace Sys2Proof.Proofs

open Machine

section Records

variable {f : FormStore} {s : State} {n : Nat}

theorem findField_eq_none : findField f n = none ↔ ∀ g ∈ f.fields, g.number ≠ n := by
  simp [findField]

theorem findCol_eq_none : findCol f n = none ↔ ∀ g ∈ f.cols, g.number ≠ n := by
  simp [findCol]

theorem findField_isSome : (∃ g ∈ f.fields, g.number = n) ↔ ¬findField f n = none := by
  simp [findField_eq_none]

theorem findCol_isSome : (∃ g ∈ f.cols, g.number = n) ↔ ¬findCol f n = none := by
  simp [findCol_eq_none]

/-! ### Drops -/

theorem fieldDropBody_refused (h : s.form.state ≠ .define) : fieldDropBody n s = .error .refusedState := by
  simp [fieldDropBody, h]

theorem columnDropBody_refused (h : s.form.state ≠ .define) : columnDropBody n s = .error .refusedState := by
  simp [columnDropBody, h]

theorem fieldDropBody_none (h : s.form.state = .define) (hn : findField s.form n = none) :
    fieldDropBody n s = .error .badArgument := by
  simp [fieldDropBody, h, hn]

theorem columnDropBody_none (h : s.form.state = .define) (hn : findCol s.form n = none) :
    columnDropBody n s = .error .badArgument := by
  simp [columnDropBody, h, hn]

theorem fieldDropBody_some (h : s.form.state = .define) (hn : ¬findField s.form n = none) :
    fieldDropBody n s =
      .ok { s with form := { s.form with fields := s.form.fields.filter (fun g => g.number ≠ n) } } := by
  simp [fieldDropBody, h, hn]

theorem columnDropBody_some (h : s.form.state = .define) (hn : ¬findCol s.form n = none) :
    columnDropBody n s = .ok { s with form := { s.form with cols := s.form.cols.filter (fun g => g.number ≠ n) } } := by
  simp [columnDropBody, h, hn]

/-! ### Definitions -/

theorem fieldDefineBody_refused {r : Option FieldDef} (h : s.form.state ≠ .define) :
    fieldDefineBody r s = .error .refusedState := by
  simp [fieldDefineBody, h]

theorem columnDefineBody_refused {r : Option ColumnDef} (h : s.form.state ≠ .define) :
    columnDefineBody r s = .error .refusedState := by
  simp [columnDefineBody, h]

theorem fieldDefineBody_illegal {r : Option FieldDef} (h : s.form.state = .define)
    (hr : ∀ g, r = some g → fieldLegal s.form g = false) : fieldDefineBody r s = .error .badArgument := by
  cases r with
  | none => simp [fieldDefineBody, h]
  | some g => simp [fieldDefineBody, h, hr g rfl]

theorem columnDefineBody_illegal {r : Option ColumnDef} (h : s.form.state = .define)
    (hr : ∀ g, r = some g → columnLegal s.form g = false) : columnDefineBody r s = .error .badArgument := by
  cases r with
  | none => simp [columnDefineBody, h]
  | some g => simp [columnDefineBody, h, hr g rfl]

theorem fieldDefineBody_legal {g : FieldDef} (h : s.form.state = .define) (hl : fieldLegal s.form g = true)
    (hroom : s.form.fields.length < maxFields) :
    fieldDefineBody (some g) s =
      .ok { s with form := { s.form with fields := insertField g s.form.fields } } := by
  simp [fieldDefineBody, h, hl, Nat.not_le.2 hroom]

theorem columnDefineBody_legal {g : ColumnDef} (h : s.form.state = .define) (hl : columnLegal s.form g = true)
    (hroom : s.form.cols.length < maxColumns) :
    columnDefineBody (some g) s = .ok { s with form := { s.form with cols := insertCol g s.form.cols } } := by
  simp [columnDefineBody, h, hl, Nat.not_le.2 hroom]

/-! ### The order of the tables (R11) -/

theorem insertField_eq_orderedInsert (fd : FieldDef) (gs : List FieldDef) :
    insertField fd gs = gs.orderedInsert (fun a b => fieldBefore a b = true) fd := by
  induction gs with
  | nil => rfl
  | cons g gs ih => simp [insertField, ih]

theorem insertCol_eq_orderedInsert (cd : ColumnDef) (gs : List ColumnDef) :
    insertCol cd gs = gs.orderedInsert (fun a b => a.col < b.col) cd := by
  induction gs with
  | nil => rfl
  | cons g gs ih => simp [insertCol, ih]

/-- An insertion keeps a strict order that decides between the new element and each old one. -/
theorem pairwise_orderedInsert {α : Type} {r : α → α → Prop} [DecidableRel r] (htrans : ∀ a b c, r a b → r b c → r a c)
    {x : α} {l : List α} (htotal : ∀ y ∈ l, r x y ∨ r y x) (hl : l.Pairwise r) : (l.orderedInsert r x).Pairwise r := by
  induction l with
  | nil => simp
  | cons y l ih =>
    obtain ⟨hy, hl'⟩ := List.pairwise_cons.1 hl
    by_cases hxy : r x y
    · rw [List.orderedInsert_cons_of_le _ _ hxy]
      exact List.pairwise_cons.2 ⟨List.forall_mem_cons.2 ⟨hxy, fun z hz => htrans x y z hxy (hy z hz)⟩, hl⟩
    · rw [List.orderedInsert_of_not_le _ _ hxy]
      refine List.pairwise_cons.2 ⟨fun z hz => ?_, ih (fun z hz => htotal z (List.mem_cons_of_mem _ hz)) hl'⟩
      rcases (List.mem_orderedInsert r).1 hz with rfl | hz
      · exact (htotal y List.mem_cons_self).resolve_left hxy
      · exact hy z hz

theorem fieldBefore_iff (a b : FieldDef) :
    fieldBefore a b = true ↔ a.row < b.row ∨ (a.row = b.row ∧ a.col < b.col) := by
  simp [fieldBefore]

theorem fieldBefore_trans (a b c : FieldDef) (h : fieldBefore a b = true) (g : fieldBefore b c = true) :
    fieldBefore a c = true := by
  rw [fieldBefore_iff] at *
  omega

/-- A legal shape has at least one cell (R7, R8, R9). -/
theorem length_pos_of_shapeLegal {sh : Shape} (h : shapeLegal sh = true) : 0 < sh.length := by
  have hmin : 0 < minLength sh := by
    unfold minLength
    omega
  unfold shapeLegal at h
  split at h <;> simp only [Bool.and_eq_true, decide_eq_true_eq] at h <;> omega

/-- Runs of cells that share none begin in different columns (R10). -/
theorem col_ne_of_not_runsMeet {c₁ l₁ c₂ l₂ : Nat} (h : runsMeet c₁ l₁ c₂ l₂ = false) (h₁ : 0 < l₁) (h₂ : 0 < l₂) :
    c₁ ≠ c₂ := by
  rintro rfl
  simp [runsMeet] at h
  omega

/-- A legal field stands before or after each field of the table in screen order. -/
theorem fieldBefore_total {g : FieldDef} (hl : fieldLegal f g = true) (hs : recordsOnScreen f = true) :
    ∀ b ∈ f.fields, fieldBefore g b = true ∨ fieldBefore b g = true := by
  intro b hb
  simp only [fieldLegal, fieldAloneLegal, Bool.and_eq_true, List.all_eq_true] at hl
  simp only [recordsOnScreen, Bool.and_eq_true, List.all_eq_true, decide_eq_true_eq] at hs
  have hshape : 0 < g.shape.length := length_pos_of_shapeLegal (by tauto)
  have hmeet : fieldsMeet g b = false := by
    have := (hl.2 b hb).2
    simpa using this
  simp only [fieldBefore_iff]
  by_cases hrow : g.row = b.row
  · have hcol := col_ne_of_not_runsMeet (by simpa [fieldsMeet, hrow] using hmeet) hshape (hs.1 b hb).2.1
    omega
  · omega

/-- A legal column begins left or right of each column of the table. -/
theorem col_lt_total {g : ColumnDef} (hl : columnLegal f g = true) (hs : recordsOnScreen f = true) :
    ∀ b ∈ f.cols, g.col < b.col ∨ b.col < g.col := by
  intro b hb
  simp only [columnLegal, columnAloneLegal, Bool.and_eq_true, List.all_eq_true] at hl
  simp only [recordsOnScreen, Bool.and_eq_true, List.all_eq_true, decide_eq_true_eq] at hs
  have hshape : 0 < g.shape.length := length_pos_of_shapeLegal (by tauto)
  have hmeet : runsMeet g.col g.shape.length b.col b.shape.length = false := by
    have := (hl.2 b hb).2
    simpa using this
  have hcol := col_ne_of_not_runsMeet hmeet hshape (hs.2 b hb).1
  omega

end Records

/-- Settles O18. -/
theorem dropsRemoveRecord : Obligations.DropsRemoveRecord := by
  intro n m s hp z
  have hk : 1 + (1 + m) = 2 + m := by omega
  refine ⟨fun h => ⟨?_, ?_⟩, fun h hn => ?_, fun h hn => ?_, fun h hn => ?_, fun h hn => ?_⟩
  · exact order_refused hk hp (fieldDropBody_refused h)
  · exact order_refused hk hp (columnDropBody_refused h)
  · exact order_refused hk hp (fieldDropBody_none h (findField_eq_none.2 hn))
  · exact order_taken hk hp (fieldDropBody_some h (findField_isSome.1 hn))
  · exact order_refused hk hp (columnDropBody_none h (findCol_eq_none.2 hn))
  · exact order_taken hk hp (columnDropBody_some h (findCol_isSome.1 hn))

/-- Settles O17: a record that meets no other stands before or after each one of its table, so that the insertion keeps
the order. -/
theorem definesPlaceRecordInOrder : Obligations.DefinesPlaceRecordInOrder := by
  intro n r c len kind dec form attrs x y m s hp fd cd
  have hf : 1 + (10 + m) = 11 + m := by omega
  have hc : 1 + (9 + m) = 10 + m := by omega
  refine ⟨fun h => ⟨?_, ?_⟩, fun h hn => ?_, fun h hn => ?_, fun h g hg hl hroom => ?_, fun h g hg hl hroom => ?_⟩
  · exact order_refused hf hp (fieldDefineBody_refused h)
  · exact order_refused hc hp (columnDefineBody_refused h)
  · exact order_refused hf hp (fieldDefineBody_illegal h hn)
  · exact order_refused hc hp (columnDefineBody_illegal h hn)
  · refine ⟨insertField g s.form.fields,
      order_taken hf hp ((congrArg (fieldDefineBody · _) hg).trans (fieldDefineBody_legal h hl hroom)), ?_, fun hs hord => ?_⟩
    · rw [insertField_eq_orderedInsert]
      exact List.perm_orderedInsert _ _ _
    · rw [insertField_eq_orderedInsert]
      exact pairwise_orderedInsert fieldBefore_trans (fieldBefore_total hl hs) hord
  · refine ⟨insertCol g s.form.cols,
      order_taken hc hp ((congrArg (columnDefineBody · _) hg).trans (columnDefineBody_legal h hl hroom)), ?_, fun hs hord => ?_⟩
    · rw [insertCol_eq_orderedInsert]
      exact List.perm_orderedInsert _ _ _
    · rw [insertCol_eq_orderedInsert]
      exact pairwise_orderedInsert (fun a b c => @Nat.lt_trans a.col b.col c.col) (col_lt_total hl hs) hord

end Sys2Proof.Proofs

/-! ## Announcements, repaint requests and the frame of a key -/
namespace Sys2Proof.Machine

/-! ### What a state in the frame of a key keeps, block by block -/

section KeyFrame

variable {s t : State}

theorem KeyFrame.form_eq (h : KeyFrame s t) : t.form = { s.form with vals := t.form.vals, lines := t.form.lines } := by
  have e := congrArg State.form h.eq
  exact e

theorem KeyFrame.line_eq (h : KeyFrame s t) : t.line = { s.line with taken := t.line.taken } := by
  have e := congrArg State.line h.eq
  exact e

theorem KeyFrame.desk_eq (h : KeyFrame s t) :
    t.desk = { s.desk with active := t.desk.active, tallies := t.desk.tallies } := by
  have e := congrArg State.desk h.eq
  exact e

/-- The Composer but for its list and mark, where the image stands. -/
theorem KeyFrame.comp_eq (h : KeyFrame s t) (himage : t.comp.image = s.comp.image) :
    t.comp = { s.comp with items := t.comp.items, remark := t.comp.remark } := by
  obtain ⟨hon, hblink⟩ := h.comp.options
  show t.comp = ⟨s.comp.image, t.comp.items, s.comp.rendering, t.comp.remark, s.comp.displayOn, s.comp.cursorBlink⟩
  rw [← himage, ← h.comp.rendering, ← hon, ← hblink]

end KeyFrame

/-! ### Requests -/

theorem mem_requestAll {it : Item} {is : List Item} {s : State} (h : it ∈ is) : it ∈ (requestAll is s).comp.items := by
  induction is generalizing s with
  | nil => cases h
  | cons i is ih =>
    rcases List.mem_cons.1 h with rfl | h
    · exact (requestAll_frame is _).comp.keeps _ (mem_requestIn s.comp _)
    · exact ih h

theorem mem_requestAll_of_mem {it : Item} {is : List Item} {s : State} (h : it ∈ s.comp.items) :
    it ∈ (requestAll is s).comp.items := (requestAll_frame is s).comp.keeps it h

theorem mem_requestInst {s : State} {i : Inst} {it : Item} (h : instItem s.form s.cur.top i = some it) :
    it ∈ (requestInst i s).comp.items := by
  simp only [requestInst, h]
  exact mem_requestIn s.comp it

/-- The item of a field or cell, by the rows of the window (R37). -/
theorem instItem_congr {f g : FormStore} (hh : f.h = g.h) (hw : f.w = g.w) (top : Nat) (i : Inst) :
    instItem f top i = instItem g top i := by
  cases i with
  | field n => rfl
  | cell l c =>
    unfold instItem lineRow lineVisible
    rw [hh, hw]

theorem bodyRow_mem_allBodyRows {f : FormStore} {k : Nat} (h : k < f.w) : Item.bodyRow (f.h + k) ∈ allBodyRows f :=
  List.mem_map.2 ⟨k, List.mem_range.2 h, rfl⟩

/-! ### Announcements -/

/-- The tally set after an announcement is placed for each tag of a list (R167). -/
theorem assocGet_placeAll_tallies (a : Announce) (ts : List Nat) (s : State) (n : Nat) :
    assocGet (placeAll a ts s).desk.tallies n = if n ∈ ts then some a else assocGet s.desk.tallies n := by
  induction ts generalizing s with
  | nil => simp [placeAll]
  | cons t ts ih =>
    rw [placeAll, ih, placeAnnounce, assocGet_put]
    by_cases hts : n ∈ ts <;> simp [hts]

end Sys2Proof.Machine

/-! ## FORM BEGIN -/
namespace Sys2Proof.Proofs

open Machine

theorem geometryLegal_iff (h w d : Nat) :
    geometryLegal h w d = true ↔ h ≤ 23 ∧ w ≤ 16 ∧ h + w ≤ 24 ∧ (w = 0 → d = 0) ∧ (w ≠ 0 → w ≤ d ∧ d ≤ 48) := by
  unfold geometryLegal maxHeader maxWindow formRows maxDepth
  split <;> simp [*, and_assoc]

theorem formBeginBody_legal {h w d : Nat} (hl : geometryLegal h w d = true) (s : State) :
    formBeginBody h w d s = .ok (openForm h w d s) := by
  simp [formBeginBody, hl]

theorem formBeginBody_illegal {h w d : Nat} (hl : ¬geometryLegal h w d = true) (s : State) :
    formBeginBody h w d s = .error .badArgument := by
  simp [formBeginBody, hl]

theorem retractTags_line_eq (s : State) : (retractTags s).line = { s.line with taken := (retractTags s).line.taken } :=
  (placeAll_frame .retract (activeTags s.desk) s).line_eq

theorem retractTags_desk_eq (s : State) :
    (retractTags s).desk = { s.desk with active := [], tallies := (retractTags s).desk.tallies } :=
  congrArg (fun d : DeskExchange => { d with active := [] }) (placeAll_frame .retract (activeTags s.desk) s).desk_eq

/-- FORM BEGIN requests STATUS on the emptied repaint list. -/
theorem openForm_comp (h w d : Nat) (s : State) :
    (openForm h w d s).comp =
      { s.comp with image := [], items := [.status], rendering := false, remark := false } := by
  simp [openForm, requestIn]

theorem openForm_key (h w d : Nat) (s : State) :
    (openForm h w d s).key = { s.key with keyboard := .system, edit := none, lastError := none } := by
  simp [openForm]

/-- Settles O16. -/
theorem formBeginOpensForm : Obligations.FormBeginOpensForm := by
  intro h w d n s hp z legal
  have hk : 1 + (3 + n) = 4 + n := by omega
  refine ⟨fun hl => ?_, fun hl => ?_⟩
  · exact order_refused hk hp (formBeginBody_illegal (mt (geometryLegal_iff ..).1 hl) _)
  · refine ⟨record .done (openForm h.toNat w.toNat d.toNat (inFrame (4 + n) s)),
      order_taken hk hp (formBeginBody_legal ((geometryLegal_iff ..).2 hl) _), ?_, rfl, rfl,
      openForm_key h.toNat w.toNat d.toNat _, openForm_comp h.toNat w.toNat d.toNat _, rfl, rfl, retractTags_desk_eq _, retractTags_line_eq _, fun t => ?_⟩
    · exact congrArg (fun p : TpPort => { p with outcome := .done }) (retractTags_tp (inFrame (4 + n) s))
    · exact assocGet_placeAll_tallies .retract (activeTags s.desk) _ t

end Sys2Proof.Proofs

/-! ## Reads -/
namespace Sys2Proof.Proofs

open Machine

section Reads

variable {s : State} {i : Inst} {sh : Shape} {v : Value}

theorem readText_of_not_ordinal (hv : instValue s.form i = some v) (hk : sh.kind ≠ .ordinal) :
    readText s.form i sh = canonicalText sh.decimals v := by
  unfold readText
  split
  · next h => exact absurd h hk
  · simp [hv]

theorem instReply_of_not_active (ha : s.form.state ≠ .active) : instReply s i = .error .refusedState := by
  simp [instReply, ha]

/-- A read of a field or cell that stores a value replies with its length and its canonical text (R42). -/
theorem instReply_of_value (ha : s.form.state = .active) (he : instExists s.form i = true)
    (hs : instShape s.form i = some sh) (hv : instValue s.form i = some v) (hk : sh.kind ≠ .ordinal) :
    instReply s i =
      .ok (BitVec.ofNat 8 (canonicalText sh.decimals v).length :: canonicalText sh.decimals v) := by
  simp [instReply, ha, he, hs, readText_of_not_ordinal hv hk]

theorem cursorReply_eq (s : State) :
    cursorReply s = [BitVec.ofNat 8 s.cur.row, BitVec.ofNat 8 s.cur.col,
      match s.form.state, lineAt s.form s.cur.top s.cur.row with
      | .active, some l => BitVec.ofNat 8 l
      | _, _ => 0xFF] := by
  unfold cursorReply reportedLine cursorLine
  cases s.form.state <;> cases lineAt s.form s.cur.top s.cur.row <;> rfl

end Reads

/-- Settles O24. -/
theorem readsReturnState : Obligations.ReadsReturnState := by
  intro a b n s hp driven
  refine ⟨fun fd ha hf v hv hk => ?_, fun cd ha hd hc v hv hk => ?_, fun ha => ?_, fun ha => ?_, ?_⟩
  · have hreply := instReply_of_value ha (by simp [instExists, hf]) (by simp [instShape, hf]) hv hk
    exact runRead_ok (reply := fun t => instReply t (.field a.toNat)) hp hreply rfl
  · have hreply := instReply_of_value ha (by simp [instExists, hd, hc]) (by simp [instShape, hc]) hv hk
    exact runRead_ok (reply := fun t => instReply t (.cell a.toNat b.toNat)) hp hreply rfl
  · exact runRead_error (reply := fun t => instReply t (.field a.toNat)) hp (instReply_of_not_active ha) rfl
  · exact runRead_error (reply := fun t => instReply t (.cell a.toNat b.toNat)) hp (instReply_of_not_active ha) rfl
  · exact runRead_ok (reply := fun t => .ok (cursorReply t)) hp (congrArg Except.ok (cursorReply_eq s)) rfl

end Sys2Proof.Proofs

/-! ## CURSOR SET and WINDOW SET -/
namespace Sys2Proof.Proofs

open Machine

section Placing

variable {s : State} {r c top : Nat}

theorem contentGate_eq_none (ha : s.form.state = .active) (hs : s.send.state ≠ .assembling) : contentGate s = none := by
  simp [contentGate, ha, hs]

/-! ### What placing cursor and window leaves and requests (R44, R46) -/

@[simp] theorem abandonAndPlace_cur (r c top : Nat) (s : State) : (abandonAndPlace r c top s).cur = ⟨r, c, top⟩ := by
  unfold abandonAndPlace abandonedItem
  split <;> simp

@[simp] theorem abandonAndPlace_key (r c top : Nat) (s : State) :
    (abandonAndPlace r c top s).key = { s.key with edit := none } := by
  unfold abandonAndPlace abandonedItem
  split <;> simp [dropEdit]

@[simp] theorem abandonAndPlace_form (r c top : Nat) (s : State) : (abandonAndPlace r c top s).form = s.form := by
  unfold abandonAndPlace abandonedItem
  split <;> simp

@[simp] theorem abandonAndPlace_send (r c top : Nat) (s : State) : (abandonAndPlace r c top s).send = s.send := by
  unfold abandonAndPlace abandonedItem
  split <;> simp

@[simp] theorem abandonAndPlace_desk (r c top : Nat) (s : State) : (abandonAndPlace r c top s).desk = s.desk := by
  unfold abandonAndPlace abandonedItem
  split <;> simp

@[simp] theorem abandonAndPlace_line (r c top : Nat) (s : State) : (abandonAndPlace r c top s).line = s.line := by
  unfold abandonAndPlace abandonedItem
  split <;> simp

@[simp] theorem abandonAndPlace_tp (r c top : Nat) (s : State) : (abandonAndPlace r c top s).tp = s.tp := by
  unfold abandonAndPlace abandonedItem
  split <;> simp

/-- The abandoned edit's item is in the repaint list, where its place is visible now. -/
theorem mem_abandonAndPlace_of_edit {e : Edit} {it : Item} (he : s.key.edit = some e)
    (hit : instItem s.form top e.inst = some it) : it ∈ (abandonAndPlace r c top s).comp.items := by
  simp only [abandonAndPlace, abandonedItem, editInst, he, Option.map_some]
  exact mem_requestInst (by simpa using hit)

/-- A window that moves repaints each of its rows (R50). -/
theorem mem_placeCursor_of_top_ne (htop : top ≠ s.cur.top) {k : Nat} (hk : k < s.form.w) :
    Item.bodyRow (s.form.h + k) ∈ (placeCursor r c top s).comp.items := by
  have hrow := bodyRow_mem_allBodyRows hk
  simp only [placeCursor, htop, ne_eq, not_false_eq_true, if_true]
  split
  · exact mem_requestIn_of_mem _ _ _ (mem_requestAll hrow)
  · exact mem_requestAll hrow

theorem mem_abandonAndPlace_of_top_ne (htop : top ≠ s.cur.top) {k : Nat} (hk : k < s.form.w) :
    Item.bodyRow (s.form.h + k) ∈ (abandonAndPlace r c top s).comp.items :=
  (abandonedItem_frame s _).comp.keeps _ (mem_placeCursor_of_top_ne (s := dropEdit s) htop hk)

/-! ### Targets -/

theorem cursorSetBody_some {form a b : Byte} (ha : s.form.state = .active) (hs : s.send.state ≠ .assembling)
    (ht : cursorTarget form a b s = some (r, c, top)) :
    cursorSetBody form a b s = .ok (abandonAndPlace r c top s) := by
  simp [cursorSetBody, contentGate_eq_none ha hs, ht]

theorem cursorSetBody_none {form a b : Byte} (ha : s.form.state = .active) (hs : s.send.state ≠ .assembling)
    (ht : cursorTarget form a b s = none) : cursorSetBody form a b s = .error .badArgument := by
  simp [cursorSetBody, contentGate_eq_none ha hs, ht]

theorem windowSetBody_ok (ha : s.form.state = .active) (hs : s.send.state ≠ .assembling) (t : Nat) :
    windowSetBody t s = .ok (abandonAndPlace s.cur.row s.cur.col (min t (s.form.d - s.form.w)) s) := by
  simp [windowSetBody, contentGate_eq_none ha hs]

variable {a b : Byte}

theorem cursorTarget_field {fd : FieldDef} (hf : findField s.form a.toNat = some fd) :
    cursorTarget 1 a b s = some (fd.row, fd.col, s.cur.top) := by
  simp [cursorTarget, instOf, seekInst, hf]

theorem cursorTarget_visible {cd : ColumnDef} (hc : findCol s.form b.toNat = some cd) (hd : a.toNat < s.form.d)
    (hlo : s.cur.top ≤ a.toNat) (hhi : a.toNat < s.cur.top + s.form.w) :
    cursorTarget 2 a b s = some (s.form.h + (a.toNat - s.cur.top), cd.col, s.cur.top) := by
  simp [cursorTarget, instOf, seekInst, lineVisible, hc, hd, hlo, hhi]

theorem cursorTarget_hidden {cd : ColumnDef} (hc : findCol s.form b.toNat = some cd) (hd : a.toNat < s.form.d)
    (hout : a.toNat < s.cur.top ∨ s.cur.top + s.form.w ≤ a.toNat) :
    cursorTarget 2 a b s = some (s.form.h + (a.toNat - min a.toNat (s.form.d - s.form.w)), cd.col,
      min a.toNat (s.form.d - s.form.w)) := by
  have hv : lineVisible s.form s.cur.top a.toNat = false := by
    simp only [lineVisible, Bool.and_eq_false_iff, decide_eq_false_iff_not]
    omega
  simp [cursorTarget, instOf, seekInst, hc, hd, hv]

theorem cursorTarget_cell (ha : a.toNat ≤ 23) (hb : b.toNat ≤ 79) :
    cursorTarget 3 a b s = some (a.toNat, b.toNat, s.cur.top) := by
  simp [cursorTarget, formRows, screenCols, Nat.lt_succ_of_le ha, Nat.lt_succ_of_le hb]

theorem cursorTarget_outside (h : 23 < a.toNat ∨ 79 < b.toNat) : cursorTarget 3 a b s = none := by
  have hcell : ¬(a.toNat < formRows ∧ b.toNat < screenCols) := by
    unfold formRows screenCols
    omega
  exact (if_pos rfl).trans (if_neg hcell)

end Placing

/-- Settles O26: each order places by `abandonAndPlace`, its target worked out first. -/
theorem cursorAndWindowSet : Obligations.CursorAndWindowSet := by
  intro a b n s hp ha hs placed
  have taken : ∀ {m k : Nat} {body : State → Verdict} {r c top : Nat}, 1 + m = k →
      body (inFrame k s) = .ok (abandonAndPlace r c top (inFrame k s)) → placed (runOrder m body s) r c top := by
    intro m k body r c top hk hb
    refine ⟨_, order_taken hk hp hb, abandonAndPlace_cur .., abandonAndPlace_key .., abandonAndPlace_form ..,
      abandonAndPlace_send .., abandonAndPlace_desk .., abandonAndPlace_line .., rfl, ?_, ?_, ?_⟩
    · exact congrArg TpPort.stream (abandonAndPlace_tp r c top (inFrame k s))
    · exact fun e he it hit => mem_abandonAndPlace_of_edit (s := inFrame k s) he hit
    · exact fun htop j hj => mem_abandonAndPlace_of_top_ne (s := inFrame k s) htop hj
  have hk : 1 + (3 + n) = 4 + n := by omega
  refine ⟨fun fd hf => ?_, fun cd hc hd hlo hhi => ?_, fun cd hc hd hout => ?_, fun hr hc => ?_, fun hout => ?_, ?_⟩
  · exact taken hk (cursorSetBody_some ha hs (cursorTarget_field hf))
  · exact taken hk (cursorSetBody_some ha hs (cursorTarget_visible hc hd hlo hhi))
  · exact taken hk (cursorSetBody_some ha hs (cursorTarget_hidden hc hd hout))
  · exact taken hk (cursorSetBody_some ha hs (cursorTarget_cell hr hc))
  · exact order_refused hk hp (cursorSetBody_none ha hs (cursorTarget_outside hout))
  · exact taken (k := 2 + n) (by omega) (windowSetBody_ok (s := inFrame (2 + n) s) ha hs a.toNat)

end Sys2Proof.Proofs

/-! ## LABEL WRITE -/
namespace Sys2Proof.Proofs

open Machine

section Labels

/-! ### The cells of a rectangle -/

/-- A grid of cells lists none twice. -/
theorem nodup_grid {xs ys : List Nat} {g : Nat → Nat → Nat} (hx : xs.Nodup) (hy : ys.Nodup)
    (hg : ∀ x ∈ xs, ∀ y ∈ ys, ∀ x' ∈ xs, ∀ y' ∈ ys, g x y = g x' y' → x = x' ∧ y = y') :
    (xs.flatMap (fun x => ys.map (g x))).Nodup := by
  refine List.nodup_flatMap.2 ⟨fun x hxm => ?_, ?_⟩
  · exact List.Nodup.map_on (fun y hym y' hym' h => (hg x hxm y hym x hxm y' hym' h).2) hy
  · refine hx.imp_of_mem fun {x x'} hxm hxm' hne k hk hk' => ?_
    obtain ⟨y, hym, rfl⟩ := List.mem_map.1 hk
    obtain ⟨y', hym', h⟩ := List.mem_map.1 hk'
    exact hne (hg x' hxm' y' hym' x hxm y hym h).1.symm

theorem cellKey_inj {r c r' c' : Nat} (hc : c < screenCols) (hc' : c' < screenCols)
    (h : cellKey r c = cellKey r' c') : r = r' ∧ c = c' := by
  unfold cellKey screenCols at *
  omega

theorem nodup_run (a n : Nat) : ((List.range n).map (a + ·)).Nodup :=
  List.nodup_range.map (add_right_injective a)

theorem rectCells_nodup {f : FormStore} {a : LabelArgs} (h : rectLegal f a = true) : (rectCells a).Nodup := by
  have hcols : ∀ c ∈ (List.range (a.c1 + 1 - a.c0)).map (a.c0 + ·), c < screenCols := by
    simp only [rectLegal, Bool.and_eq_true, decide_eq_true_eq] at h
    obtain ⟨⟨⟨-, -⟩, hc1⟩, -⟩ := h
    intro c hc
    obtain ⟨j, hj, rfl⟩ := List.mem_map.1 hc
    have := List.mem_range.1 hj
    omega
  unfold rectCells
  dsimp only
  split
  · exact nodup_grid (g := fun c r => cellKey r c) (nodup_run ..) (nodup_run ..)
      fun c hc r _ c' hc' r' _ e => (cellKey_inj (hcols c hc) (hcols c' hc') e).symm
  · exact nodup_grid (nodup_run ..) (nodup_run ..)
      fun r _ c hc r' _ c' hc' e => cellKey_inj (hcols c hc) (hcols c' hc') e

/-! ### The characters in a plane -/

/-- Characters that do not go round leave every cell alone that they do not reach. -/
theorem cellRead_writeLabel_of_not_mem {cells ks : List Nat} {t : Text} {plane : List (Nat × Byte)}
    (hlen : t.length ≤ ks.length) {k : Nat} (hk : k ∉ ks.take t.length) :
    cellRead blank (writeLabel cells ks t plane) k = cellRead blank plane k := by
  induction t generalizing ks plane with
  | nil => cases ks <;> rfl
  | cons b t ih =>
    cases ks with
    | nil => simp at hlen
    | cons j ks =>
      simp only [List.length_cons, List.take_succ_cons, List.mem_cons, not_or] at hlen hk
      rw [writeLabel, ih (by omega) hk.2, cellRead_write_ne _ _ hk.1]

/-- Characters that do not go round stand in the cells in order (R30). -/
theorem cellRead_writeLabel_of_getElem {cells ks : List Nat} {t : Text} {plane : List (Nat × Byte)}
    (hlen : t.length ≤ ks.length) (hnodup : ks.Nodup) (hwf : cellWf blank plane = true) {i k : Nat} {b : Byte}
    (hk : ks[i]? = some k) (hb : t[i]? = some b) : cellRead blank (writeLabel cells ks t plane) k = b := by
  induction t generalizing ks plane i with
  | nil => simp at hb
  | cons c t ih =>
    cases ks with
    | nil => simp at hk
    | cons j ks =>
      obtain ⟨hj, hnodup⟩ := List.nodup_cons.1 hnodup
      simp only [List.length_cons] at hlen
      rw [writeLabel]
      cases i with
      | zero =>
        cases hk
        cases hb
        rw [cellRead_writeLabel_of_not_mem (by omega) (fun h => hj (List.mem_of_mem_take h)),
          cellRead_write_same (cellWf_assoc hwf)]
      | succ i => exact ih (by omega) hnodup (cellWf_write hwf j c) hk hb

/-! ### The order -/

theorem labelArgs_format {plane r0 c0 r1 c1 direction : Byte} {a : LabelArgs}
    (h : labelArgs plane r0 c0 r1 c1 direction 0 = some a) : a.format = .plain := by
  unfold labelArgs at h
  split at h
  · next f _ _ hf =>
    cases h
    exact (Option.some.inj hf).symm
  · cases h

theorem requestAll_eq (is : List Item) (s : State) :
    requestAll is s = { s with comp := (requestAll is s).comp } := by
  induction is generalizing s with
  | nil => rfl
  | cons i is ih => exact ih (request i s)

/-- The plane that a LABEL WRITE writes. -/
def planeOf (a : LabelArgs) (f : FormStore) : List (Nat × Byte) := if a.linePlane then f.linePlane else f.screenPlane

theorem planeOf_labelled (a : LabelArgs) (t : Text) (f : FormStore) :
    planeOf a (labelled a t f) = writeLabel (rectCells a) (rectCells a) t (planeOf a f) := by
  unfold planeOf labelled
  cases a.linePlane <;> rfl

theorem labelled_other_plane (a : LabelArgs) (t : Text) (f : FormStore) :
    if a.linePlane then (labelled a t f).screenPlane = f.screenPlane else (labelled a t f).linePlane = f.linePlane := by
  unfold labelled
  cases a.linePlane <;> rfl

theorem labelled_eq (a : LabelArgs) (t : Text) (f : FormStore) :
    labelled a t f =
      { f with screenPlane := (labelled a t f).screenPlane, linePlane := (labelled a t f).linePlane } := by
  unfold labelled
  cases a.linePlane <;> rfl

/-- The machine that an accepted LABEL WRITE of the characters `t` makes. -/
def labelWritten (a : LabelArgs) (t : Text) (s : State) : State :=
  requestAll (labelItems s.form a) { s with form := labelled a t s.form }

@[simp] theorem labelWritten_form (a : LabelArgs) (t : Text) (s : State) :
    (labelWritten a t s).form = labelled a t s.form := requestAll_form ..

theorem labelWritten_eq (a : LabelArgs) (t : Text) (s : State) :
    labelWritten a t s = { s with form := labelled a t s.form, comp := (labelWritten a t s).comp } := requestAll_eq ..

/-- A LABEL WRITE in DEFINE requests nothing (R30). -/
theorem labelWritten_comp {a : LabelArgs} {t : Text} {s : State} (h : s.form.state ≠ .active) :
    (labelWritten a t s).comp = s.comp := by
  simp [labelWritten, labelItems, h, requestAll]

/-- A LABEL WRITE of PLAIN data in a legal rectangle (R29, R30). -/
theorem labelWriteBody_plain {a : LabelArgs} {data : List Byte} {s : State} (he : s.form.state ≠ .empty)
    (hl : rectLegal s.form a = true) (hf : a.format = .plain) :
    labelWriteBody (some a) data s = .ok (labelWritten a (data.map plainChar) s) := by
  simp [labelWriteBody, labelWritten, he, hl, hf, decodeData]

theorem planeOf_wf {a : LabelArgs} {s : State} (h : MemoriesSound s) : cellWf blank (planeOf a s.form) = true := by
  unfold planeOf
  cases a.linePlane
  · exact h.screenPlane
  · exact h.linePlane

end Labels

/-- Settles O19. -/
theorem labelWriteFillsCells : Obligations.LabelWriteFillsCells := by
  intro plane r0 c0 r1 c1 direction a data s hp he hmem hargs hl hlen
  have hk : 1 + (7 + data.length) = 8 + data.length := by omega
  have hbody := labelWriteBody_plain (data := data) (s := inFrame (8 + data.length) s) he hl (labelArgs_format hargs)
  rw [← hargs] at hbody
  have hlen' : (data.map plainChar).length ≤ (rectCells a).length := by simpa using hlen
  refine ⟨record .done (labelWritten a (data.map plainChar) (inFrame (8 + data.length) s)), order_taken hk hp hbody,
    ?_, fun ha => labelWritten_comp ha, ?_, fun i k b hi hb => ?_, fun k hk => ?_⟩
  · rw [labelWritten_eq, inFrame_form, labelled_eq]
    rfl
  · show if _ then (labelWritten _ _ _).form.screenPlane = _ else (labelWritten _ _ _).form.linePlane = _
    rw [labelWritten_form]
    exact labelled_other_plane ..
  · show cellRead blank (planeOf a (labelWritten _ _ _).form) k = _
    rw [labelWritten_form, planeOf_labelled]
    rw [List.getElem?_take_of_lt (List.getElem?_eq_some_iff.1 hb).1] at hi
    exact cellRead_writeLabel_of_getElem hlen' (rectCells_nodup hl) (planeOf_wf hmem) hi (by simp [hb])
  · show cellRead blank (planeOf a (labelWritten _ _ _).form) k = cellRead blank (planeOf a s.form) k
    rw [labelWritten_form, planeOf_labelled]
    exact cellRead_writeLabel_of_not_mem hlen' (by simpa using hk)

end Sys2Proof.Proofs

/-! ## Contents of instances and the recomputation (chapter 5)

What a read of a field or cell gives after each operation on contents, and that a recomputation makes every computed value
what its rule says. -/
namespace Sys2Proof.Machine

section Contents

/-! ### Content lists -/

variable {vs : List InstVal} {k n : Nat} {v : Value} {w : InstVal}

theorem key_of_valFind (h : valFind vs k = some w) : w.key = k := by
  simpa using List.find?_some h

/-- A change of contents that keeps their keys, as it acts on the content under one key. -/
theorem valFind_map {g h : InstVal → InstVal} (hkey : ∀ x, (g x).key = x.key) (hgh : ∀ x, x.key = k → g x = h x) :
    valFind (vs.map g) k = (valFind vs k).map h := by
  have hfind : valFind (vs.map g) k = (valFind vs k).map g := by
    simp [valFind, List.find?_map, hkey]
  rw [hfind]
  exact Option.map_congr fun x hx => hgh x (key_of_valFind hx)

/-- A change of contents that keeps keys and flags. -/
theorem flag_valFind_map {g : InstVal → InstVal} (hkey : ∀ x, (g x).key = x.key) (hflag : ∀ x, (g x).modified = x.modified)
    (vs : List InstVal) (k : Nat) : (valFind (vs.map g) k).map (·.modified) = (valFind vs k).map (·.modified) := by
  rw [valFind_map hkey (fun x _ => rfl), Option.map_map]
  exact congrArg (fun m => (valFind vs k).map m) (funext hflag)

/-- A change of contents that keeps their keys, as it acts on the list of keys. -/
theorem keys_map {g : InstVal → InstVal} (hkey : ∀ x, (g x).key = x.key) (vs : List InstVal) :
    (vs.map g).map (·.key) = vs.map (·.key) := by
  rw [List.map_map]
  exact List.map_congr_left fun x _ => hkey x

theorem keys_valSet (vs : List InstVal) (k : Nat) (v : Value) : (valSet vs k v).map (·.key) = vs.map (·.key) :=
  keys_map (fun x => by split <;> rfl) vs

theorem keys_valMark (vs : List InstVal) (k : Nat) : (valMark vs k).map (·.key) = vs.map (·.key) :=
  keys_map (fun x => by split <;> rfl) vs

theorem valFind_valSet_same (vs : List InstVal) (k : Nat) (v : Value) :
    valFind (valSet vs k v) k = (valFind vs k).map (fun x => { x with value := v }) :=
  valFind_map (fun x => by split <;> rfl) (fun x hx => if_pos hx)

theorem valFind_valSet_ne (h : k ≠ n) : valFind (valSet vs n v) k = valFind vs k :=
  (valFind_map (h := id) (fun x => by split <;> rfl) (fun x hx => if_neg (hx ▸ h))).trans (Option.map_id' ..)

theorem valFind_valMark_same (vs : List InstVal) (k : Nat) :
    valFind (valMark vs k) k = (valFind vs k).map (fun x => { x with modified := true }) :=
  valFind_map (fun x => by split <;> rfl) (fun x hx => if_pos hx)

theorem valFind_valMark_ne (h : k ≠ n) : valFind (valMark vs n) k = valFind vs k :=
  (valFind_map (h := id) (fun x => by split <;> rfl) (fun x hx => if_neg (hx ▸ h))).trans (Option.map_id' ..)

/-! ### Lists by position -/

theorem getElem?_updAt {α : Type} (xs : List α) (i j : Nat) (g : α → α) :
    (updAt xs i g)[j]? = (xs[j]?).map (fun x => if j = i then g x else x) := by
  induction xs generalizing i j with
  | nil => simp [updAt]
  | cons x xs ih => cases i <;> cases j <;> simp [updAt, ih]

theorem getElem?_mapFrom {α : Type} (lo n : Nat) (g : α → α) (i : Nat) (xs : List α) (j : Nat) :
    (mapFrom lo n g i xs)[j]? = (xs[j]?).map (fun x => if lo ≤ i + j ∧ i + j < lo + n then g x else x) := by
  induction xs generalizing i j with
  | nil => simp [mapFrom]
  | cons x xs ih =>
    cases j with
    | zero => simp [mapFrom]
    | succ j => simp [mapFrom, ih, show i + 1 + j = i + (j + 1) by omega]

end Contents

section Products

/-! ### Products (R98) -/

variable {f : FormStore} {ln : LineRec} {c : Nat}

theorem valFind_lineProducts_product {cd : ColumnDef} (hc : findCol f c = some cd) (hk : cd.shape.kind = .product)
    (ln : LineRec) :
    valFind (lineProducts f ln).cells c = (valFind ln.cells c).map (fun v => { v with value := productAt f cd ln }) := by
  refine valFind_map (fun x => ?_) (fun x hx => ?_)
  · split <;> [split; skip] <;> rfl
  · subst hx
    simp [hc, hk]

theorem valFind_lineProducts_of_not_product (hc : ∀ cd, findCol f c = some cd → cd.shape.kind ≠ .product) (ln : LineRec) :
    valFind (lineProducts f ln).cells c = valFind ln.cells c := by
  refine (valFind_map (h := id) (fun x => ?_) (fun x hx => ?_)).trans (Option.map_id' ..)
  · split <;> [split; skip] <;> rfl
  · subst hx
    split
    · next cd h => simp [hc cd h]
    · rfl

theorem flag_valFind_lineProducts (f : FormStore) (ln : LineRec) (c : Nat) :
    (valFind (lineProducts f ln).cells c).map (·.modified) = (valFind ln.cells c).map (·.modified) :=
  flag_valFind_map (fun x => by split <;> [split; skip] <;> rfl) (fun x => by split <;> [split; skip] <;> rfl) _ _

theorem keys_lineProducts (f : FormStore) (ln : LineRec) : (lineProducts f ln).cells.map (·.key) = ln.cells.map (·.key) :=
  keys_map (fun x => by split <;> [split; skip] <;> rfl) _

end Products

section Sums

/-! ### Sum fields (R99, R101) -/

variable {f : FormStore} {k : Nat} {kind : Kind} {g : FieldDef → Value}

theorem valFind_setSums_of_kind {fd : FieldDef} (hf : findField f k = some fd) (hk : fd.shape.kind = kind) :
    valFind (setSums kind g f).vals k = (valFind f.vals k).map (fun v => { v with value := g fd }) := by
  refine valFind_map (fun x => ?_) (fun x hx => ?_)
  · split <;> [split; skip] <;> rfl
  · subst hx
    simp [hf, hk]

theorem valFind_setSums_of_ne (hf : ∀ fd, findField f k = some fd → fd.shape.kind ≠ kind) :
    valFind (setSums kind g f).vals k = valFind f.vals k := by
  refine (valFind_map (h := id) (fun x => ?_) (fun x hx => ?_)).trans (Option.map_id' ..)
  · split <;> [split; skip] <;> rfl
  · subst hx
    split
    · next fd h => simp [hf fd h]
    · rfl

theorem flag_valFind_setSums (kind : Kind) (g : FieldDef → Value) (f : FormStore) (k : Nat) :
    (valFind (setSums kind g f).vals k).map (·.modified) = (valFind f.vals k).map (·.modified) :=
  flag_valFind_map (fun x => by split <;> [split; skip] <;> rfl) (fun x => by split <;> [split; skip] <;> rfl) _ _

end Sums

section Recompute

/-! ### The four steps of R102 -/

variable {lo n k c l : Nat} {s : State}

theorem isSumKind_iff {kd : Kind} : isSumKind kd = true ↔ kd = .columnSum ∨ kd = .deskSum := by
  cases kd <;> simp [isSumKind]

/-- A recomputation keeps the content of a field that is no sum. -/
theorem valFind_recompute_of_not_sum (lo n : Nat) (h : ∀ fd, findField s.form k = some fd → isSumKind fd.shape.kind = false) :
    valFind (recompute lo n s).form.vals k = valFind s.form.vals k := by
  have hc : ∀ fd, findField s.form k = some fd → fd.shape.kind ≠ .columnSum := fun fd hf hk => by
    simpa [hk, isSumKind] using h fd hf
  have hd : ∀ fd, findField s.form k = some fd → fd.shape.kind ≠ .deskSum := fun fd hf hk => by
    simpa [hk, isSumKind] using h fd hf
  exact (valFind_setSums_of_ne (f := columnSums (productsFrom lo n s.form)) hd).trans
    (valFind_setSums_of_ne (f := productsFrom lo n s.form) hc)

theorem flag_valFind_recompute (lo n : Nat) (s : State) (k : Nat) :
    (valFind (recompute lo n s).form.vals k).map (·.modified) = (valFind s.form.vals k).map (·.modified) :=
  (flag_valFind_setSums _ _ (columnSums (productsFrom lo n s.form)) k).trans
    (flag_valFind_setSums _ _ (productsFrom lo n s.form) k)

/-- Every COLUMN SUM shows the sum of its column (R99). -/
theorem value_recompute_columnSum {fd : FieldDef} (hf : findField s.form k = some fd) (hk : fd.shape.kind = .columnSum) :
    valFind (recompute lo n s).form.vals k = (valFind s.form.vals k).map
      (fun v => { v with value := shareValue fd.shape (columnShare (recompute lo n s).form fd.sumCol) }) := by
  have hd : ∀ gd, findField s.form k = some gd → gd.shape.kind ≠ .deskSum := fun gd hg => by
    cases hf.symm.trans hg
    simp [hk]
  exact (valFind_setSums_of_ne (f := columnSums (productsFrom lo n s.form)) hd).trans
    (valFind_setSums_of_kind (f := productsFrom lo n s.form) hf hk)

/-- Every DESK SUM shows the desk total of its tag (R101). -/
theorem value_recompute_deskSum {fd : FieldDef} (hf : findField s.form k = some fd) (hk : fd.shape.kind = .deskSum) :
    valFind (recompute lo n s).form.vals k = (valFind s.form.vals k).map
      (fun v => { v with value := shareValue fd.shape (deskTotal (recompute lo n s).desk fd.tag) }) := by
  have hc : ∀ gd, findField s.form k = some gd → gd.shape.kind ≠ .columnSum := fun gd hg => by
    cases hf.symm.trans hg
    simp [hk]
  exact (valFind_setSums_of_kind (f := columnSums (productsFrom lo n s.form)) hf hk).trans
    (congrArg (Option.map _) (valFind_setSums_of_ne (f := productsFrom lo n s.form) hc))

/-- The lines of a recomputation: the products of those concerned, the others as they were. -/
theorem getElem?_recompute_lines (lo n : Nat) (s : State) (j : Nat) :
    (recompute lo n s).form.lines[j]? =
      (s.form.lines[j]?).map (fun ln => if lo ≤ j ∧ j < lo + n then lineProducts s.form ln else ln) := by
  have h := getElem?_mapFrom lo n (lineProducts s.form) 0 s.form.lines j
  rwa [Nat.zero_add] at h

/-- A recomputation keeps the value of a cell whose column is no PRODUCT. -/
theorem instValue_recompute_cell (lo n : Nat) (s : State) (l : Nat)
    (hc : ∀ cd, findCol s.form c = some cd → cd.shape.kind ≠ .product) :
    instValue (recompute lo n s).form (.cell l c) = instValue s.form (.cell l c) := by
  simp only [instValue, getElem?_recompute_lines, Option.bind_map]
  refine congrArg _ (funext fun ln => ?_)
  simp only [Function.comp_apply]
  split
  · rw [valFind_lineProducts_of_not_product hc]
  · rfl

/-- A recomputation keeps the value of every field and cell that holds one of its own. -/
theorem instValue_recompute_of_storesOwn (lo n : Nat) {i : Inst} {sh : Shape} (hi : instShape s.form i = some sh)
    (hk : storesOwn sh.kind = true) : instValue (recompute lo n s).form i = instValue s.form i := by
  cases i with
  | field m =>
    have hsum : ∀ fd, findField s.form m = some fd → isSumKind fd.shape.kind = false := fun fd hf => by
      simp only [instShape, hf, Option.map_some, Option.some.injEq] at hi
      subst hi
      revert hk
      cases fd.shape.kind <;> simp [storesOwn, isEntryKind, isSumKind]
    simp only [instValue, valFind_recompute_of_not_sum lo n hsum]
  | cell l c =>
    refine instValue_recompute_cell lo n s l fun cd hc hp => ?_
    simp only [instShape, hc, Option.map_some, Option.some.injEq] at hi
    subst hi
    simp [hp, storesOwn, isEntryKind] at hk

/-- Every PRODUCT on a line concerned is the product of its operands (R98). -/
theorem productsFollow_recompute (lo n : Nat) (s : State) (h : lo ≤ l ∧ l < lo + n) :
    productsFollow (recompute lo n s).form l := by
  intro cd ca cb v hcd hprod hca hna hcb hnb hv
  have hline := getElem?_recompute_lines lo n s l
  have operand : ∀ {o : Nat} {co : ColumnDef}, findCol s.form o = some co → co.shape.kind = .number →
      instValue (recompute lo n s).form (.cell l o) = instValue s.form (.cell l o) := fun ho hn =>
    instValue_recompute_cell lo n s l fun cd hc => by cases ho.symm.trans hc; simp [hn]
  rw [operand hca hna, operand hcb hnb]
  cases hl : s.form.lines[l]? with
  | none => simp [instValue, hline, hl] at hv
  | some ln =>
    simp only [instValue, hline, hl, Option.map_some, if_pos h, Option.bind_some,
      valFind_lineProducts_product (f := s.form) hcd hprod, Option.map_map, Option.map_eq_some_iff] at hv
    obtain ⟨w, -, rfl⟩ := hv
    simp only [instValue, hl, Option.bind_some]
    have hprodIs := productValue_isProduct cd.shape ca.shape.decimals cb.shape.decimals (lineValue ln cd.opA) (lineValue ln cd.opB)
    have hA : colDecimals s.form cd.opA = ca.shape.decimals := by
      simp [colDecimals, show findCol s.form cd.opA = some ca from hca]
    have hB : colDecimals s.form cd.opB = cb.shape.decimals := by
      simp [colDecimals, show findCol s.form cd.opB = some cb from hcb]
    simpa [productAt, hA, hB, lineValue] using hprodIs

/-- The value under a key that a list does not hold, where values are given by their keys. -/
theorem assocGet_map_key {α : Type} (m : List (Nat × α)) (g : Nat → α) (k : Nat) :
    assocGet (m.map (fun p => (p.1, g p.1))) k = (assocGet m k).map (fun _ => g k) := by
  induction m with
  | nil => rfl
  | cons q m ih =>
    obtain ⟨i, w⟩ := q
    simp only [List.map, assocGet]
    split
    · next h => simp [h]
    · exact ih

theorem recompute_desk_active (lo n : Nat) (s : State) :
    (recompute lo n s).desk.active =
      s.desk.active.map (fun p => (p.1, localShare (recompute lo n s).form p.1)) := rfl

/-- The sum column of a tag is the one that its DESK SUM field names, where one field alone has the tag. -/
theorem tagColumn_eq {f : FormStore} {fd : FieldDef} (hm : fd ∈ f.fields) (hk : fd.shape.kind = .deskSum)
    (hone : ∀ g ∈ f.fields, g.shape.kind = .deskSum → g.tag = fd.tag → g = fd) : tagColumn f fd.tag = some fd.sumCol := by
  unfold tagColumn
  cases hfind : f.fields.find? (fun g => g.shape.kind = .deskSum && g.tag = fd.tag) with
  | none =>
    have := List.find?_eq_none.1 hfind fd hm
    simp [hk] at this
  | some g =>
    have hg := List.find?_some hfind
    simp only [Bool.and_eq_true, decide_eq_true_eq] at hg
    rw [hone g (List.mem_of_find?_eq_some hfind) hg.1 hg.2]
    rfl

/-- A recomputation makes every sum and every local contribution what its rule says (R99 to R101). -/
theorem sumsFollow_recompute (lo n : Nat) (s : State) : sumsFollow (recompute lo n s) := by
  refine ⟨fun fd x hf hx => ⟨fun hk => ?_, fun hk => ?_⟩, fun fd hm hk hone S hS => ?_⟩
  · simp only [instValue, value_recompute_columnSum (s := s) hf hk, Option.map_map, Option.map_eq_some_iff] at hx
    obtain ⟨w, -, rfl⟩ := hx
    exact ⟨_, columnShare_columnTotal .., shareValue_showsShare ..⟩
  · simp only [instValue, value_recompute_deskSum (s := s) hf hk, Option.map_map, Option.map_eq_some_iff] at hx
    obtain ⟨w, -, rfl⟩ := hx
    exact ⟨_, deskTotal_deskTotalIs .., shareValue_showsShare ..⟩
  · rw [recompute_desk_active, assocGet_map_key, Option.map_eq_some_iff] at hS
    obtain ⟨_, -, rfl⟩ := hS
    rw [localShare, tagColumn_eq hm hk hone]
    exact columnShare_columnTotal ..

/-- The sums speak of the form, the local contributions and the contribution table alone. -/
theorem sumsFollow_congr {t u : State} (hform : u.form = t.form) (hactive : u.desk.active = t.desk.active)
    (htable : u.desk.table = t.desk.table) (h : sumsFollow t) : sumsFollow u := by
  simpa only [sumsFollow, showsDesk, deskTotalIs, hform, hactive, htable] using h

end Recompute

end Sys2Proof.Machine

/-! ## Handing on (R103, R104) -/
namespace Sys2Proof.Machine

section HandOn

variable {b t : State} {n : Nat}

theorem mem_changedFields {p : Kind → Bool} :
    n ∈ changedFields p b t ↔ ∃ fd ∈ t.form.fields, p fd.shape.kind = true ∧
      instValue b.form (.field fd.number) ≠ instValue t.form (.field fd.number) ∧ fd.number = n := by
  simp [changedFields, and_assoc]

/-- DESK CHANGE is raised where the value of a DESK SUM field changed (R104). -/
theorem deskChange_iff (b t : State) :
    (deskChange b t).tp.edge.deskChange = true ↔ t.tp.edge.deskChange = true ∨
      ∃ fd ∈ t.form.fields, fd.shape.kind = .deskSum ∧
        instValue t.form (.field fd.number) ≠ instValue b.form (.field fd.number) := by
  have hchanged : (∃ fd ∈ t.form.fields, fd.shape.kind = .deskSum ∧
      instValue t.form (.field fd.number) ≠ instValue b.form (.field fd.number)) ↔
      changedFields (· = .deskSum) b t ≠ [] := by
    simp only [ne_eq, List.eq_nil_iff_forall_not_mem, not_forall, not_not, mem_changedFields, decide_eq_true_eq]
    constructor
    · rintro ⟨fd, hm, hk, hne⟩
      exact ⟨_, fd, hm, hk, Ne.symm hne, rfl⟩
    · rintro ⟨_, fd, hm, hk, hne, rfl⟩
      exact ⟨fd, hm, hk, Ne.symm hne⟩
  rw [hchanged]
  unfold deskChange
  split
  · next h => simp [List.isEmpty_iff.1 h]
  · next h =>
    rw [List.isEmpty_iff] at h
    exact iff_of_true rfl (.inr h)

theorem deskChange_tp_eq (b t : State) :
    (deskChange b t).tp =
      { t.tp with edge := { t.tp.edge with deskChange := (deskChange b t).tp.edge.deskChange } } := by
  unfold deskChange
  split <;> rfl

/-- The tags whose local contribution changed, where a recomputation gave the contributions anew (R100). -/
theorem mem_changedTags {g : Nat → Share}
    (hactive : t.desk.active = b.desk.active.map (fun p => (p.1, g p.1))) :
    n ∈ changedTags b t ↔ assocGet t.desk.active n ≠ assocGet b.desk.active n := by
  have hkeys : ∀ m : List (Nat × Share), (∃ p ∈ m, p.1 = n) ↔ (assocGet m n).isSome = true := by
    intro m
    induction m with
    | nil => simp [assocGet]
    | cons q m ih =>
      obtain ⟨j, x⟩ := q
      by_cases hj : j = n <;> simp [assocGet, hj, ← ih]
  have hmem : n ∈ changedTags b t ↔ (assocGet b.desk.active n).isSome = true ∧ assocGet b.desk.active n ≠ some (g n) := by
    rw [← hkeys]
    simp only [changedTags, hactive, List.mem_map, List.mem_filter, decide_eq_true_eq]
    constructor
    · rintro ⟨_, ⟨⟨p, hp, rfl⟩, hne⟩, rfl⟩
      exact ⟨⟨p, hp, rfl⟩, hne⟩
    · rintro ⟨⟨p, hp, rfl⟩, hne⟩
      exact ⟨_, ⟨⟨p, hp, rfl⟩, hne⟩, rfl⟩
  rw [hmem, hactive, assocGet_map_key]
  cases assocGet b.desk.active n <;> simp [eq_comm]

/-- The tally set, with a TALLY placed for each tag whose local contribution changed. -/
theorem tallies_of_changedTags {g : Nat → Share} (hactive : t.desk.active = b.desk.active.map (fun p => (p.1, g p.1)))
    {u : State} (hu : u.desk.active = t.desk.active)
    (htallies : ∀ n, assocGet u.desk.tallies n =
      if n ∈ changedTags b t then some .tally else assocGet b.desk.tallies n) :
    (∀ n, (assocGet u.desk.active n).isSome = (assocGet b.desk.active n).isSome) ∧
    ∀ n, assocGet u.desk.tallies n =
      if assocGet u.desk.active n = assocGet b.desk.active n then assocGet b.desk.tallies n else some .tally := by
  refine ⟨fun n => ?_, fun n => ?_⟩
  · rw [hu, hactive, assocGet_map_key]
    simp
  · rw [htallies, hu]
    simp only [mem_changedTags hactive, ne_eq, ite_not]

/-! ### What `handOn` requests and places -/

/-- The last thing that `handOn` does is to raise DESK CHANGE; before it neither the port nor the form changes. -/
theorem handOn_eq_deskChange (b t : State) :
    ∃ t', handOn b t = deskChange b t' ∧ t'.tp = t.tp ∧ t'.form = t.form :=
  ⟨_, rfl, by simp, by simp⟩

theorem handOn_tp_eq (b t : State) :
    (handOn b t).tp =
      { t.tp with edge := { t.tp.edge with deskChange := (handOn b t).tp.edge.deskChange } } := by
  obtain ⟨t', h, htp, -⟩ := handOn_eq_deskChange b t
  rw [h, ← htp]
  exact deskChange_tp_eq b t'

theorem handOn_deskChange_iff (b t : State) :
    (handOn b t).tp.edge.deskChange = true ↔ t.tp.edge.deskChange = true ∨
      ∃ fd ∈ t.form.fields, fd.shape.kind = .deskSum ∧
        instValue t.form (.field fd.number) ≠ instValue b.form (.field fd.number) := by
  obtain ⟨t', h, htp, hform⟩ := handOn_eq_deskChange b t
  rw [h, ← htp, ← hform]
  exact deskChange_iff b t'

theorem handOn_tallies (b t : State) (n : Nat) :
    assocGet (handOn b t).desk.tallies n =
      if n ∈ changedTags b t then some .tally else assocGet t.desk.tallies n := by
  simp [handOn, assocGet_placeAll_tallies]

/-- The item of every sum that changed is requested (R103). -/
theorem mem_handOn_of_sum {fd : FieldDef} (hm : fd ∈ t.form.fields) (hk : isSumKind fd.shape.kind = true)
    (hne : instValue b.form (.field fd.number) ≠ instValue t.form (.field fd.number)) :
    Item.field fd.number ∈ (handOn b t).comp.items := by
  have hitem : ∀ p : Kind → Bool, p fd.shape.kind = true → Item.field fd.number ∈ fieldItems (changedFields p b t) :=
    fun p hp => List.mem_map.2 ⟨_, mem_changedFields.2 ⟨fd, hm, hp, hne, rfl⟩, rfl⟩
  simp only [handOn, deskChange_comp]
  rcases isSumKind_iff.1 hk with h | h
  · refine mem_requestAll_of_mem ?_
    rw [placeAll_comp]
    exact mem_requestAll (hitem (· = .columnSum) (by simp [h]))
  · exact mem_requestAll (hitem (· = .deskSum) (by simp [h]))

theorem mem_handOn_of_productRow {it : Item} (h : it ∈ productRows b t) : it ∈ (handOn b t).comp.items := by
  simp only [handOn, deskChange_comp]
  refine mem_requestAll_of_mem ?_
  rw [placeAll_comp]
  exact mem_requestAll_of_mem (mem_requestAll h)

end HandOn

section Lines

/-! ### Products that changed -/

/-- The keys of the contents, line by line. -/
def lineKeys (f : FormStore) : List (List Nat) := f.lines.map (fun ln => ln.cells.map (·.key))

theorem valFind_isSome {vs : List InstVal} {k : Nat} : (valFind vs k).isSome = true ↔ k ∈ vs.map (·.key) := by
  simp [valFind]

/-- Where two forms hold contents under the same keys, the value of a cell changes only if its line's value does. -/
theorem productRow_mem {b t : State} {k : Nat} {cd : ColumnDef} (hkeys : lineKeys t.form = lineKeys b.form)
    (hk : k < t.form.w) (hm : cd ∈ t.form.cols) (hprod : cd.shape.kind = .product)
    (hne : instValue t.form (.cell (t.cur.top + k) cd.number) ≠ instValue b.form (.cell (t.cur.top + k) cd.number)) :
    Item.bodyRow (t.form.h + k) ∈ productRows b t := by
  have hline := congrArg (·[t.cur.top + k]?) hkeys
  simp only [lineKeys, List.getElem?_map] at hline
  refine List.mem_map.2 ⟨k, List.mem_filter.2 ⟨List.mem_range.2 hk, ?_⟩, rfl⟩
  cases ht : t.form.lines[t.cur.top + k]? with
  | none =>
    rw [ht] at hline
    simp [instValue, ht, Option.map_eq_none_iff.1 hline.symm] at hne
  | some ln =>
    rw [ht] at hline
    obtain ⟨ln', hb, hcells⟩ := Option.map_eq_some_iff.1 hline.symm
    simp only [hb]
    refine List.any_eq_true.2 ⟨cd, hm, ?_⟩
    simp only [instValue, ht, hb, Option.bind_some] at hne
    have hsome : (valFind ln.cells cd.number).isSome = (valFind ln'.cells cd.number).isSome := by
      rw [Bool.eq_iff_iff, valFind_isSome, valFind_isSome, hcells]
    simp only [hprod, decide_true, Bool.true_and, decide_eq_true_eq]
    refine fun h => hne ?_
    simp only [lineValue] at h
    cases h1 : valFind ln.cells cd.number <;> cases h2 : valFind ln'.cells cd.number <;> simp_all

theorem lineKeys_recompute (lo n : Nat) (s : State) : lineKeys (recompute lo n s).form = lineKeys s.form := by
  refine List.ext_getElem? fun j => ?_
  simp only [lineKeys, List.getElem?_map, getElem?_recompute_lines, Option.map_map]
  refine congrArg (fun m => Option.map m _) (funext fun ln => ?_)
  simp only [Function.comp_apply]
  split
  · exact keys_lineProducts ..
  · rfl

/-- A recomputation from `t`, whose contents stand under the keys of `b`, is handed on by `handOn` (R103). -/
theorem handedOn_reckon {b t : State} (lo n : Nat)
    (hform : t.form = { b.form with vals := t.form.vals, lines := t.form.lines })
    (hkeys : lineKeys t.form = lineKeys b.form) (hcur : t.cur = b.cur) (hdesk : t.desk = b.desk) :
    HandedOn b (reckon b lo n t) := by
  have hactive : (recompute lo n t).desk.active =
      b.desk.active.map (fun p => (p.1, localShare (recompute lo n t).form p.1)) := by
    rw [recompute_desk_active, hdesk]
  obtain ⟨tags, tallies⟩ := tallies_of_changedTags hactive (u := reckon b lo n t) (handOn_desk_active ..)
    (fun m => by rw [reckon, handOn_tallies, recompute_desk_tallies, hdesk])
  have hfields : (recompute lo n t).form.fields = b.form.fields := by rw [recompute_form_fields, hform]
  have hcols : (recompute lo n t).form.cols = b.form.cols := by rw [recompute_form_cols, hform]
  have hw : (recompute lo n t).form.w = b.form.w := by rw [recompute_form_w, hform]
  have hh : (recompute lo n t).form.h = b.form.h := by rw [recompute_form_h, hform]
  have htop : (recompute lo n t).cur = b.cur := hcur
  refine ⟨tags, tallies, fun fd hm hk hne => ?_, fun k hk cd hm hp hne => ?_⟩
  · rw [reckon, handOn_form] at hne
    exact mem_handOn_of_sum (hfields ▸ hm) hk hne.symm
  · rw [reckon, handOn_form] at hne
    rw [← hh]
    rw [← htop] at hne
    exact mem_handOn_of_productRow (productRow_mem ((lineKeys_recompute ..).trans hkeys) (hw ▸ hk) (hcols ▸ hm) hp hne)

end Lines

end Sys2Proof.Machine

/-! ## System writes (R36 to R38)

What an accepted system write leaves of each block, what the written field or cell holds after it, and that what follows from
it is handed on. -/
namespace Sys2Proof.Machine

section StoredForm

/-! ### The value stored -/

/-- The form that `writeForm` makes. -/
def storedForm (mark : Bool) (i : Inst) (v : Value) (f : FormStore) : FormStore :=
  if mark then markInst i (setInstValue i v f) else setInstValue i v f

theorem writeForm_form (mark : Bool) (i : Inst) (v : Value) (s : State) :
    (writeForm mark i v s).form = storedForm mark i v s.form := rfl

variable {mark : Bool} {i j : Inst} {v : Value} {f : FormStore} {n l c k : Nat}

theorem storedForm_eq (mark : Bool) (i : Inst) (v : Value) (f : FormStore) :
    storedForm mark i v f =
      { f with vals := (storedForm mark i v f).vals, lines := (storedForm mark i v f).lines } := by
  cases mark <;> cases i <;> rfl

/-- A write to a field leaves the lines. -/
@[simp] theorem storedForm_field_lines (mark : Bool) (n : Nat) (v : Value) (f : FormStore) :
    (storedForm mark (.field n) v f).lines = f.lines := by
  cases mark <;> rfl

/-- A write to a cell leaves the fields' contents. -/
@[simp] theorem storedForm_cell_vals (mark : Bool) (l c : Nat) (v : Value) (f : FormStore) :
    (storedForm mark (.cell l c) v f).vals = f.vals := by
  cases mark <;> rfl

theorem valFind_storedForm_same (mark : Bool) (n : Nat) (v : Value) (f : FormStore) :
    valFind (storedForm mark (.field n) v f).vals n =
      (valFind f.vals n).map (fun w => { w with value := v, modified := w.modified || mark }) := by
  cases mark
  · simp [storedForm, setInstValue, valFind_valSet_same]
  · simp [storedForm, setInstValue, markInst, valFind_valMark_same, valFind_valSet_same, Function.comp_def]

theorem valFind_storedForm_ne (h : k ≠ n) : valFind (storedForm mark (.field n) v f).vals k = valFind f.vals k := by
  cases mark
  · exact valFind_valSet_ne h
  · exact (valFind_valMark_ne h).trans (valFind_valSet_ne h)

/-- The line record that a write to column `c` makes (R36). -/
def storedLine (mark : Bool) (c : Nat) (v : Value) (ln : LineRec) : LineRec :=
  { cells := if mark then valMark (valSet ln.cells c v) c else valSet ln.cells c v
    modified := ln.modified || mark }

theorem getElem?_storedForm_lines (mark : Bool) (l c : Nat) (v : Value) (f : FormStore) (k : Nat) :
    (storedForm mark (.cell l c) v f).lines[k]? =
      (f.lines[k]?).map (fun ln => if k = l then storedLine mark c v ln else ln) := by
  cases mark
  · simp [storedForm, setInstValue, getElem?_updAt, storedLine]
  · simp only [storedForm, setInstValue, markInst, getElem?_updAt, storedLine, if_true, Option.map_map, Bool.or_true]
    refine congrArg (fun m => Option.map m _) (funext fun ln => ?_)
    simp only [Function.comp_apply]
    split <;> rfl

theorem keys_storedLine (mark : Bool) (c : Nat) (v : Value) (ln : LineRec) :
    (storedLine mark c v ln).cells.map (·.key) = ln.cells.map (·.key) := by
  cases mark
  · exact keys_valSet ..
  · exact (keys_valMark ..).trans (keys_valSet ..)

theorem valFind_storedLine_same (mark : Bool) (c : Nat) (v : Value) (ln : LineRec) :
    valFind (storedLine mark c v ln).cells c =
      (valFind ln.cells c).map (fun w => { w with value := v, modified := w.modified || mark }) := by
  cases mark
  · simp [storedLine, valFind_valSet_same]
  · simp [storedLine, valFind_valMark_same, valFind_valSet_same, Function.comp_def]

theorem valFind_storedLine_ne (h : k ≠ c) (ln : LineRec) : valFind (storedLine mark c v ln).cells k = valFind ln.cells k := by
  cases mark
  · exact valFind_valSet_ne h
  · exact (valFind_valMark_ne h).trans (valFind_valSet_ne h)

theorem flag_storedLine (mark : Bool) (c : Nat) (v : Value) (ln : LineRec) (k : Nat) :
    (valFind (storedLine mark c v ln).cells k).map (·.modified) =
      (valFind ln.cells k).map (fun w => w.modified || (mark && decide (k = c))) := by
  by_cases hk : k = c
  · subst hk
    simp [valFind_storedLine_same, Function.comp_def]
  · simp [valFind_storedLine_ne hk, hk]

/-- The field or cell written holds the value. -/
theorem instValue_storedForm_same (mark : Bool) (v : Value) (h : instValue f i ≠ none) :
    instValue (storedForm mark i v f) i = some v := by
  cases i with
  | field n =>
    simp only [instValue, valFind_storedForm_same, Option.map_map]
    cases hw : valFind f.vals n with
    | none => simp [instValue, hw] at h
    | some w => rfl
  | cell l c =>
    simp only [instValue, getElem?_storedForm_lines, if_true]
    cases hl : f.lines[l]? with
    | none => simp [instValue, hl] at h
    | some ln =>
      simp only [Option.map_some, Option.bind_some, valFind_storedLine_same]
      cases hw : valFind ln.cells c with
      | none => simp [instValue, hl, hw] at h
      | some w => rfl

/-- Every other field and cell keeps its value. -/
theorem instValue_storedForm_ne (mark : Bool) (v : Value) (f : FormStore) (h : j ≠ i) :
    instValue (storedForm mark i v f) j = instValue f j := by
  cases i with
  | field n =>
    cases j with
    | field k => simp only [instValue, valFind_storedForm_ne (fun e => h (congrArg Inst.field e))]
    | cell l c => simp only [instValue, storedForm_field_lines]
  | cell l c =>
    cases j with
    | field k => simp only [instValue, storedForm_cell_vals]
    | cell k d =>
      simp only [instValue, getElem?_storedForm_lines, Option.bind_map]
      refine congrArg _ (funext fun ln => ?_)
      simp only [Function.comp_apply]
      split
      · next hk => rw [valFind_storedLine_ne (fun hd => h (by rw [hk, hd]))]
      · rfl

theorem instShape_storedForm (mark : Bool) (i : Inst) (v : Value) (f : FormStore) (j : Inst) :
    instShape (storedForm mark i v f) j = instShape f j := by
  rw [storedForm_eq]
  cases j <;> rfl

theorem lineKeys_storedForm (mark : Bool) (i : Inst) (v : Value) (f : FormStore) :
    lineKeys (storedForm mark i v f) = lineKeys f := by
  cases i with
  | field n => simp only [lineKeys, storedForm_field_lines]
  | cell l c =>
    refine List.ext_getElem? fun k => ?_
    simp only [lineKeys, List.getElem?_map, getElem?_storedForm_lines, Option.map_map]
    refine congrArg (fun m => Option.map m _) (funext fun ln => ?_)
    simp only [Function.comp_apply]
    split
    · exact keys_storedLine ..
    · rfl

end StoredForm

section StoreSystem

/-! ### The write -/

/-- The machine between the store of the value and what follows from it. -/
def stored (i : Inst) (sh : Shape) (mark : Bool) (v : Value) (s : State) : State :=
  writeForm (mark && differs s i v && isEntryKind sh.kind) i v (dropEditOn i s)

variable {i j : Inst} {sh : Shape} {mark : Bool} {v : Value} {s : State}

theorem stored_form (i : Inst) (sh : Shape) (mark : Bool) (v : Value) (s : State) :
    (stored i sh mark v s).form = storedForm (mark && differs s i v && isEntryKind sh.kind) i v s.form := by
  rw [stored, writeForm_form, dropEditOn_form]

theorem stored_tp (i : Inst) (sh : Shape) (mark : Bool) (v : Value) (s : State) :
    (stored i sh mark v s).tp = s.tp := by
  simp [stored]

theorem stored_cur (i : Inst) (sh : Shape) (mark : Bool) (v : Value) (s : State) :
    (stored i sh mark v s).cur = s.cur := by
  simp [stored]

theorem stored_desk (i : Inst) (sh : Shape) (mark : Bool) (v : Value) (s : State) :
    (stored i sh mark v s).desk = s.desk := by
  simp [stored]

/-- A write that changes a NUMBER recomputes (R102). -/
theorem storeSystem_of_number (hd : differs s i v = true) (hk : sh.kind = .number) :
    storeSystem i sh mark v s =
      requestInst i (reckon s (instLines i).1 (instLines i).2 (stored i sh mark v s)) := by
  simp [storeSystem, hd, hk, reckonIf, requestIf, stored]

/-- Any other write stops at the store. -/
theorem storeSystem_of_not_number (h : differs s i v = false ∨ sh.kind ≠ .number) :
    storeSystem i sh mark v s =
      requestIf (differs s i v || decide (editInst s = some i)) i (stored i sh mark v s) := by
  rcases h with h | h <;> simp [storeSystem, h, reckonIf, stored]

theorem differs_iff : differs s i v = true ↔ instValue s.form i ≠ some v := by
  simp [differs]

theorem storeSystem_cases (i : Inst) (sh : Shape) (v : Value) (s : State) :
    (differs s i v = true ∧ sh.kind = .number) ∨ (differs s i v = false ∨ sh.kind ≠ .number) := by
  cases differs s i v <;> simp [em]

/-- The form after a write, read through the recomputation where one follows. -/
theorem storeSystem_form_of_number (hd : differs s i v = true) (hk : sh.kind = .number) :
    (storeSystem i sh mark v s).form = (recompute (instLines i).1 (instLines i).2 (stored i sh mark v s)).form := by
  simp [storeSystem_of_number hd hk, reckon]

theorem storeSystem_form_of_not_number (h : differs s i v = false ∨ sh.kind ≠ .number) :
    (storeSystem i sh mark v s).form = storedForm (mark && differs s i v && isEntryKind sh.kind) i v s.form := by
  rw [storeSystem_of_not_number h, requestIf_form, stored_form]

/-! ### Blocks that stand -/

theorem storeSystem_tp_eq (i : Inst) (sh : Shape) (mark : Bool) (v : Value) (s : State) :
    (storeSystem i sh mark v s).tp = { s.tp with
      edge := { s.tp.edge with deskChange := (storeSystem i sh mark v s).tp.edge.deskChange } } := by
  rcases storeSystem_cases i sh v s with ⟨hd, hk⟩ | h
  · rw [storeSystem_of_number hd hk, requestInst_tp, reckon, handOn_tp_eq, recompute_tp, stored_tp]
  · rw [storeSystem_of_not_number h, requestIf_tp, stored_tp]

theorem storeSystem_key (i : Inst) (sh : Shape) (mark : Bool) (v : Value) (s : State) :
    (storeSystem i sh mark v s).key =
      { s.key with edit := if s.key.edit.map (·.inst) = some i then none else s.key.edit } := by
  have hdrop : (storeSystem i sh mark v s).key = (dropEditOn i s).key := by simp [storeSystem]
  rw [hdrop, dropEditOn]
  split
  · next h => rw [if_pos (show s.key.edit.map (·.inst) = some i from h)]; rfl
  · next h => rw [if_neg (show ¬s.key.edit.map (·.inst) = some i from h)]

theorem storeSystem_comp_eq (i : Inst) (sh : Shape) (mark : Bool) (v : Value) (s : State) :
    (storeSystem i sh mark v s).comp = { s.comp with
      items := (storeSystem i sh mark v s).comp.items, remark := (storeSystem i sh mark v s).comp.remark } :=
  (storeSystem_frame ..).comp_eq (storeSystem_comp_image ..)

/-- A write that recomputes nothing leaves the Desk Exchange and the causes. -/
theorem storeSystem_desk_of_not_number (h : differs s i v = false ∨ sh.kind ≠ .number) :
    (storeSystem i sh mark v s).desk = s.desk := by
  rw [storeSystem_of_not_number h, requestIf_desk, stored_desk]

theorem storeSystem_tp_of_not_number (h : differs s i v = false ∨ sh.kind ≠ .number) :
    (storeSystem i sh mark v s).tp = s.tp := by
  rw [storeSystem_of_not_number h, requestIf_tp, stored_tp]

/-! ### Values and flags -/

/-- The field or cell written holds the value. -/
theorem instValue_storeSystem_same (hi : instShape s.form i = some sh) (h : instValue s.form i ≠ none) :
    instValue (storeSystem i sh mark v s).form i = some v := by
  rcases storeSystem_cases i sh v s with ⟨hd, hk⟩ | hn
  · rw [storeSystem_form_of_number hd hk, instValue_recompute_of_storesOwn (sh := sh), stored_form,
      instValue_storedForm_same _ _ h]
    · rw [stored_form, instShape_storedForm, hi]
    · simp [hk, storesOwn, isEntryKind]
  · rw [storeSystem_form_of_not_number hn, instValue_storedForm_same _ _ h]

/-- Every other field and cell with a value of its own keeps it. -/
theorem instValue_storeSystem_ne {shj : Shape} (hj : instShape s.form j = some shj) (hk : storesOwn shj.kind = true)
    (hne : j ≠ i) : instValue (storeSystem i sh mark v s).form j = instValue s.form j := by
  rcases storeSystem_cases i sh v s with ⟨hd, hn⟩ | hn
  · rw [storeSystem_form_of_number hd hn, instValue_recompute_of_storesOwn (sh := shj), stored_form,
      instValue_storedForm_ne _ _ _ hne]
    · rw [stored_form, instShape_storedForm, hj]
    · exact hk
  · rw [storeSystem_form_of_not_number hn, instValue_storedForm_ne _ _ _ hne]

/-- A write to a field leaves the lines. -/
theorem storeSystem_field_lines (n : Nat) (sh : Shape) (mark : Bool) (v : Value) (s : State) :
    (storeSystem (.field n) sh mark v s).form.lines = s.form.lines := by
  rcases storeSystem_cases (.field n) sh v s with ⟨hd, hk⟩ | hn
  · rw [storeSystem_form_of_number hd hk]
    refine List.ext_getElem? fun j => ?_
    rw [getElem?_recompute_lines, stored_form, storedForm_field_lines]
    simp [instLines]
  · rw [storeSystem_form_of_not_number hn, storedForm_field_lines]

theorem storeSystem_field_form (n : Nat) (sh : Shape) (mark : Bool) (v : Value) (s : State) :
    (storeSystem (.field n) sh mark v s).form =
      { s.form with vals := (storeSystem (.field n) sh mark v s).form.vals } := by
  have h := (storeSystem_frame (.field n) sh mark v s).form_eq
  rwa [storeSystem_field_lines] at h

/-- A write to a field sets its modified flag where it is to and the value changes, and no other flag (R36). -/
theorem flag_storeSystem_field (n : Nat) (sh : Shape) (mark : Bool) (v : Value) (s : State) (k : Nat) :
    (valFind (storeSystem (.field n) sh mark v s).form.vals k).map (·.modified) =
      (valFind s.form.vals k).map (fun w => w.modified ||
        (mark && differs s (.field n) v && isEntryKind sh.kind && decide (k = n))) := by
  have hstored : (valFind (stored (.field n) sh mark v s).form.vals k).map (·.modified) =
      (valFind s.form.vals k).map (fun w => w.modified ||
        (mark && differs s (.field n) v && isEntryKind sh.kind && decide (k = n))) := by
    rw [stored_form]
    by_cases hk : k = n
    · subst hk
      simp [valFind_storedForm_same, Function.comp_def]
    · simp [valFind_storedForm_ne hk, hk]
  rcases storeSystem_cases (.field n) sh v s with ⟨hd, hk⟩ | hn
  · rw [storeSystem_form_of_number hd hk, flag_valFind_recompute, hstored]
  · rw [storeSystem_form_of_not_number hn, ← stored_form, hstored]

/-- A write to a cell leaves the flags of the fields. -/
theorem flag_storeSystem_cell (l c : Nat) (sh : Shape) (mark : Bool) (v : Value) (s : State) (k : Nat) :
    (valFind (storeSystem (.cell l c) sh mark v s).form.vals k).map (·.modified) =
      (valFind s.form.vals k).map (·.modified) := by
  rcases storeSystem_cases (.cell l c) sh v s with ⟨hd, hk⟩ | hn
  · rw [storeSystem_form_of_number hd hk, flag_valFind_recompute, stored_form, storedForm_cell_vals]
  · rw [storeSystem_form_of_not_number hn, storedForm_cell_vals]

/-- The lines after a write that changes a NUMBER cell: its own line written and its products computed. -/
theorem getElem?_storeSystem_lines {l c : Nat} (hd : differs s (.cell l c) v = true) (hk : sh.kind = .number) (k : Nat) :
    (storeSystem (.cell l c) sh mark v s).form.lines[k]? = (s.form.lines[k]?).map (fun ln =>
      if k = l then lineProducts (stored (.cell l c) sh mark v s).form (storedLine mark c v ln) else ln) := by
  rw [storeSystem_form_of_number hd hk, getElem?_recompute_lines]
  conv_lhs => rw [show (stored (.cell l c) sh mark v s).form.lines[k]? = _ from by
    rw [stored_form, getElem?_storedForm_lines]]
  rw [Option.map_map]
  refine congrArg (fun m => Option.map m _) (funext fun ln => ?_)
  by_cases hkl : k = l
  · subst hkl
    simp [instLines, hd, hk, isEntryKind]
  · simp only [instLines, hkl, if_false, Function.comp_apply, show ¬(l ≤ k ∧ k < l + 1) by omega]

/-! ### What follows -/

/-- The item of a field or cell whose value changes is requested (R37). -/
theorem mem_storeSystem_of_differs {it : Item} (hd : differs s i v = true) (hit : instItem s.form s.cur.top i = some it) :
    it ∈ (storeSystem i sh mark v s).comp.items := by
  simp only [storeSystem, hd, Bool.true_or, requestIf, if_true]
  refine mem_requestInst ?_
  rw [reckonIf_cur, writeForm_cur, dropEditOn_cur, ← hit]
  exact instItem_congr (by simp) (by simp) ..

/-- After a write that changes a NUMBER every sum follows (R99 to R102). -/
theorem sumsFollow_storeSystem (hd : differs s i v = true) (hk : sh.kind = .number) :
    sumsFollow (storeSystem i sh mark v s) := by
  rw [storeSystem_of_number hd hk]
  exact sumsFollow_congr (t := recompute (instLines i).1 (instLines i).2 (stored i sh mark v s)) (by simp [reckon])
    (by simp [reckon]) (by simp [reckon]) (sumsFollow_recompute ..)

/-- After a write that changes a NUMBER cell the products of its line follow (R98). -/
theorem productsFollow_storeSystem {l c : Nat} (hd : differs s (.cell l c) v = true) (hk : sh.kind = .number) :
    productsFollow (storeSystem (.cell l c) sh mark v s).form l := by
  rw [storeSystem_form_of_number hd hk]
  exact productsFollow_recompute _ _ _ ⟨Nat.le_refl l, Nat.lt_succ_self l⟩

theorem lineKeys_stored (i : Inst) (sh : Shape) (mark : Bool) (v : Value) (s : State) :
    lineKeys (stored i sh mark v s).form = lineKeys s.form := by
  rw [stored_form, lineKeys_storedForm]

/-- HandedOn passes on to a state that only adds repaint items. -/
theorem HandedOn.of_keyFrame {b t u : State} (h : HandedOn b t) (hf : KeyFrame t u) (hform : u.form = t.form)
    (hdesk : u.desk = t.desk) : HandedOn b u where
  tags n := by rw [hdesk, h.tags]
  tallies n := by rw [hdesk, h.tallies]
  sums fd hm hk hne := hf.comp.keeps _ (h.sums fd hm hk (hform ▸ hne))
  products k hk cd hm hp hne := hf.comp.keeps _ (h.products k hk cd hm hp (hform ▸ hne))

/-- Nothing is left to hand on where the Desk Exchange stands and one field's value alone changed, whose item is
requested. -/
theorem handedOn_of_field {b u : State} {n : Nat} (hdesk : u.desk = b.desk) (hlines : u.form.lines = b.form.lines)
    (hothers : ∀ k ≠ n, instValue u.form (.field k) = instValue b.form (.field k))
    (hitem : instValue u.form (.field n) ≠ instValue b.form (.field n) → Item.field n ∈ u.comp.items) : HandedOn b u where
  tags m := by rw [hdesk]
  tallies m := by rw [hdesk, if_pos rfl]
  sums fd _ _ hne := by
    by_cases hn : fd.number = n
    · exact hn ▸ hitem (hn ▸ hne)
    · exact absurd (hothers _ hn) hne
  products k _ cd _ _ hne := absurd (by simp only [instValue, hlines]) hne

theorem handedOn_storeSystem_of_number (hd : differs s i v = true) (hk : sh.kind = .number) :
    HandedOn s (storeSystem i sh mark v s) := by
  rw [storeSystem_of_number hd hk]
  refine (handedOn_reckon _ _ ?_ (lineKeys_stored ..) (stored_cur ..) (stored_desk ..)).of_keyFrame (requestInst_frame ..)
    (requestInst_form ..) (requestInst_desk ..)
  rw [stored_form, ← storedForm_eq]

theorem handedOn_storeSystem_field (n : Nat) (sh : Shape) (mark : Bool) (v : Value) (s : State)
    (hn : instValue s.form (.field n) ≠ none) : HandedOn s (storeSystem (.field n) sh mark v s) := by
  rcases storeSystem_cases (.field n) sh v s with ⟨hd, hk⟩ | h
  · exact handedOn_storeSystem_of_number hd hk
  · refine handedOn_of_field (n := n) (storeSystem_desk_of_not_number h) (storeSystem_field_lines ..) (fun k hk => ?_)
      fun hne => ?_
    · rw [storeSystem_form_of_not_number h, instValue_storedForm_ne _ _ _ (fun e => hk (Inst.field.inj e))]
    · rw [storeSystem_form_of_not_number h, instValue_storedForm_same _ _ hn] at hne
      exact mem_storeSystem_of_differs (differs_iff.2 hne.symm) rfl

/-- A write raises DESK CHANGE exactly when it changed a DESK SUM (R104); a write that recomputes nothing must not name
such a field. -/
theorem deskChangeRight_storeSystem (h : sh.kind = .number ∨
      ∀ fd ∈ s.form.fields, .field fd.number = i → fd.shape.kind ≠ .deskSum) :
    deskChangeRight s (storeSystem i sh mark v s) := by
  rcases storeSystem_cases i sh v s with ⟨hd, hk⟩ | hn
  · have hiff := handOn_deskChange_iff s (recompute (instLines i).1 (instLines i).2 (stored i sh mark v s))
    rw [recompute_tp, stored_tp, recompute_form_fields, stored_form, storedForm_eq] at hiff
    rw [deskChangeRight, storeSystem_form_of_number hd hk, storeSystem_of_number hd hk, requestInst_tp]
    exact hiff
  · rw [deskChangeRight, storeSystem_tp_of_not_number hn]
    refine ⟨.inl, fun hor => hor.resolve_right ?_⟩
    rintro ⟨fd, hm, hsum, hne⟩
    refine hne ?_
    rw [storeSystem_form_of_not_number hn]
    by_cases hi : .field fd.number = i
    · have hsame : instValue s.form i = some v := by
        have hd := hn.resolve_right (not_not.2 (h.resolve_right fun hno => hno fd hm hi hsum))
        simpa [differs] using hd
      rw [hi, instValue_storedForm_same _ _ (by simp [hsame]), hsame]
    · exact instValue_storedForm_ne _ _ _ hi

/-- What an accepted system write of `v` into `i` leaves of each block, and the values after it: `i`
holds `v` and every other one that holds a value of its own keeps it (R36 to R38). -/
structure SystemWrite (i : Inst) (v : Value) (s t : State) : Prop where
  port : t.tp = { s.tp with edge := { s.tp.edge with deskChange := t.tp.edge.deskChange } }
  cur : t.cur = s.cur
  send : t.send = s.send
  line : t.line = { s.line with taken := t.line.taken }
  desk : t.desk = { s.desk with active := t.desk.active, tallies := t.desk.tallies }
  comp : t.comp = { s.comp with items := t.comp.items, remark := t.comp.remark }
  key : t.key = { s.key with edit := if s.key.edit.map (·.inst) = some i then none else s.key.edit }
  form : t.form = { s.form with vals := t.form.vals, lines := t.form.lines }
  value : instValue t.form i = some v
  others : ∀ j sh, j ≠ i → instShape s.form j = some sh → storesOwn sh.kind = true →
    instValue t.form j = instValue s.form j

theorem SystemWrite.key_eq {t : State} (h : SystemWrite i v s t) : t.key = { s.key with edit := t.key.edit } := by
  rw [h.key]

theorem systemWrite_storeSystem (mark : Bool) (v : Value) (hi : instShape s.form i = some sh)
    (h : instValue s.form i ≠ none) : SystemWrite i v s (storeSystem i sh mark v s) where
  port := storeSystem_tp_eq ..
  cur := storeSystem_cur ..
  send := storeSystem_send ..
  line := (storeSystem_frame ..).line_eq
  desk := (storeSystem_frame ..).desk_eq
  comp := storeSystem_comp_eq ..
  key := storeSystem_key ..
  form := (storeSystem_frame ..).form_eq
  value := instValue_storeSystem_same hi h
  others _ _ hne hj hk := instValue_storeSystem_ne hj hk hne

end StoreSystem

end Sys2Proof.Machine

/-! ## FIELD WRITE and CELL WRITE -/
namespace Sys2Proof.Proofs

open Machine

section Writes

variable {s t : State} {i : Inst} {sh : Shape} {a : WriteArgs} {data : List Byte} {v : Value} {chars : Text}

/-! ### Between an order's frame and what its rule makes -/

theorem handedOn_of_inFrame {k : Nat} {o : OrderOutcome} (h : HandedOn (inFrame k s) t) : HandedOn s (record o t) :=
  ⟨h.tags, h.tallies, h.sums, h.products⟩

/-- The modified flags of two contents under one key, from what is said of the whole list. -/
theorem flag_of_map_eq {o o' : Option InstVal} {g : InstVal → Bool} (h : o'.map (·.modified) = o.map g) {w w' : InstVal}
    (ho : o = some w) (ho' : o' = some w') : w'.modified = g w := by
  simpa [ho, ho'] using h

/-! ### The write of decoded data -/

theorem writeArgs_eq {mode start format : Byte} {f : Format} (hm : mode.toNat ≤ 3) (hf : formatOf format = some f) :
    writeArgs mode start format =
      some { overlay := mode.getLsbD 0, mark := mode.getLsbD 1, start := start.toNat, format := f } := by
  simp [writeArgs, Nat.not_lt.2 hm, hf]

/-- NUMBER text is one numeral, whatever write mode and start offset say (R34). -/
theorem writtenValue_number (hk : sh.kind = .number) (overlay : Bool) (start : Nat) (old : Value) (t : Text) :
    writtenValue sh overlay start old t = parseSystem sh t := by
  simp [writtenValue, hk]

theorem writeInst_ok (hstart : a.start < sh.length) (hd : decodeData a.format data = some chars)
    (hv : writtenValue sh a.overlay a.start ((instValue s.form i).getD .absent) chars = some v) :
    writeInst i sh a data s = .ok (storeSystem i sh a.mark v s) := by
  simp [writeInst, Nat.not_le.2 hstart, hd, hv]

/-- Data that its format or its destination refuses (R31, R32, R97). -/
theorem writeInst_badValue (hstart : a.start < sh.length)
    (hv : (decodeData a.format data).bind (writtenValue sh a.overlay a.start ((instValue s.form i).getD .absent)) = none) :
    writeInst i sh a data s = .error .badValue := by
  cases hd : decodeData a.format data with
  | none => simp [writeInst, Nat.not_le.2 hstart, hd]
  | some chars =>
    rw [hd, Option.bind_some] at hv
    simp [writeInst, Nat.not_le.2 hstart, hd, hv]

theorem fieldWriteBody_eq {n : Nat} {fd : FieldDef} (ha : s.form.state = .active) (hs : s.send.state ≠ .assembling)
    (hf : findField s.form n = some fd) (hk : isSumKind fd.shape.kind = false) :
    fieldWriteBody n (some a) data s = writeInst (.field n) fd.shape a data s := by
  simp [fieldWriteBody, contentGate_eq_none ha hs, hf, hk]

theorem cellWriteBody_eq {l c : Nat} {cd : ColumnDef} (ha : s.form.state = .active) (hs : s.send.state ≠ .assembling)
    (hl : l < s.form.d) (hc : findCol s.form c = some cd) (hp : cd.shape.kind ≠ .product) (ho : cd.shape.kind ≠ .ordinal) :
    cellWriteBody l c (some a) data s = writeInst (.cell l c) cd.shape a data s := by
  simp [cellWriteBody, contentGate_eq_none ha hs, Nat.not_le.2 hl, hc, hp, ho]

end Writes

/-- Settles O22: the write changes a NUMBER cell, so that the recomputation of its line and of every sum follows it. -/
theorem numberCellWriteRecomputes : Obligations.NumberCellWriteRecomputes := by
  intro l c mode start format data f t v cd s hp ha hs hl hm hc hk hstart hf hdec hv hsome hne
  have hbody : cellWriteBody l.toNat c.toNat (writeArgs mode start format) data (inFrame (6 + data.length) s) =
      .ok (storeSystem (.cell l.toNat c.toNat) cd.shape (mode.getLsbD 1) v (inFrame (6 + data.length) s)) := by
    rw [writeArgs_eq hm hf]
    exact (cellWriteBody_eq (s := inFrame _ s) ha hs hl hc (by simp [hk]) (by simp [hk])).trans
      (writeInst_ok hstart hdec ((writtenValue_number hk ..).trans hv))
  have hd : differs (inFrame (6 + data.length) s) (.cell l.toNat c.toNat) v = true := differs_iff.2 hne
  have hwrite : SystemWrite _ _ (inFrame (6 + data.length) s) _ :=
    systemWrite_storeSystem (mode.getLsbD 1) v (sh := cd.shape) (by simp [instShape, hc]) hsome
  have hchange := deskChangeRight_storeSystem (i := .cell l.toNat c.toNat) (mark := mode.getLsbD 1) (v := v)
    (s := inFrame (6 + data.length) s) (.inl hk)
  have hline := getElem?_storeSystem_lines (mark := mode.getLsbD 1) hd hk
  have hflag := flag_storeSystem_cell l.toNat c.toNat cd.shape (mode.getLsbD 1) v (inFrame (6 + data.length) s)
  have hproducts := productsFollow_storeSystem (mark := mode.getLsbD 1) hd hk
  have hsums := sumsFollow_storeSystem (mark := mode.getLsbD 1) hd hk
  have hhanded := handedOn_storeSystem_of_number (mark := mode.getLsbD 1) hd hk
  generalize storeSystem (.cell l.toNat c.toNat) cd.shape (mode.getLsbD 1) v (inFrame (6 + data.length) s) = T at *
  refine ⟨record .done T, order_taken (by omega) hp hbody, ?_, hchange, hwrite.cur, hwrite.send, hwrite.key_eq, hwrite.line,
    hwrite.desk, hwrite.form, hwrite.value, hwrite.others, fun k hkl => ?_, fun ln ln' hln hln' => ?_,
    fun k w w' hw hw' => flag_of_map_eq (hflag k) hw hw', hproducts, hsums, handedOn_of_inFrame hhanded⟩
  · exact congrArg (fun p : TpPort => { p with outcome := .done }) hwrite.port
  · refine (hline k).trans ?_
    simp only [if_neg hkl]
    exact Option.map_id' ..
  · have hwritten := hline l.toNat
    rw [inFrame_form, hln, Option.map_some, if_pos rfl] at hwritten
    obtain rfl := Option.some.inj (hwritten.symm.trans hln')
    exact ⟨rfl, fun k w w' hw hw' => flag_of_map_eq ((flag_valFind_lineProducts ..).trans (flag_storedLine ..)) hw hw'⟩

end Sys2Proof.Proofs

/-! ## Characters written one by one (R33) -/
namespace Sys2Proof.Proofs

open Machine

section WrapWrite

variable {len pos : Nat} {cs base : Text}

theorem length_wrapWrite (len pos : Nat) (cs base : Text) : (wrapWrite len pos cs base).length = base.length := by
  induction cs generalizing pos base with
  | nil => rfl
  | cons c cs ih => rw [wrapWrite, ih, List.length_set]

/-- The position after `pos`, round the field. -/
theorem next_eq_mod (h : pos < len) : (if pos + 1 = len then 0 else pos + 1) = (pos + 1) % len := by
  split
  · next e => rw [e, Nat.mod_self]
  · exact (Nat.mod_eq_of_lt (by omega)).symm

/-- A position that no character reaches keeps what stood there. -/
theorem getElem?_wrapWrite_of_not_reached (hpos : pos < len) {p : Nat} (hp : ∀ m < cs.length, (pos + m) % len ≠ p) :
    (wrapWrite len pos cs base)[p]? = base[p]? := by
  induction cs generalizing pos base with
  | nil => rfl
  | cons c cs ih =>
    have h0 : pos ≠ p := by simpa [Nat.mod_eq_of_lt hpos] using hp 0 (by simp)
    rw [wrapWrite, next_eq_mod hpos, ih (Nat.mod_lt _ (by omega)) fun m hm => ?_, List.getElem?_set_ne h0]
    have hnext := hp (m + 1) (by simpa using hm)
    rwa [Nat.mod_add_mod, Nat.add_right_comm]

/-- A position holds the last character that reaches it. -/
theorem getElem?_wrapWrite_of_last (hpos : pos < len) (hbase : base.length = len) {m : Nat} {b : Byte}
    (hb : cs[m]? = some b) (hlast : cs.length ≤ m + len) : (wrapWrite len pos cs base)[(pos + m) % len]? = some b := by
  induction cs generalizing pos base m with
  | nil => simp at hb
  | cons c cs ih =>
    rw [wrapWrite, next_eq_mod hpos]
    cases m with
    | zero =>
      cases hb
      simp only [List.length_cons] at hlast
      rw [show (pos + 0) % len = pos from Nat.mod_eq_of_lt hpos,
        getElem?_wrapWrite_of_not_reached (Nat.mod_lt _ (by omega)) fun m hm => ?_, List.getElem?_set_self (by omega)]
      rw [Nat.mod_add_mod]
      by_cases hround : pos + 1 + m < len
      · rw [Nat.mod_eq_of_lt hround]
        omega
      · rw [Nat.mod_eq_sub_mod (by omega), Nat.mod_eq_of_lt (by omega)]
        omega
    | succ m =>
      have h := ih (pos := (pos + 1) % len) (base := base.set pos c) (Nat.mod_lt _ (by omega))
        (by rw [List.length_set, hbase]) (m := m) hb (by simp only [List.length_cons] at hlast; omega)
      rwa [Nat.mod_add_mod, Nat.add_right_comm] at h

/-- Characters that stay within the field stand between what stood before and after them. -/
theorem wrapWrite_eq_append (hbase : base.length = len) (hfit : pos + cs.length ≤ len) (hpos : pos < len) :
    wrapWrite len pos cs base = base.take pos ++ cs ++ base.drop (pos + cs.length) := by
  refine List.ext_getElem? fun p => ?_
  by_cases hin : pos ≤ p ∧ p < pos + cs.length
  · obtain ⟨m, rfl⟩ : ∃ m, p = pos + m := ⟨p - pos, by omega⟩
    have hm : m < cs.length := by omega
    have h := getElem?_wrapWrite_of_last hpos hbase (List.getElem?_eq_getElem hm) (by omega)
    rw [Nat.mod_eq_of_lt (by omega)] at h
    rw [h, List.append_assoc, List.getElem?_append_right (by simp), List.getElem?_append_left (by simp; omega)]
    simp [show min pos base.length = pos by omega]
  · rw [getElem?_wrapWrite_of_not_reached hpos fun m hm => by rw [Nat.mod_eq_of_lt (by omega)]; omega]
    by_cases hlo : p < pos
    · rw [List.append_assoc, List.getElem?_append_left (by simp; omega), List.getElem?_take_of_lt hlo]
    · rw [List.getElem?_append_right (by simp; omega), List.getElem?_drop]
      simp only [List.length_append, List.length_take]
      congr 1
      omega

end WrapWrite

section Text

variable {sh : Shape} {t : Text}

/-- Text for a TEXT or DISPLAY destination, or digits and blanks for a DIGITS one (R32, R33). -/
theorem writtenValue_text (hk : sh.kind = .text ∨ sh.kind = .display ∨ (sh.kind = .digits ∧ t.all digitsAllowed = true))
    (overlay : Bool) (start : Nat) (old : Value) :
    writtenValue sh overlay start old t = some (.text (wrapWrite sh.length start (t.map (foldChar sh))
      (if overlay then storedText sh old else List.replicate sh.length blank))) := by
  rcases hk with hk | hk | ⟨hk, ht⟩
  · simp [writtenValue, hk]
  · simp [writtenValue, hk]
  · simp only [writtenValue, hk, ht, reduceCtorEq, if_false, Bool.true_eq_false, and_false]

/-- A DIGITS destination refuses any other character (R32). -/
theorem writtenValue_digits_none (hk : sh.kind = .digits) (ht : ∃ b ∈ t, digitsAllowed b = false) (overlay : Bool)
    (start : Nat) (old : Value) : writtenValue sh overlay start old t = none := by
  have hall : t.all digitsAllowed = false := by simpa using ht
  simp only [writtenValue, hk, hall, reduceCtorEq, if_false, and_self, if_true]

end Text

end Sys2Proof.Proofs

/-! ## Numerals of system text (R97) -/
namespace Sys2Proof.Proofs

open Machine

section Numerals

variable {sh : Shape} {t before after mid ip pt fp : Text} {neg : Bool}

/-! ### Blanks around a text -/

/-- A text that holds no blank is what is left of it between blanks. -/
theorem stripBlanks_eq (hout : ∀ b ∈ before ++ after, b = blank) (hmid : ∀ b ∈ mid, b ≠ blank) :
    stripBlanks (before ++ mid ++ after) = mid := by
  have hb : ∀ b ∈ before, decide (b = blank) = true := fun b h => decide_eq_true (hout b (List.mem_append_left _ h))
  have ha : ∀ b ∈ after.reverse, decide (b = blank) = true := fun b h =>
    decide_eq_true (hout b (List.mem_append_right _ (List.mem_reverse.1 h)))
  have hstop : ∀ m : Text, (∀ b ∈ m, b ≠ blank) → m.dropWhile (fun b => b = blank) = m := fun m hm => by
    cases m with
    | nil => rfl
    | cons c m => simp [hm c List.mem_cons_self]
  rw [stripBlanks, List.append_assoc, List.dropWhile_append_of_pos hb]
  cases mid with
  | nil =>
    have h : after.dropWhile (fun b => b = blank) = [] :=
      List.dropWhile_eq_nil_iff.2 fun b h => ha b (List.mem_reverse.2 h)
    rw [List.nil_append, h]
    rfl
  | cons c mid =>
    rw [List.cons_append, List.dropWhile_cons_of_neg (by simpa using hmid c List.mem_cons_self), ← List.cons_append,
      List.reverse_append, List.dropWhile_append_of_pos ha,
      hstop _ (fun b h => hmid b (List.mem_reverse.1 h)), List.reverse_reverse]

theorem stripBlanks_of_blank (h : ∀ b ∈ t, b = blank) : stripBlanks t = [] := by
  have hstrip := stripBlanks_eq (before := t) (mid := []) (after := []) (by simpa using h) (by simp)
  simpa using hstrip

/-- Every text is blanks, what `stripBlanks` leaves of it, and blanks. -/
theorem exists_stripBlanks (t : Text) :
    ∃ before after, (∀ b ∈ before ++ after, b = blank) ∧ t = before ++ stripBlanks t ++ after := by
  refine ⟨t.takeWhile (fun b => b = blank), ((t.dropWhile (fun b => b = blank)).reverse.takeWhile (fun b => b = blank)).reverse,
    fun b hb => ?_, ?_⟩
  · rcases List.mem_append.1 hb with h | h
    · simpa using List.mem_takeWhile_imp h
    · simpa using List.mem_takeWhile_imp (List.mem_reverse.1 h)
  · rw [stripBlanks, List.append_assoc, ← List.reverse_append, List.takeWhile_append_dropWhile, List.reverse_reverse,
      List.takeWhile_append_dropWhile]

/-! ### Sign, digits and point -/

/-- The minus sign of a numeral, where it has one. -/
def signText (neg : Bool) : Text := if neg then [minus] else []

theorem splitSign_append (h : neg = false → mid.head? ≠ some minus) : splitSign (signText neg ++ mid) = (neg, mid) := by
  cases neg with
  | true => simp [signText, splitSign]
  | false =>
    cases mid with
    | nil => rfl
    | cons c mid =>
      have hc : c ≠ minus := by simpa using h rfl
      simp [signText, splitSign, hc]

theorem eq_of_splitSign (h : splitSign t = (neg, mid)) : t = signText neg ++ mid := by
  unfold splitSign at h
  split at h
  · cases h; rfl
  · split at h
    · next hb => cases h; simp [signText, hb]
    · cases h; rfl

theorem splitNumeral_append (hpt : (pt = [] ∧ fp = []) ∨ pt = [point]) (hd : ∀ b ∈ ip ++ fp, isDigit b = true) :
    splitNumeral (ip ++ pt ++ fp) = some (ip, fp) := by
  have hip : ∀ b ∈ ip, isDigit b = true := fun b h => hd b (List.mem_append_left _ h)
  have hfp : fp.all isDigit = true := List.all_eq_true.2 fun b h => hd b (List.mem_append_right _ h)
  unfold splitNumeral
  rw [List.append_assoc, List.dropWhile_append_of_pos hip, List.takeWhile_append_of_pos hip]
  have hpoint : isDigit point = false := by decide
  rcases hpt with ⟨rfl, rfl⟩ | rfl
  · simp
  · simp [hpoint, hfp]

theorem of_splitNumeral (h : splitNumeral t = some (ip, fp)) :
    ∃ pt, ((pt = [] ∧ fp = []) ∨ pt = [point]) ∧ (∀ b ∈ ip ++ fp, isDigit b = true) ∧ t = ip ++ pt ++ fp := by
  have htake : ∀ b ∈ t.takeWhile isDigit, isDigit b = true := fun b hb => List.mem_takeWhile_imp hb
  have hsplit := List.takeWhile_append_dropWhile (p := isDigit) (l := t)
  unfold splitNumeral at h
  split at h
  · next hnil =>
    cases h
    rw [hnil, List.append_nil] at hsplit
    exact ⟨[], .inl ⟨rfl, rfl⟩, by simpa using htake, by simpa using hsplit.symm⟩
  · next b fr hcons =>
    split at h
    · next hpoint =>
      cases h
      obtain ⟨rfl, hfr⟩ := hpoint
      refine ⟨[point], .inr rfl, fun b hb => ?_, ?_⟩
      · rcases List.mem_append.1 hb with hb | hb
        · exact htake b hb
        · exact List.all_eq_true.1 hfr b hb
      · rw [hcons] at hsplit
        rw [List.append_assoc]
        exact hsplit.symm
    · cases h

/-! ### The whole -/

theorem parseSystem_blank (h : stripBlanks t = []) : parseSystem sh t = some .absent := by
  simp [parseSystem, h]

/-- System text that is not blank, by its sign and its numeral. -/
theorem parseSystem_of_split (hne : stripBlanks t ≠ []) (hs : splitSign (stripBlanks t) = (neg, mid)) :
    parseSystem sh t = (splitNumeral mid).bind (fun p =>
      if p.1 = [] ∧ p.2 = [] then none
      else if neg = true ∧ sh.signed = false then none
      else some (fitValue sh (numeralValue neg p.1 p.2 sh.decimals))) := by
  unfold parseSystem
  split
  · next h => exact absurd h hne
  · next c cs h =>
    rw [h] at hs
    simp only [hs]
    cases splitNumeral mid <;> rfl

/-- No character of a numeral is a blank. -/
theorem ne_blank_of_mem_numeral (hpt : (pt = [] ∧ fp = []) ∨ pt = [point]) (hd : ∀ b ∈ ip ++ fp, isDigit b = true) :
    ∀ b ∈ signText neg ++ (ip ++ pt ++ fp), b ≠ blank := by
  have hdigit : ∀ b, isDigit b = true → b ≠ blank := by
    rintro b h rfl
    exact absurd h (by decide)
  intro b hb
  rcases List.mem_append.1 hb with hb | hb
  · cases neg
    · cases hb
    · rw [List.mem_singleton.1 hb]
      decide
  · rcases List.mem_append.1 hb with hb | hb
    · rcases List.mem_append.1 hb with hb | hb
      · exact hdigit b (hd b (List.mem_append_left _ hb))
      · rcases hpt with ⟨rfl, -⟩ | rfl
        · cases hb
        · rw [List.mem_singleton.1 hb]
          decide
    · exact hdigit b (hd b (List.mem_append_right _ hb))

theorem head_ne_minus (hpt : (pt = [] ∧ fp = []) ∨ pt = [point]) (hd : ∀ b ∈ ip ++ fp, isDigit b = true) :
    (ip ++ pt ++ fp).head? ≠ some minus := by
  cases ip with
  | nil =>
    rcases hpt with ⟨rfl, rfl⟩ | rfl
    · simp
    · simp [point, minus]
  | cons c ip =>
    have hc := hd c (by simp)
    simp only [List.cons_append, List.head?_cons, ne_eq, Option.some.injEq]
    rintro rfl
    exact absurd hc (by decide)

/-- A numeral between blanks: refused for a sign that its field does not take, else rounded and fitted (R97). -/
theorem parseSystem_numeral (hout : ∀ b ∈ before ++ after, b = blank) (hpt : (pt = [] ∧ fp = []) ∨ pt = [point])
    (hd : ∀ b ∈ ip ++ fp, isDigit b = true) (hne : ip ++ fp ≠ []) :
    parseSystem sh (before ++ signText neg ++ ip ++ pt ++ fp ++ after) =
      if neg = true ∧ sh.signed = false then none else some (fitValue sh (numeralValue neg ip fp sh.decimals)) := by
  have hstrip : stripBlanks (before ++ signText neg ++ ip ++ pt ++ fp ++ after) = signText neg ++ (ip ++ pt ++ fp) := by
    have h := stripBlanks_eq hout (ne_blank_of_mem_numeral (neg := neg) hpt hd)
    simpa only [List.append_assoc] using h
  have hnil : ¬(ip = [] ∧ fp = []) := by simpa using hne
  rw [parseSystem_of_split (neg := neg) (mid := ip ++ pt ++ fp), splitNumeral_append hpt hd, Option.bind_some, if_neg hnil]
  · rw [hstrip]
    intro h
    simp only [List.append_eq_nil_iff] at h
    exact hnil ⟨h.2.1.1, h.2.2⟩
  · rw [hstrip]
    exact splitSign_append fun _ => head_ne_minus hpt hd

/-- What system text for a NUMBER must be (R97). -/
theorem of_parseSystem (h : parseSystem sh t ≠ none) : (∀ b ∈ t, b = blank) ∨
    ∃ before after ip pt fp neg, (∀ b ∈ before ++ after, b = blank) ∧ ((pt = [] ∧ fp = []) ∨ pt = [point]) ∧
      (∀ b ∈ ip ++ fp, isDigit b = true) ∧ ip ++ fp ≠ [] ∧ t = before ++ signText neg ++ ip ++ pt ++ fp ++ after := by
  obtain ⟨before, after, hout, ht⟩ := exists_stripBlanks t
  by_cases hs : stripBlanks t = []
  · rw [hs, List.append_nil] at ht
    exact .inl (ht ▸ hout)
  obtain ⟨neg, mid, hsign⟩ : ∃ neg mid, splitSign (stripBlanks t) = (neg, mid) := ⟨_, _, rfl⟩
  rw [parseSystem_of_split hs hsign] at h
  cases hnum : splitNumeral mid with
  | none => simp [hnum] at h
  | some p =>
    obtain ⟨ip, fp⟩ := p
    obtain ⟨pt, hpt, hd, rfl⟩ := of_splitNumeral hnum
    refine .inr ⟨before, after, ip, pt, fp, neg, hout, hpt, hd, fun hnil => ?_, ?_⟩
    · rw [hnum, Option.bind_some, if_pos (List.append_eq_nil_iff.1 hnil)] at h
      exact h rfl
    · rw [eq_of_splitSign hsign] at ht
      simpa only [List.append_assoc] using ht

end Numerals

end Sys2Proof.Proofs

/-! ## FIELD WRITE of text and of numbers -/
namespace Sys2Proof.Proofs

open Machine

section FieldWrites

variable {s : State} {i : Inst} {sh : Shape} {mark : Bool} {v x : Value}

theorem differs_eq (h : instValue s.form i = some x) : differs s i v = decide (x ≠ v) := by
  simp [differs, h]

theorem instValue_field_of_valFind {f : FormStore} {n : Nat} {w : InstVal} (h : valFind f.vals n = some w) :
    instValue f (.field n) = some w.value := by
  simp [instValue, h]

theorem requestInst_eq (i : Inst) (s : State) : requestInst i s = { s with comp := (requestInst i s).comp } := by
  unfold requestInst
  split <;> rfl

/-- A write that recomputes nothing leaves all but the value, the pending edit and the repaint list. -/
theorem storeSystem_eq_of_not_number (h : differs s i v = false ∨ sh.kind ≠ .number) :
    storeSystem i sh mark v s = { s with
      form := (storeSystem i sh mark v s).form
      key := (storeSystem i sh mark v s).key
      comp := (storeSystem i sh mark v s).comp } := by
  have hstored : stored i sh mark v s = { s with
      form := (stored i sh mark v s).form, key := (stored i sh mark v s).key } := by
    unfold stored writeForm dropEditOn
    split <;> rfl
  rw [storeSystem_of_not_number h, requestIf]
  split
  · rw [requestInst_eq, hstored]
  · rw [hstored]

end FieldWrites

section PlainText

variable {sh : Shape} {data : List Byte} {w : InstVal} {base : Text} {overlay : Bool}

/-- PLAIN data for a destination that holds text: over blanks in replace mode, over the stored text in overlay mode. -/
theorem writtenValue_plain (hk : sh.kind = .text ∨ sh.kind = .display ∨
      (sh.kind = .digits ∧ ∀ b ∈ data, digitsAllowed (plainChar b) = true))
    (hreplace : overlay = false → base = List.replicate sh.length blank) (hoverlay : overlay = true → w.value = .text base)
    (start : Nat) :
    writtenValue sh overlay start w.value (data.map plainChar) =
      some (.text (wrapWrite sh.length start (data.map (fun b => foldChar sh (plainChar b))) base)) := by
  have hbase : (if overlay then storedText sh w.value else List.replicate sh.length blank) = base := by
    cases overlay with
    | false => exact (hreplace rfl).symm
    | true => simp [hoverlay rfl, storedText]
  rw [writtenValue_text (by simpa using hk), hbase, List.map_map]
  rfl

end PlainText

/-- Settles O21: text by what `wrapWrite` leaves at each position, numerals by the inverse of `splitNumeral`. -/
theorem textFieldWriteReplacesValue : Obligations.TextFieldWriteReplacesValue := by
  refine ⟨?_, ?_, ?_, ?_, fun sh t h => of_parseSystem h⟩
  · intro n mode start data fd w base s hp ha hs hm hf hk hw hlen hreplace hoverlay hstart chars pos
    have hkind : fd.shape.kind ≠ .number ∧ isSumKind fd.shape.kind = false := by
      rcases hk with hk | hk | ⟨hk, -⟩ <;> simp [hk, isSumKind]
    obtain ⟨t, ht⟩ : ∃ t, t = wrapWrite fd.shape.length start.toNat chars base := ⟨_, rfl⟩
    have hold : instValue s.form (.field n.toNat) = some w.value := instValue_field_of_valFind hw
    have hvalue : writtenValue fd.shape (mode.getLsbD 0) start.toNat ((instValue s.form (.field n.toNat)).getD .absent)
        (data.map plainChar) = some (.text t) := by
      rw [hold, ht]
      exact writtenValue_plain hk hreplace hoverlay _
    have hbody : fieldWriteBody n.toNat (writeArgs mode start 0) data (inFrame (5 + data.length) s) =
        .ok (storeSystem (.field n.toNat) fd.shape (mode.getLsbD 1) (.text t) (inFrame (5 + data.length) s)) := by
      rw [writeArgs_eq hm (f := .plain) rfl]
      exact (fieldWriteBody_eq (s := inFrame _ s) ha hs hf hkind.2).trans (writeInst_ok hstart rfl hvalue)
    have hwrite : SystemWrite _ _ (inFrame (5 + data.length) s) _ :=
      systemWrite_storeSystem (i := .field n.toNat) (sh := fd.shape) (mode.getLsbD 1) (.text t) (by simp [instShape, hf])
        (by simp [hold])
    have heq := storeSystem_eq_of_not_number (i := .field n.toNat) (mark := mode.getLsbD 1) (v := .text t)
      (s := inFrame (5 + data.length) s) (.inr hkind.1)
    have hform := storeSystem_field_form n.toNat fd.shape (mode.getLsbD 1) (.text t) (inFrame (5 + data.length) s)
    have hstored := storeSystem_form_of_not_number (i := .field n.toNat) (mark := mode.getLsbD 1) (v := .text t)
      (s := inFrame (5 + data.length) s) (.inr hkind.1)
    have hflag := flag_storeSystem_field n.toNat fd.shape (mode.getLsbD 1) (.text t) (inFrame (5 + data.length) s)
    generalize storeSystem (.field n.toNat) fd.shape (mode.getLsbD 1) (.text t) (inFrame (5 + data.length) s) = T at *
    refine ⟨record .done T, t, order_taken (n := 4 + data.length) (by omega) hp hbody, ?_, hwrite.value, ?_,
      fun m b hb hlast => ?_, fun p hp => ?_, fun hfit => ?_, fun w' hw' => ?_, fun k hkn => ?_, fun i hi => ?_,
      congrArg KeyEngine.edit hwrite.key⟩
    · exact congrArg (record .done) (heq.trans (congrArg₂
        (fun f k => { inFrame (5 + data.length) s with form := f, key := k, comp := T.comp }) hform hwrite.key_eq))
    · rw [ht, length_wrapWrite, hlen]
    · rw [ht]
      exact getElem?_wrapWrite_of_last hstart hlen hb hlast
    · rw [ht]
      exact getElem?_wrapWrite_of_not_reached hstart hp
    · have h := wrapWrite_eq_append (cs := chars) hlen (by simpa [chars] using hfit) hstart
      rw [ht, h]
      simp [chars]
    · have h := flag_of_map_eq (hflag n.toNat) hw hw'
      rw [h, differs_eq (s := inFrame _ s) hold, decide_eq_true (rfl : n.toNat = n.toNat), Bool.and_true, Bool.and_right_comm]
    · show valFind T.form.vals k = _
      rw [hstored]
      exact valFind_storedForm_ne hkn
    · show instValue T.form i = _
      rw [hstored]
      exact instValue_storedForm_ne _ _ _ hi
  · intro n mode start format data f t fd w s hp ha hs hm hf hstart hformat hdec hw
    have hold : instValue s.form (.field n.toNat) = some w.value := instValue_field_of_valFind hw
    have hbody : ∀ k, isSumKind fd.shape.kind = false →
        fieldWriteBody n.toNat (writeArgs mode start format) data (inFrame k s) =
          writeInst (.field n.toNat) fd.shape ⟨mode.getLsbD 0, mode.getLsbD 1, start.toNat, f⟩ data (inFrame k s) :=
      fun k hsum => by
        rw [writeArgs_eq hm hformat]
        exact fieldWriteBody_eq (s := inFrame k s) ha hs hf hsum
    have hrefused : isSumKind fd.shape.kind = false →
        (∀ overlay start old, writtenValue fd.shape overlay start old t = none) →
        exec (.fieldWrite n mode start format data) s =
          .next (framed .badValue (List.replicate (5 + data.length) 0) s) := fun hsum hnone =>
      order_refused (n := 4 + data.length) (by omega) hp
        ((hbody _ hsum).trans (writeInst_badValue hstart ((congrArg (Option.bind · _) hdec).trans (hnone ..))))
    refine ⟨fun hk hnone => ?_, fun hk hbad => ?_, fun hk v hv => ?_⟩
    · exact hrefused (by simp [hk, isSumKind]) fun _ _ _ => (writtenValue_number hk ..).trans hnone
    · exact hrefused (by simp [hk, isSumKind]) (writtenValue_digits_none hk hbad)
    have hstore := (hbody (5 + data.length) (by simp [hk, isSumKind])).trans
      (writeInst_ok hstart hdec ((writtenValue_number hk ..).trans hv))
    have hdiffers : differs (inFrame (5 + data.length) s) (.field n.toNat) v = decide (w.value ≠ v) :=
      differs_eq (s := inFrame _ s) hold
    have hwrite : SystemWrite _ _ (inFrame (5 + data.length) s) _ :=
      systemWrite_storeSystem (i := .field n.toNat) (sh := fd.shape) (mode.getLsbD 1) v (by simp [instShape, hf])
        (by simp [hold])
    have hchange := deskChangeRight_storeSystem (i := .field n.toNat) (mark := mode.getLsbD 1) (v := v)
      (s := inFrame (5 + data.length) s) (.inl hk)
    have hform := storeSystem_field_form n.toNat fd.shape (mode.getLsbD 1) v (inFrame (5 + data.length) s)
    have hflag := flag_storeSystem_field n.toNat fd.shape (mode.getLsbD 1) v (inFrame (5 + data.length) s)
    have hhanded := handedOn_storeSystem_field n.toNat fd.shape (mode.getLsbD 1) v (inFrame (5 + data.length) s)
      (by simp [hold])
    have hsums := fun hd => sumsFollow_storeSystem (i := .field n.toNat) (mark := mode.getLsbD 1) (v := v)
      (s := inFrame (5 + data.length) s) hd hk
    have hitem := fun hd => mem_storeSystem_of_differs (i := .field n.toNat) (sh := fd.shape) (mark := mode.getLsbD 1) (v := v)
      (s := inFrame (5 + data.length) s) (it := .field n.toNat) hd rfl
    have hstands := fun hd => storeSystem_desk_of_not_number (i := .field n.toNat) (sh := fd.shape) (mark := mode.getLsbD 1)
      (v := v) (s := inFrame (5 + data.length) s) (.inl hd)
    have hport := fun hd => storeSystem_tp_of_not_number (i := .field n.toNat) (sh := fd.shape) (mark := mode.getLsbD 1)
      (v := v) (s := inFrame (5 + data.length) s) (.inl hd)
    generalize storeSystem (.field n.toNat) fd.shape (mode.getLsbD 1) v (inFrame (5 + data.length) s) = T at *
    rw [hdiffers] at hsums hitem hstands hport
    have hedge : w.value = v → T.tp.edge = (inFrame (5 + data.length) s).tp.edge := fun he =>
      congrArg TpPort.edge (hport (by simp [he]))
    refine ⟨record .done T, order_taken (n := 4 + data.length) (by omega) hp hstore, ?_, hchange, hwrite.cur, hwrite.send,
      hwrite.line, hwrite.desk, hwrite.comp, hwrite.key, hform, hwrite.value, hwrite.others, fun k x x' hx hx' => ?_,
      fun hne => ⟨hsums (decide_eq_true hne), hitem (decide_eq_true hne)⟩, handedOn_of_inFrame hhanded,
      fun he => ⟨hstands (by simp [he]), hedge he⟩⟩
    · exact congrArg (fun p : TpPort => { p with outcome := .done }) hwrite.port
    · rw [flag_of_map_eq (hflag k) hx hx', hdiffers]
      by_cases hkn : k = n.toNat
      · obtain rfl := Option.some.inj (hx.symm.trans (hkn ▸ hw))
        simp [hkn, hk, isEntryKind]
      · simp [hkn]
  · exact fun sh t h => parseSystem_blank (stripBlanks_of_blank h)
  · intro sh before after ip pt fp neg hout hpt hd hne t m₀ m v
    have hparse := parseSystem_numeral (sh := sh) (neg := neg) hout hpt hd hne
    have hplain : neg = false ∨ sh.signed = true → ¬(neg = true ∧ sh.signed = false) := by
      rintro (rfl | hsigned) ⟨hneg, hunsigned⟩
      · simp at hneg
      · simp [hsigned] at hunsigned
    refine ⟨fun hneg hsigned => ?_, fun hsign hfits => ?_, fun hsign hover => ?_⟩
    · exact hparse.trans (if_pos ⟨hneg, hsigned⟩)
    · exact (hparse.trans (if_neg (hplain hsign))).trans (congrArg some (if_pos (decide_eq_true hfits)))
    · refine (hparse.trans (if_neg (hplain hsign))).trans (congrArg some (if_neg fun hfits => ?_))
      exact absurd (of_decide_eq_true hfits) (Nat.not_lt.2 hover)

end Sys2Proof.Proofs

/-! ## Streams -/
namespace Sys2Proof.Proofs

open Machine

section Streams

variable {s t : State} {k n : Nat} {o : OrderOutcome} {body : State → Verdict}

/-- The state in which STREAM NEXT acts: its frame closed, the stream kept. -/
def inStream (k : Nat) (s : State) : State := closeFrame (zeros k) s

/-- STREAM NEXT in READY, taken by its rule. -/
theorem streamOrder_taken (hk : 1 + n = k) (hp : s.tp.phase = .ready) (hb : body (inStream k s) = .ok t) :
    runStreamOrder n body s = .next (settle (record .done t)) := by
  subst hk
  simp [runStreamOrder, hp, show body (closeFrame (zeros (1 + n)) s) = .ok t from hb, ok]

/-- STREAM NEXT in READY, refused by its rule. -/
theorem streamOrder_refused (hk : 1 + n = k) (hp : s.tp.phase = .ready) (hb : body (inStream k s) = .error o) :
    runStreamOrder n body s = .next (record o (inStream k s)) := by
  subst hk
  simp [runStreamOrder, hp, show body (closeFrame (zeros (1 + n)) s) = .error o from hb, inStream]

theorem handedOn_of_inStream {st : Option Stream} (h : HandedOn (inStream k s) t) :
    HandedOn s (record o { t with tp := { t.tp with stream := st } }) :=
  ⟨h.tags, h.tallies, h.sums, h.products⟩

/-! ### The pointer -/

variable {f : FormStore} {st : Stream} {fd : FieldDef} {pre post : List FieldDef}

theorem findField_of_split (hf : f.fields = pre ++ fd :: post) (hfd : fd.number = n) (hpre : ∀ g ∈ pre, g.number ≠ n) :
    findField f n = some fd := by
  rw [findField, hf, List.find?_append, List.find?_eq_none.2 (by simpa using hpre)]
  simp [hfd]

/-- The next field is looked for after the pointed one. -/
theorem nextStream_of_split (hf : f.fields = pre ++ fd :: post) (hfd : fd.number = st.field)
    (hpre : ∀ g ∈ pre, g.number ≠ st.field) :
    nextStream f st = (post.find? (streamTakes f st.header)).map (fun g => { st with field := g.number }) := by
  rw [nextStream, hf, List.dropWhile_append_of_pos (by simpa using hpre)]
  simp [hfd]

theorem streamTakes_iff {header : Bool} {g : FieldDef} : streamTakes f header g = true ↔
    g.shape.kind ≠ .columnSum ∧ g.shape.kind ≠ .deskSum ∧ decide (g.row < f.h) = header := by
  cases h : g.shape.kind <;> simp [streamTakes, isSumKind, h]

/-! ### The rule of STREAM NEXT -/

variable {format : Option Format} {fm : Format} {data : List Byte} {v : Value}

theorem streamNextBody_busy (hst : s.tp.stream = some st) (hs : s.send.state = .assembling) :
    streamNextBody format data s = .error .refusedBusy := by
  simp [streamNextBody, hst, hs]

theorem streamNextBody_unlisted (hst : s.tp.stream = some st) (hs : s.send.state ≠ .assembling) :
    streamNextBody none data s = .error .badArgument := by
  simp [streamNextBody, hst, hs]

theorem streamNextBody_refused {a : WriteArgs} (ha : a = ⟨false, false, 0, fm⟩) (hst : s.tp.stream = some st)
    (hs : s.send.state ≠ .assembling) (hf : findField s.form st.field = some fd)
    (hw : writeInst (.field st.field) fd.shape a data s = .error o) : streamNextBody (some fm) data s = .error o := by
  subst ha
  simp [streamNextBody, hst, hs, hf, hw]

theorem streamNextBody_ok {a : WriteArgs} (ha : a = ⟨false, false, 0, fm⟩) (hst : s.tp.stream = some st)
    (hs : s.send.state ≠ .assembling) (hf : findField s.form st.field = some fd)
    (hw : writeInst (.field st.field) fd.shape a data s = .ok t) :
    streamNextBody (some fm) data s = .ok { t with tp := { t.tp with stream := nextStream s.form st } } := by
  subst ha
  simp [streamNextBody, hst, hs, hf, hw]

theorem streamBeginBody_ok (ha : s.form.state = .active) (hf : findField s.form n = some fd)
    (hk : isSumKind fd.shape.kind = false) : streamBeginBody n s =
      .ok { s with tp := { s.tp with stream := some { field := n, header := decide (fd.row < s.form.h) } } } := by
  simp [streamBeginBody, ha, hf, hk]

end Streams

/-- Settles O23: the pointed field is written as by FIELD WRITE, and the pointer goes to the first field after it that the
stream takes. -/
theorem streamOrdersWriteInTurn : Obligations.StreamOrdersWriteInTurn := by
  refine ⟨fun n k fd s hp ha hf hc hd => ?_, fun format data st fd pre post s hp hst hfields hfd hpre hlen => ?_⟩
  · have hsum : isSumKind fd.shape.kind = false := Bool.eq_false_iff.2 fun h => (isSumKind_iff.1 h).elim hc hd
    exact order_taken (n := 1 + k) (by omega) hp (streamBeginBody_ok (s := inFrame (2 + k) s) ha hf hsum)
  intro closed written takes
  have hfind : findField s.form st.field = some fd := findField_of_split hfields hfd hpre
  have hwrites : s.send.state ≠ .assembling → ∀ f v, formatOf format = some f → (decodeData f data).bind written = some v →
      exec (.streamNext format data) s = .next (settle (record .done
        { storeSystem (.field st.field) fd.shape false v (inStream (2 + data.length) s) with
          tp := { (storeSystem (.field st.field) fd.shape false v (inStream (2 + data.length) s)).tp with
            stream := nextStream s.form st } })) := by
    intro hs f v hformat hv
    obtain ⟨chars, hdec, hval⟩ := Option.bind_eq_some_iff.1 hv
    refine streamOrder_taken (n := 1 + data.length) (k := 2 + data.length) (by omega) hp ?_
    rw [hformat]
    exact streamNextBody_ok (s := inStream _ s) rfl hst hs hfind (writeInst_ok hlen hdec hval)
  refine ⟨fun hs => ?_, fun hs hformat => ?_, fun hs f hformat hv => ?_, fun hs f v hformat hv hold => ?_,
    fun hs hformat hk hold hfit => ?_⟩
  · exact streamOrder_refused (n := 1 + data.length) (by omega) hp (streamNextBody_busy (s := inStream _ s) hst hs)
  · refine streamOrder_refused (n := 1 + data.length) (k := 2 + data.length) (by omega) hp ?_
    rw [hformat]
    exact streamNextBody_unlisted (s := inStream _ s) hst hs
  · refine streamOrder_refused (n := 1 + data.length) (k := 2 + data.length) (by omega) hp ?_
    rw [hformat]
    exact streamNextBody_refused (s := inStream _ s) rfl hst hs hfind (writeInst_badValue hlen hv)
  · refine ⟨_, hwrites hs f v hformat hv, ?_⟩
    have hnext := nextStream_of_split hfields hfd hpre
    have hwrite : SystemWrite _ _ (inStream (2 + data.length) s) _ :=
      systemWrite_storeSystem (i := .field st.field) (sh := fd.shape) false v (by simp [instShape, inStream, closeFrame, hfind])
        hold
    have hform := storeSystem_field_form st.field fd.shape false v (inStream (2 + data.length) s)
    have hflag := flag_storeSystem_field st.field fd.shape false v (inStream (2 + data.length) s)
    have hhanded := handedOn_storeSystem_field st.field fd.shape false v (inStream (2 + data.length) s) hold
    have hchange := fun h => deskChangeRight_storeSystem (i := .field st.field) (sh := fd.shape) (mark := false) (v := v)
      (s := inStream (2 + data.length) s) (.inr h)
    have hsums := fun hk hd => sumsFollow_storeSystem (i := .field st.field) (sh := fd.shape) (mark := false) (v := v)
      (s := inStream (2 + data.length) s) (differs_iff.2 hd) hk
    generalize storeSystem (.field st.field) fd.shape false v (inStream (2 + data.length) s) = T at *
    refine ⟨?_, fun h => hchange fun g hg e => h g hg (Inst.field.inj e), fun a g b hpost hno hg => ?_, fun hno => ?_,
      hwrite.value, hsums, handedOn_of_inStream hhanded, hwrite.others, fun n w w' hw hw' => ?_, hform, hwrite.key,
      hwrite.comp, hwrite.cur, hwrite.send, hwrite.line, hwrite.desk⟩
    · exact congrArg (fun p : TpPort => { p with outcome := .done, stream := nextStream s.form st }) hwrite.port
    · refine hnext.trans ?_
      rw [hpost, List.find?_append, List.find?_eq_none.2 fun x hx => mt streamTakes_iff.1 (hno x hx),
        Option.none_or, List.find?_cons_of_pos (streamTakes_iff.2 hg)]
      rfl
    · refine hnext.trans ?_
      rw [List.find?_eq_none.2 fun x hx => mt streamTakes_iff.1 (hno x hx)]
      rfl
    · simpa using flag_of_map_eq (hflag n) hw hw'
  · have hchars : writtenValue fd.shape false 0 ((instValue s.form (.field st.field)).getD .absent) (data.map plainChar) =
        some (.text (data.map (fun b => foldChar fd.shape (plainChar b)) ++
          List.replicate (fd.shape.length - data.length) blank)) := by
      rw [writtenValue_text (by tauto), wrapWrite_eq_append (by simp) (by simpa using hfit) hlen]
      simp [Function.comp_def]
    have hk' : fd.shape.kind ≠ .number := by rcases hk with hk | hk <;> simp [hk]
    refine ⟨_, hwrites hs .plain _ (by rw [hformat]; rfl) hchars, rfl, ?_, fun i hi => ?_, ?_⟩
    · exact instValue_storeSystem_same (s := inStream _ s) (by simp [instShape, inStream, closeFrame, hfind]) hold
    · refine (congrArg (instValue · i) (storeSystem_form_of_not_number (s := inStream _ s) (.inr hk'))).trans ?_
      exact instValue_storedForm_ne _ _ _ hi
    · exact storeSystem_desk_of_not_number (s := inStream _ s) (.inr hk')

end Sys2Proof.Proofs

/-! ## ENTRIES CLEAR -/
namespace Sys2Proof.Machine

section Clear

variable {m : Bool} {f : FormStore} {s : State} {i : Inst} {k n : Nat}

/-! ### The cleared form -/

theorem valueAbsent_initialValue (sh : Shape) : valueAbsent (initialValue sh) = true := by
  unfold initialValue
  split <;> simp [valueAbsent]

/-- One content of the cleared form, by the shape of its field or column. -/
def clearOne (m : Bool) (sh : Option Shape) (v : InstVal) : InstVal :=
  match sh with
  | some sh => clearVal m sh v
  | none => v

theorem clearVals_eq (m : Bool) (shapes : Nat → Option Shape) (vs : List InstVal) :
    clearVals m shapes vs = vs.map (fun v => clearOne m (shapes v.key) v) := rfl

theorem clearOne_key (m : Bool) (sh : Option Shape) (v : InstVal) : (clearOne m sh v).key = v.key := by
  cases sh <;> rfl

theorem valFind_clearVals (m : Bool) (shapes : Nat → Option Shape) (vs : List InstVal) (k : Nat) :
    valFind (clearVals m shapes vs) k = (valFind vs k).map (clearOne m (shapes k)) := by
  rw [clearVals_eq]
  exact valFind_map (fun x => clearOne_key ..) fun x hx => by rw [hx]

/-- The value of a field or cell of the cleared form. -/
theorem instValue_clearedForm (m : Bool) (f : FormStore) {sh : Shape} (hi : instShape f i = some sh) :
    instValue (clearedForm m f) i =
      (instValue f i).map (fun v => if isEntryKind sh.kind = true then initialValue sh else v) := by
  cases i with
  | field n =>
    simp only [instValue, clearedForm, valFind_clearVals, hi, Option.map_map]
    rfl
  | cell l c =>
    have hcol : instShape f (.cell 0 c) = some sh := hi
    simp only [instValue, clearedForm, List.getElem?_map, Option.bind_map, Option.map_bind]
    refine congrArg _ (funext fun ln => ?_)
    simp only [Function.comp_apply, clearLine, valFind_clearVals, hcol, Option.map_map]
    rfl

theorem lineKeys_clearedForm (m : Bool) (f : FormStore) : lineKeys (clearedForm m f) = lineKeys f := by
  simp only [lineKeys, clearedForm, List.map_map]
  exact List.map_congr_left fun ln _ => keys_map (fun x => clearOne_key ..) ln.cells

/-! ### Cleared lines -/

/-- No entry value and no modified flag stands in the line (R43). -/
structure LineCleared (f : FormStore) (ln : LineRec) : Prop where
  modified : ln.modified = false
  entered : ∀ w ∈ ln.cells, isEntryCol f w.key = true → valueAbsent w.value = true
  cells : ∀ w ∈ ln.cells, findCol f w.key ≠ none → w.modified = false

theorem LineCleared.lineEntered {ln : LineRec} (h : LineCleared f ln) : lineEntered f ln = false := by
  refine List.any_eq_false.2 fun w hw => ?_
  cases hc : isEntryCol f w.key with
  | false => simp
  | true => simp [h.entered w hw hc]

theorem lineCleared_clearLine (f : FormStore) (ln : LineRec) : LineCleared f (clearLine false f ln) := by
  refine ⟨rfl, fun w hw hc => ?_, fun w hw hc => ?_⟩
  · obtain ⟨v, -, rfl⟩ := List.mem_map.1 hw
    change isEntryCol f (clearOne false _ v).key = true at hc
    rw [clearOne_key, isEntryCol] at hc
    split at hc
    · next cd hcd => simp [instShape, hcd, clearVal, hc, valueAbsent_initialValue]
    · cases hc
  · obtain ⟨v, -, rfl⟩ := List.mem_map.1 hw
    change findCol f (clearOne false _ v).key ≠ none at hc
    rw [clearOne_key] at hc
    obtain ⟨cd, hcd⟩ := Option.ne_none_iff_exists'.1 hc
    simp [instShape, hcd, clearVal]

/-- The products of a cleared line are no entry values. -/
theorem LineCleared.lineProducts {ln : LineRec} (h : LineCleared f ln) (g : FormStore) (hg : g.cols = f.cols) :
    LineCleared f (lineProducts g ln) := by
  have hcol : ∀ c, findCol g c = findCol f c := fun c => by rw [findCol, findCol, hg]
  refine ⟨h.modified, fun w hw hc => ?_, fun w hw hc => ?_⟩
  · obtain ⟨v, hv, rfl⟩ := List.mem_map.1 hw
    cases hcd : findCol f v.key with
    | none => simpa [hcol, hcd] using h.entered v hv (by simpa [hcol, hcd] using hc)
    | some cd =>
      by_cases hp : cd.shape.kind = .product
      · simp [hcol, hcd, hp, isEntryCol, isEntryKind] at hc
      · simpa [hcol, hcd, hp] using h.entered v hv (by simpa [hcol, hcd, hp] using hc)
  · obtain ⟨v, hv, rfl⟩ := List.mem_map.1 hw
    cases hcd : findCol f v.key with
    | none => simp [hcol, hcd] at hc
    | some cd =>
      have := h.cells v hv (by simp [hcd])
      by_cases hp : cd.shape.kind = .product <;> simpa [hcol, hcd, hp] using this

/-! ### The recomputation that follows -/

/-- The state after the clearing and its recomputation, before anything is handed on. -/
def clearedState (m : Bool) (s : State) : State :=
  recompute 0 s.form.d { abandonEdit s with form := clearedForm m s.form }

theorem clearEntries_eq (m : Bool) (s : State) :
    clearEntries m s = requestAll (allBodyRows (clearedState m s).form) (deskChange s
      (requestAll (fieldItems (changedFields (· = .deskSum) s (clearedState m s)))
        (placeAll .tally (changedTags s (clearedState m s))
          (requestAll (fieldItems (changedFields (· = .columnSum) s (clearedState m s)))
            (requestAll (fieldItems (changedFields isEntryKind s (clearedState m s))) (clearedState m s)))))) := by
  simp only [clearEntries, clearedState, abandonEdit_form]

theorem clearEntries_form (m : Bool) (s : State) : (clearEntries m s).form = (clearedState m s).form := by
  simp [clearEntries_eq]

theorem clearEntries_key (m : Bool) (s : State) : (clearEntries m s).key = (abandonEdit s).key := by
  simp [clearEntries_eq, clearedState]

theorem abandonEdit_key (s : State) : (abandonEdit s).key = { s.key with edit := none } := by
  unfold abandonEdit
  split
  · simp [dropEdit]
  · next h => simp [← h]

theorem clearedState_fields (m : Bool) (s : State) : (clearedState m s).form.fields = s.form.fields := rfl

theorem lineKeys_clearedState (m : Bool) (s : State) : lineKeys (clearedState m s).form = lineKeys s.form :=
  (lineKeys_recompute ..).trans (lineKeys_clearedForm m s.form)

theorem clearedState_desk_active (m : Bool) (s : State) : (clearedState m s).desk.active =
    s.desk.active.map (fun p => (p.1, localShare (clearedState m s).form p.1)) := by
  rw [clearedState, recompute_desk_active, abandonEdit_desk]

theorem sumsFollow_clearEntries (m : Bool) (s : State) : sumsFollow (clearEntries m s) :=
  sumsFollow_congr (t := clearedState m s) (clearEntries_form m s) (by simp [clearEntries_eq]) (by simp [clearEntries_eq])
    (sumsFollow_recompute ..)

theorem clearEntries_tp_eq (m : Bool) (s : State) : (clearEntries m s).tp =
    { s.tp with edge := { s.tp.edge with deskChange := (clearEntries m s).tp.edge.deskChange } } := by
  have h := deskChange_tp_eq s (requestAll (fieldItems (changedFields (· = .deskSum) s (clearedState m s)))
    (placeAll .tally (changedTags s (clearedState m s))
      (requestAll (fieldItems (changedFields (· = .columnSum) s (clearedState m s)))
        (requestAll (fieldItems (changedFields isEntryKind s (clearedState m s))) (clearedState m s)))))
  simp only [requestAll_tp, placeAll_tp, clearedState, recompute_tp, abandonEdit_tp] at h
  simpa [clearEntries_eq, clearedState] using h

theorem deskChangeRight_clearEntries (m : Bool) (s : State) : deskChangeRight s (clearEntries m s) := by
  have h := deskChange_iff s (requestAll (fieldItems (changedFields (· = .deskSum) s (clearedState m s)))
    (placeAll .tally (changedTags s (clearedState m s))
      (requestAll (fieldItems (changedFields (· = .columnSum) s (clearedState m s)))
        (requestAll (fieldItems (changedFields isEntryKind s (clearedState m s))) (clearedState m s)))))
  simp only [requestAll_tp, placeAll_tp, requestAll_form, placeAll_form, clearedState_fields] at h
  rw [deskChangeRight, clearEntries_form, clearEntries_eq, requestAll_tp, h]
  simp [clearedState]

theorem mem_clearEntries_bodyRow (m : Bool) (s : State) (hk : k < s.form.w) :
    Item.bodyRow (s.form.h + k) ∈ (clearEntries m s).comp.items := by
  rw [clearEntries_eq]
  exact mem_requestAll (bodyRow_mem_allBodyRows (f := (clearedState m s).form) hk)

theorem mem_clearEntries_field {fd : FieldDef} (hm : fd ∈ s.form.fields) (hk : isSumKind fd.shape.kind = true)
    (hne : instValue s.form (.field fd.number) ≠ instValue (clearedState m s).form (.field fd.number)) :
    Item.field fd.number ∈ (clearEntries m s).comp.items := by
  have hitem : ∀ p : Kind → Bool, p fd.shape.kind = true →
      Item.field fd.number ∈ fieldItems (changedFields p s (clearedState m s)) :=
    fun p hp => List.mem_map.2 ⟨_, mem_changedFields.2 ⟨fd, hm, hp, hne, rfl⟩, rfl⟩
  rw [clearEntries_eq]
  refine mem_requestAll_of_mem ?_
  rw [deskChange_comp]
  rcases isSumKind_iff.1 hk with h | h
  · refine mem_requestAll_of_mem ?_
    rw [placeAll_comp]
    exact mem_requestAll (hitem (· = .columnSum) (by simp [h]))
  · exact mem_requestAll (hitem (· = .deskSum) (by simp [h]))

theorem handedOn_clearEntries (m : Bool) (s : State) : HandedOn s (clearEntries m s) := by
  obtain ⟨tags, tallies⟩ := tallies_of_changedTags (clearedState_desk_active m s) (u := clearEntries m s)
    (by simp [clearEntries_eq]) fun n => by simp [clearEntries_eq, assocGet_placeAll_tallies, clearedState]
  refine ⟨tags, tallies, fun fd hm hk hne => ?_, fun k hk _ _ _ _ => mem_clearEntries_bodyRow m s hk⟩
  rw [clearEntries_form] at hne
  exact mem_clearEntries_field hm hk hne.symm

/-! ### Values, flags and lines of the form -/

/-- An entry value is cleared, a DISPLAY value kept. -/
theorem instValue_clearEntries {sh : Shape} (hi : instShape s.form i = some sh) (hk : storesOwn sh.kind = true) :
    instValue (clearEntries m s).form i =
      (instValue s.form i).map (fun v => if isEntryKind sh.kind = true then initialValue sh else v) := by
  rw [clearEntries_form, clearedState, instValue_recompute_of_storesOwn (sh := sh) _ _ ?_ hk]
  · exact instValue_clearedForm m s.form hi
  · cases i <;> exact hi

theorem flag_clearEntries {fd : FieldDef} (hf : findField s.form n = some fd) {v : InstVal}
    (hv : valFind (clearEntries false s).form.vals n = some v) : v.modified = false := by
  have hflag := flag_valFind_recompute 0 s.form.d { abandonEdit s with form := clearedForm false s.form } n
  rw [clearEntries_form] at hv
  rw [show valFind (recompute _ _ _).form.vals n = some v from hv] at hflag
  simp only [clearedForm, valFind_clearVals, instShape, hf, Option.map_some, Option.map_map] at hflag
  obtain ⟨w, -, hw⟩ := Option.map_eq_some_iff.1 hflag.symm
  exact hw.symm

theorem lineCleared_clearEntries {ln : LineRec} (h : ln ∈ (clearEntries false s).form.lines) : LineCleared s.form ln := by
  rw [clearEntries_form] at h
  obtain ⟨j, hj⟩ := List.mem_iff_getElem?.1 h
  rw [clearedState, getElem?_recompute_lines] at hj
  simp only [clearedForm, List.getElem?_map, Option.map_map] at hj
  obtain ⟨ln₀, -, rfl⟩ := Option.map_eq_some_iff.1 hj
  simp only [Function.comp_apply]
  split
  · exact (lineCleared_clearLine s.form ln₀).lineProducts _ rfl
  · exact lineCleared_clearLine s.form ln₀

theorem productsFollow_clearEntries (hk : k < s.form.d) : productsFollow (clearEntries m s).form k := by
  rw [clearEntries_form]
  exact productsFollow_recompute _ _ _ ⟨Nat.zero_le k, by omega⟩

end Clear

end Sys2Proof.Machine

namespace Sys2Proof.Proofs

open Machine

theorem contentGate_busy {s : State} (ha : s.form.state = .active) (hs : s.send.state = .assembling) :
    contentGate s = some .refusedBusy := by
  simp [contentGate, ha, hs]

theorem entriesClearBody_busy {s : State} (ha : s.form.state = .active) (hs : s.send.state = .assembling) :
    entriesClearBody s = .error .refusedBusy := by
  simp [entriesClearBody, contentGate_busy ha hs]

theorem entriesClearBody_ok {s : State} (ha : s.form.state = .active) (hs : s.send.state ≠ .assembling) :
    entriesClearBody s = .ok (clearEntries false s) := by
  simp [entriesClearBody, contentGate_eq_none ha hs]

/-- Settles O25: the clearing, and the recomputation of every line that follows it. -/
theorem entriesClearEmptiesEntries : Obligations.EntriesClearEmptiesEntries := by
  intro n s hp ha z
  refine ⟨fun hs => order_refused rfl hp (entriesClearBody_busy ha hs), fun hs => ?_⟩
  have hframe := clearEntries_frame false (inFrame (1 + n) s)
  have hport := clearEntries_tp_eq false (inFrame (1 + n) s)
  have hkey := (clearEntries_key false (inFrame (1 + n) s)).trans (abandonEdit_key _)
  have hhanded := handedOn_clearEntries false (inFrame (1 + n) s)
  have hchange := deskChangeRight_clearEntries false (inFrame (1 + n) s)
  have hsums := sumsFollow_clearEntries false (inFrame (1 + n) s)
  have hvalue := fun i sh => instValue_clearEntries (m := false) (s := inFrame (1 + n) s) (i := i) (sh := sh)
  have hflag := fun k fd hf v hv => flag_clearEntries (s := inFrame (1 + n) s) (n := k) (fd := fd) hf (v := v) hv
  have hlines := fun ln hln => lineCleared_clearEntries (s := inFrame (1 + n) s) (ln := ln) hln
  have hproducts := fun k hk => productsFollow_clearEntries (m := false) (s := inFrame (1 + n) s) (k := k) hk
  have hrows := fun k hk => mem_clearEntries_bodyRow (k := k) false (inFrame (1 + n) s) hk
  have hcur := clearEntries_cur false (inFrame (1 + n) s)
  have hsend := clearEntries_send false (inFrame (1 + n) s)
  have hbody := entriesClearBody_ok (s := inFrame (1 + n) s) ha hs
  generalize clearEntries false (inFrame (1 + n) s) = T at *
  refine ⟨record .done T, order_taken rfl hp hbody, congrArg (fun p : TpPort => { p with outcome := .done }) hport, hchange,
    hcur, hsend, hkey, hframe.line_eq, hframe.desk_eq, hframe.form_eq, fun i sh v hi hv => ⟨fun hk => ?_, fun hk => ?_⟩,
    fun fd v hf hv => hflag _ fd hf v hv, fun ln hln => ?_, hproducts, hsums, handedOn_of_inFrame hhanded, hrows⟩
  · obtain ⟨w, -, rfl⟩ := Option.map_eq_some_iff.1 ((hvalue i sh hi (by simp [storesOwn, hk])).symm.trans hv)
    rw [if_pos hk]
    exact valueAbsent_initialValue sh
  · obtain ⟨w, hw, rfl⟩ := Option.map_eq_some_iff.1 ((hvalue i sh hi (by simp [storesOwn, hk])).symm.trans hv)
    rw [if_neg (by simp [hk, isEntryKind])]
    exact hw
  · have hclear := hlines ln hln
    have hentered : lineEntered T.form ln = lineEntered s.form ln := by
      have hcols : T.form.cols = s.form.cols := by rw [hframe.form_eq]; rfl
      simp only [lineEntered, isEntryCol, findCol, hcols]
    exact ⟨hclear.modified, hentered.trans hclear.lineEntered, hclear.cells⟩

end Sys2Proof.Proofs

/-! ## FORM END -/
namespace Sys2Proof.Machine

section Activate

variable {f : FormStore} {s : State} {n c : Nat} {v : Value}

/-! ### The new contents -/

/-- A value that neither counts in a sum nor makes a product: a text or ABSENT. -/
def NoNumber (v : Value) : Prop := v = .absent ∨ ∃ t, v = .text t

theorem noNumber_initialValue (sh : Shape) : NoNumber (initialValue sh) := by
  unfold initialValue
  split
  · exact .inr ⟨_, rfl⟩
  · exact .inl rfl

theorem valueShare_of_noNumber (h : NoNumber v) (d : Nat) : valueShare d v = .value 0 := by
  rcases h with rfl | ⟨t, rfl⟩ <;> rfl

theorem productValue_of_noNumber (h : NoNumber v) (sh : Shape) (da db : Nat) (w : Value) :
    productValue sh da db v w = .absent := by
  rcases h with rfl | ⟨t, rfl⟩ <;> cases w <;> rfl

theorem valFind_newVals (f : FormStore) (n : Nat) :
    valFind (newVals f) n = (findField f n).map (fun fd => ⟨fd.number, initialValue fd.shape, false⟩) := by
  simp only [valFind, newVals, findField, List.find?_map]
  rfl

theorem value_of_mem_newLine {w : InstVal} (h : w ∈ (newLine f).cells) :
    w.modified = false ∧ ∃ sh, w.value = initialValue sh := by
  obtain ⟨cd, -, rfl⟩ := List.mem_map.1 h
  exact ⟨rfl, _, rfl⟩

theorem lineCleared_newLine (f g : FormStore) : LineCleared g (newLine f) where
  modified := rfl
  entered w hw _ := by
    obtain ⟨-, sh, hv⟩ := value_of_mem_newLine hw
    rw [hv]
    exact valueAbsent_initialValue sh
  cells w hw _ := (value_of_mem_newLine hw).1

theorem noNumber_newLine (f : FormStore) (c : Nat) : NoNumber (lineValue (newLine f) c) := by
  unfold lineValue
  cases h : valFind (newLine f).cells c with
  | none => exact .inl rfl
  | some w =>
    obtain ⟨-, sh, hv⟩ := value_of_mem_newLine (List.mem_of_find?_eq_some h)
    change NoNumber w.value
    exact hv ▸ noNumber_initialValue sh

/-- Every PRODUCT of a new line is ABSENT. -/
theorem productAt_newLine (g f : FormStore) (cd : ColumnDef) : productAt g cd (newLine f) = .absent :=
  productValue_of_noNumber (noNumber_newLine f _) ..

/-- A new line with its products computed holds no value. -/
theorem value_lineProducts_newLine (g f : FormStore) {w : InstVal} (h : w ∈ (lineProducts g (newLine f)).cells) :
    valueAbsent w.value = true ∧ NoNumber w.value := by
  obtain ⟨w₀, hw₀, rfl⟩ := List.mem_map.1 h
  obtain ⟨-, sh, hv⟩ := value_of_mem_newLine hw₀
  have hkept : valueAbsent w₀.value = true ∧ NoNumber w₀.value :=
    hv ▸ ⟨valueAbsent_initialValue sh, noNumber_initialValue sh⟩
  split
  · split
    · simp [productAt_newLine, valueAbsent, NoNumber]
    · exact hkept
  · exact hkept

/-! ### Sums over lines without a value -/

theorem sumShares_zero {xs : List Share} (h : ∀ x ∈ xs, x = .value 0) : sumShares xs = .value 0 := by
  induction xs with
  | nil => rfl
  | cons x xs ih =>
    obtain ⟨hx, hxs⟩ := List.forall_mem_cons.1 h
    have htail : List.foldr addShare (.value 0) xs = .value 0 := ih hxs
    rw [sumShares, List.foldr_cons, htail, hx]
    rfl

theorem columnShare_zero (h : ∀ ln ∈ f.lines, ∀ c, NoNumber (lineValue ln c)) (c : Nat) : columnShare f c = .value 0 := by
  refine sumShares_zero fun x hx => ?_
  obtain ⟨ln, hln, rfl⟩ := List.mem_map.1 hx
  exact valueShare_of_noNumber (h ln hln c) _

theorem localShare_zero (h : ∀ ln ∈ f.lines, ∀ c, NoNumber (lineValue ln c)) (t : Nat) : localShare f t = .value 0 := by
  unfold localShare
  split
  · exact columnShare_zero h _
  · rfl

theorem shareValue_zero (sh : Shape) : shareValue sh (.value 0) = .number 0 := by
  have hscale : rescale 0 reckoningScale sh.decimals = 0 := by
    unfold rescale
    split <;> simp [roundDiv]
  have hfits : fitsCap (capacity sh) 0 = true := by simp [fitsCap]
  rw [shareValue, hscale, fitValue, if_pos hfits]

theorem assocGet_zeroShares (ts : List Nat) (n : Nat) :
    assocGet (zeroShares ts) n = if n ∈ ts then some (.value 0) else none := by
  induction ts with
  | nil => rfl
  | cons t ts ih =>
    rw [zeroShares, assocGet_put, ih]
    by_cases hn : n = t <;> by_cases hts : n ∈ ts <;> simp [hn, hts]

/-! ### The form made ACTIVE -/

/-- The state with FORM END's new contents and tags, nothing computed yet. -/
def newState (s : State) : State :=
  { s with form := activated s.form, desk := { s.desk with active := zeroShares (deskTags s.form) } }

/-- The state after FORM END's recomputation, before its tags are announced. -/
def activeState (s : State) : State := recompute 0 s.form.d (newState s)

theorem activate_eq (s : State) :
    activate s = requestAll (fullRepaint (activated s.form))
      { placeAll .tally (deskTags s.form) (activeState s) with
        key := { s.key with keyboard := .free }
        cur := { row := (homeCell s.form).1, col := (homeCell s.form).2, top := 0 } } := by
  have hkey : (placeAll .tally (deskTags s.form) (activeState s)).key = s.key := by
    simp [activeState, newState]
  rw [← hkey]
  rfl

theorem activate_form (s : State) : (activate s).form = (activeState s).form := by
  simp [activate_eq]

/-- The lines of the form made ACTIVE. -/
theorem activate_lines (s : State) : (activate s).form.lines =
    List.replicate s.form.d (lineProducts (activated s.form) (newLine s.form)) := by
  refine List.ext_getElem? fun j => ?_
  rw [activate_form, activeState, getElem?_recompute_lines]
  by_cases hj : j < s.form.d <;> simp [newState, activated, hj]

theorem noNumber_activate_lines {ln : LineRec} (h : ln ∈ (activate s).form.lines) (c : Nat) : NoNumber (lineValue ln c) := by
  rw [activate_lines] at h
  rw [List.eq_of_mem_replicate h, lineValue]
  cases hfind : valFind (lineProducts (activated s.form) (newLine s.form)).cells c with
  | none => exact .inl rfl
  | some w => exact (value_lineProducts_newLine _ _ (List.mem_of_find?_eq_some hfind)).2

/-- Every line is EMPTY. -/
theorem lineEnteredAt_activate (s : State) (l : Nat) : lineEnteredAt (activate s).form l = false := by
  unfold lineEnteredAt
  split
  · next ln h =>
    have hln := List.mem_of_getElem? h
    rw [activate_lines] at hln
    rw [List.eq_of_mem_replicate hln]
    exact ((lineCleared_newLine s.form _).lineProducts _ (by simp [activate_form, activeState, newState])).lineEntered
  · rfl

theorem valueAbsent_activate_cell {l : Nat} (hv : instValue (activate s).form (.cell l c) = some v) :
    valueAbsent v = true := by
  obtain ⟨ln, hln, hcell⟩ := Option.bind_eq_some_iff.1 hv
  obtain ⟨w, hw, rfl⟩ := Option.map_eq_some_iff.1 hcell
  have hmem := List.mem_of_getElem? hln
  rw [activate_lines] at hmem
  rw [List.eq_of_mem_replicate hmem] at hw
  exact (value_lineProducts_newLine _ _ (List.mem_of_find?_eq_some hw)).1

theorem productsFollow_activate (s : State) (l : Nat) : productsFollow (activate s).form l := by
  by_cases hl : l < s.form.d
  · rw [activate_form]
    exact productsFollow_recompute _ _ _ ⟨Nat.zero_le l, by omega⟩
  · intro cd ca cb v _ _ _ _ _ _ hv
    simp [instValue, activate_lines, hl] at hv

/-! ### Fields, sums and tags -/

theorem value_activate_field {fd : FieldDef} (hf : findField s.form n = some fd) (hk : isSumKind fd.shape.kind = false) :
    instValue (activate s).form (.field n) = some (initialValue fd.shape) := by
  have hkeep := valFind_recompute_of_not_sum (k := n) 0 s.form.d (s := newState s) fun gd hg => by cases hf.symm.trans hg; exact hk
  have hnew : valFind (activated s.form).vals n = some ⟨fd.number, initialValue fd.shape, false⟩ :=
    (valFind_newVals s.form n).trans (by rw [hf]; rfl)
  rw [activate_form]
  exact congrArg (Option.map (·.value)) (hkeep.trans hnew)

theorem value_activate_columnSum {fd : FieldDef} (hf : findField s.form n = some fd) (hk : fd.shape.kind = .columnSum)
    (hv : instValue (activate s).form (.field n) = some v) : v = .number 0 := by
  have hsum := value_recompute_columnSum (lo := 0) (n := s.form.d) (k := n) (s := newState s) hf hk
  have hzero : columnShare (activeState s).form fd.sumCol = .value 0 :=
    columnShare_zero (fun ln hln => noNumber_activate_lines (s := s) (activate_form s ▸ hln)) _
  rw [activate_form] at hv
  obtain ⟨w, hw, rfl⟩ := Option.map_eq_some_iff.1 hv
  obtain ⟨x, -, rfl⟩ := Option.map_eq_some_iff.1 (hsum.symm.trans hw)
  exact (congrArg (shareValue fd.shape) hzero).trans (shareValue_zero _)

theorem activate_active (s : State) (n : Nat) :
    assocGet (activate s).desk.active n = if n ∈ deskTags s.form then some (.value 0) else none := by
  have hactive : (activate s).desk.active =
      (zeroShares (deskTags s.form)).map (fun p => (p.1, localShare (activeState s).form p.1)) := by
    simp only [activate_eq, requestAll_desk, placeAll_desk_active]
    rw [activeState, recompute_desk_active]
    rfl
  rw [hactive, assocGet_map_key, assocGet_zeroShares,
    localShare_zero fun ln hln => noNumber_activate_lines (s := s) (activate_form s ▸ hln)]
  split <;> rfl

theorem activate_tallies (s : State) (n : Nat) :
    assocGet (activate s).desk.tallies n =
      if n ∈ deskTags s.form then some .tally else assocGet s.desk.tallies n := by
  simp [activate_eq, assocGet_placeAll_tallies, activeState, newState]

theorem sumsFollow_activate (s : State) : sumsFollow (activate s) :=
  sumsFollow_congr (t := activeState s) (activate_form s) (by simp [activate_eq]) (by simp [activate_eq])
    (sumsFollow_recompute ..)

/-! ### What else FORM END sets -/

theorem activate_tp (s : State) : (activate s).tp = s.tp := by
  simp [activate_eq, activeState, newState]

theorem activate_key (s : State) : (activate s).key = { s.key with keyboard := .free } := by
  simp [activate_eq]

theorem activate_send (s : State) : (activate s).send = s.send := by
  simp [activate_eq, activeState, newState]

theorem activate_cur (s : State) :
    (activate s).cur = { row := (homeCell s.form).1, col := (homeCell s.form).2, top := 0 } := by
  simp [activate_eq]

theorem activate_form_eq (s : State) : (activate s).form =
    { s.form with state := .active, vals := (activate s).form.vals, lines := (activate s).form.lines } := by
  rw [activate_form]
  rfl

theorem activate_desk_eq (s : State) : (activate s).desk =
    { s.desk with active := (activate s).desk.active, tallies := (activate s).desk.tallies } := by
  rw [activate_eq, requestAll_desk]
  exact (placeAll_frame .tally (deskTags s.form) (activeState s)).desk_eq

/-- Everything is painted anew (R28). -/
theorem mem_activate_items {it : Item} (h : it ∈ fullRepaint s.form) : it ∈ (activate s).comp.items := by
  rw [activate_eq]
  exact mem_requestAll h

end Activate

end Sys2Proof.Machine

namespace Sys2Proof.Proofs

open Machine

section FormEnd

variable {s : State}

theorem formEndBody_state (h : s.form.state ≠ .define) : formEndBody s = .error .refusedState := by
  simp [formEndBody, h]

theorem formEndBody_unsound (h : s.form.state = .define) (hs : formSound s.form = false) :
    formEndBody s = .error .badArgument := by
  simp [formEndBody, h, hs]

theorem formEndBody_sound (h : s.form.state = .define) (hs : formSound s.form = true) :
    formEndBody s = .ok (activate s) := by
  simp [formEndBody, h, hs]

theorem field_mem_fullRepaint {f : FormStore} {fd : FieldDef} (h : fd ∈ f.fields) :
    Item.field fd.number ∈ fullRepaint f := by
  have hitem : Item.field fd.number ∈ fieldItems (f.fields.map (·.number)) :=
    List.mem_map_of_mem (List.mem_map_of_mem h)
  simp [fullRepaint, hitem]

theorem bodyRow_mem_fullRepaint {f : FormStore} {k : Nat} (h : k < f.w) : Item.bodyRow (f.h + k) ∈ fullRepaint f := by
  simp [fullRepaint, bodyRow_mem_allBodyRows h]

end FormEnd

/-- Settles O20: the new lines hold no value, so that no product and no sum of the recomputation does. -/
theorem formEndActivatesForm : Obligations.FormEndActivatesForm := by
  intro m s hp z
  refine ⟨fun h => order_refused rfl hp (formEndBody_state h), fun h hs => order_refused rfl hp (formEndBody_unsound h hs),
    fun h hs => ⟨record .done (activate (inFrame (1 + m) s)), order_taken rfl hp (formEndBody_sound h hs), ?_⟩⟩
  refine ⟨congrArg (fun p : TpPort => { p with outcome := .done }) (activate_tp _), activate_key _, activate_send _,
    activate_form_eq _, ?_, congrArg CursorEngine.top (activate_cur _), ?_, fun l _ => lineEnteredAt_activate _ l,
    fun fd _ hk hf => ⟨_, value_activate_field (s := inFrame _ s) hf hk, valueAbsent_initialValue _⟩, activate_active _,
    activate_desk_eq _, productsFollow_activate _, sumsFollow_activate _, fun l c v _ hv => valueAbsent_activate_cell hv,
    fun fd x hf hk hx => value_activate_columnSum (s := inFrame _ s) hf hk hx, activate_tallies _,
    mem_activate_items (s := inFrame _ s) ?_, mem_activate_items (s := inFrame _ s) ?_,
    mem_activate_items (s := inFrame _ s) ?_,
    fun fd hfd => mem_activate_items (s := inFrame _ s) (field_mem_fullRepaint hfd),
    fun k hk => mem_activate_items (s := inFrame _ s) (bodyRow_mem_fullRepaint hk)⟩
  · exact congrArg (fun c : CursorEngine => (c.row, c.col)) (activate_cur _)
  · exact (congrArg List.length (activate_lines _)).trans List.length_replicate
  · simp [fullRepaint]
  · simp [fullRepaint]
  · simp [fullRepaint]

end Sys2Proof.Proofs

/-! ## What keeps a stream and what ends it (R41) -/
namespace Sys2Proof.Machine

section Streams

variable {s t u : State} {n k : Nat}

theorem KeyFrame.stream (h : KeyFrame s t) : t.tp.stream = s.tp.stream := by
  rw [h.eq]

theorem stream_of_ok (h : ok u = .next t) (hu : u.tp.stream = s.tp.stream) : t.tp.stream = s.tp.stream := by
  rw [ok_eq_next.1 h, settle_tp, hu]

/-- A row that is taken or is none of its state's events. -/
theorem stream_of_ite {p : Prop} [Decidable p] (h : (if p then ok u else noEvent s) = .next t)
    (hu : u.tp.stream = s.tp.stream) : t.tp.stream = s.tp.stream := by
  split at h
  · exact stream_of_ok h hu
  · rw [noEvent_eq_next.1 h]

/-! ### Frames of orders -/

/-- An order's rule leaves the stream that it finds. -/
def KeepsStream (body : State → Verdict) : Prop := ∀ s u, body s = .ok u → u.tp.stream = s.tp.stream

theorem runOrder_stream {body : State → Verdict} (h : runOrder n body s = .next t) (hb : KeepsStream body) :
    t.tp.stream = none := by
  rcases runOrder_cases h with ⟨o, rfl⟩ | ⟨u, -, hu, rfl⟩
  · rfl
  · rw [settle_tp, record_tp_stream, hb _ _ hu]
    rfl

theorem runRead_stream {reply : State → Except OrderOutcome (List Byte)} {after : State → State}
    (h : runRead k n reply after s = .next t) (ha : ∀ s, (after s).tp.stream = s.tp.stream) : t.tp.stream = none := by
  rcases runRead_cases h with ⟨o, rfl⟩ | ⟨r, -, -, rfl⟩
  · rfl
  · rw [settle_tp, record_tp_stream, ha]
    rfl

/-! ### The rules of the orders -/

theorem loopbackBody_stream (on : Bool) : KeepsStream (loopbackBody on) := by
  intro s u h
  unfold loopbackBody at h
  repeat' split at h
  all_goals cases h
  all_goals rfl

theorem openForm_tp_stream (h w d : Nat) (s : State) : (openForm h w d s).tp.stream = s.tp.stream :=
  congrArg TpPort.stream (retractTags_tp s)

theorem formBeginBody_stream (h w d : Nat) : KeepsStream (formBeginBody h w d) := by
  intro s u hu
  unfold formBeginBody at hu
  split at hu <;> cases hu
  exact openForm_tp_stream ..

theorem fieldDefineBody_stream (fd : Option FieldDef) : KeepsStream (fieldDefineBody fd) := by
  intro s u h
  unfold fieldDefineBody at h
  repeat' split at h
  all_goals cases h
  all_goals rfl

theorem fieldDropBody_stream (n : Nat) : KeepsStream (fieldDropBody n) := by
  intro s u h
  unfold fieldDropBody at h
  repeat' split at h
  all_goals cases h
  all_goals rfl

theorem columnDefineBody_stream (cd : Option ColumnDef) : KeepsStream (columnDefineBody cd) := by
  intro s u h
  unfold columnDefineBody at h
  repeat' split at h
  all_goals cases h
  all_goals rfl

theorem columnDropBody_stream (n : Nat) : KeepsStream (columnDropBody n) := by
  intro s u h
  unfold columnDropBody at h
  repeat' split at h
  all_goals cases h
  all_goals rfl

theorem labelWriteBody_stream (a : Option LabelArgs) (data : List Byte) : KeepsStream (labelWriteBody a data) := by
  intro s u h
  unfold labelWriteBody at h
  repeat' split at h
  all_goals cases h
  simp

theorem formEndBody_stream : KeepsStream formEndBody := by
  intro s u h
  unfold formEndBody at h
  repeat' split at h
  all_goals cases h
  exact congrArg TpPort.stream (activate_tp s)

theorem writeInst_stream {i : Inst} {sh : Shape} {a : WriteArgs} {data : List Byte} (h : writeInst i sh a data s = .ok u) :
    u.tp.stream = s.tp.stream := by
  unfold writeInst at h
  repeat' split at h
  all_goals cases h
  exact storeSystem_tp_stream ..

theorem fieldWriteBody_stream (n : Nat) (a : Option WriteArgs) (data : List Byte) : KeepsStream (fieldWriteBody n a data) := by
  intro s u h
  unfold fieldWriteBody at h
  split at h
  · cases h
  · split at h
    · split at h
      · cases h
      · exact writeInst_stream h
    · cases h

theorem cellWriteBody_stream (l c : Nat) (a : Option WriteArgs) (data : List Byte) :
    KeepsStream (cellWriteBody l c a data) := by
  intro s u h
  unfold cellWriteBody at h
  split at h
  · cases h
  · split at h
    · cases h
    · split at h
      · split at h
        · cases h
        · exact writeInst_stream h
      · cases h

theorem entriesClearBody_stream : KeepsStream entriesClearBody := by
  intro s u h
  unfold entriesClearBody at h
  split at h <;> cases h
  exact clearEntries_tp_stream ..

theorem cursorSetBody_stream (form a b : Byte) : KeepsStream (cursorSetBody form a b) := by
  intro s u h
  unfold cursorSetBody at h
  repeat' split at h
  all_goals cases h
  exact (abandonAndPlace_frame ..).stream

theorem windowSetBody_stream (n : Nat) : KeepsStream (windowSetBody n) := by
  intro s u h
  unfold windowSetBody at h
  split at h <;> cases h
  exact (abandonAndPlace_frame ..).stream

theorem releaseSend_tp (clear toHome : Bool) (s : State) : (releaseSend clear toHome s).tp = s.tp := by
  cases clear <;> cases toHome <;> simp [releaseSend]

theorem releaseBody_stream (opts : Byte) : KeepsStream (releaseBody opts) := by
  intro s u h
  unfold releaseBody at h
  repeat' split at h
  all_goals cases h
  exact congrArg TpPort.stream (releaseSend_tp ..)

theorem rejectSend_tp (code : Nat) (i : Option Inst) (message : Text) (s : State) :
    (rejectSend code i message s).tp = s.tp := by
  cases i <;> simp [rejectSend]

theorem rejectBody_stream (code form a b : Byte) (message : List Byte) : KeepsStream (rejectBody code form a b message) := by
  intro s u h
  unfold rejectBody at h
  repeat' split at h
  all_goals cases h
  exact congrArg TpPort.stream (rejectSend_tp ..)

theorem passSendBody_stream (dest : Byte) (f : Option Format) (data : List Byte) : KeepsStream (passSendBody dest f data) := by
  intro s u h
  unfold passSendBody at h
  repeat' split at h
  all_goals cases h
  rfl

theorem bannerSendBody_stream (f : Option Format) (data : List Byte) : KeepsStream (bannerSendBody f data) := by
  intro s u h
  unfold bannerSendBody at h
  repeat' split at h
  all_goals cases h
  simp

theorem execSoftReset_stream (h : execSoftReset s n = .next t) : t.tp.stream = none := by
  unfold execSoftReset at h
  split at h
  · exact runOrder_stream h (fun s u hu => by cases hu)
  · cases h
    rfl

/-- Every order but the five that R39 to R41 name ends the stream, whatever becomes of it. -/
theorem order_ends_stream {i : Instr} (h : exec i s = .next t) (hf : frameOf i ≠ none) (hstatus : ∀ n, i ≠ .statusRead n)
    (hcause : ∀ n, i ≠ .causeRead n) (hnext : ∀ f data, i ≠ .streamNext f data) (hbegin : ∀ f n, i ≠ .streamBegin f n) :
    t.tp.stream = none := by
  cases i
  case statusRead n => exact absurd rfl (hstatus n)
  case causeRead n => exact absurd rfl (hcause n)
  case streamNext f data => exact absurd rfl (hnext f data)
  case streamBegin f n => exact absurd rfl (hbegin f n)
  case causeEnable set n => exact runOrder_stream (show execCauseEnable set s n = .next t from h) (fun s u hu => by cases hu; rfl)
  case displaySet opts n => exact runOrder_stream (show execDisplaySet opts s n = .next t from h) (fun s u hu => by cases hu; rfl)
  case loopbackSet => exact runOrder_stream h (loopbackBody_stream _)
  case softReset => exact execSoftReset_stream h
  case formBegin => exact runOrder_stream h (formBeginBody_stream _ _ _)
  case fieldDefine => exact runOrder_stream h (fieldDefineBody_stream _)
  case fieldDrop => exact runOrder_stream h (fieldDropBody_stream _)
  case columnDefine => exact runOrder_stream h (columnDefineBody_stream _)
  case columnDrop => exact runOrder_stream h (columnDropBody_stream _)
  case labelWrite => exact runOrder_stream h (labelWriteBody_stream _ _)
  case formEnd => exact runOrder_stream h formEndBody_stream
  case fieldWrite => exact runOrder_stream h (fieldWriteBody_stream _ _ _)
  case cellWrite => exact runOrder_stream h (cellWriteBody_stream _ _ _ _)
  case fieldRead f n => exact runRead_stream (show execFieldRead f n s = .next t from h) (fun _ => rfl)
  case cellRead l c n => exact runRead_stream (show execCellRead l c n s = .next t from h) (fun _ => rfl)
  case entriesClear => exact runOrder_stream h entriesClearBody_stream
  case cursorSet => exact runOrder_stream h (cursorSetBody_stream _ _ _)
  case cursorRead n => exact runRead_stream (show execCursorRead n s = .next t from h) (fun _ => rfl)
  case windowSet => exact runOrder_stream h (windowSetBody_stream _)
  case key codes =>
    exact runOrder_stream (show execKey codes s = .next t from h) (fun s u hu => by cases hu; exact congrArg TpPort.stream (offerKeys_tp codes s))
  case blockRead => exact runRead_stream h (fun _ => rfl)
  case release => exact runOrder_stream h (releaseBody_stream _)
  case reject => exact runOrder_stream h (rejectBody_stream _ _ _ _ _)
  case passSend => exact runOrder_stream h (passSendBody_stream _ _ _)
  case bannerSend => exact runOrder_stream h (bannerSendBody_stream _ _)
  case passRead n => exact runRead_stream (show execPassRead n s = .next t from h) (fun s => congrArg TpPort.stream (removeInbound_tp s))
  case deskReadLinkStatus n => exact runRead_stream (show deskRead 0 n s = .next t from h) (fun s => congrArg TpPort.stream (clearLink_tp _ s))
  case deskReadTagReport sel n => exact runRead_stream (show deskRead sel n s = .next t from h) (fun s => congrArg TpPort.stream (clearLink_tp _ s))
  all_goals exact absurd rfl hf

/-! ### STREAM BEGIN and STREAM NEXT -/

/-- A STREAM BEGIN that is refused ends the stream that it finds. -/
theorem streamBegin_refused {f : Byte} (h : exec (.streamBegin f n) s = .next t) (ho : t.tp.outcome ≠ .done) :
    t.tp.stream = none := by
  rcases runOrder_cases (show runOrder _ (streamBeginBody f.toNat) s = .next t from h) with ⟨o, rfl⟩ | ⟨u, -, -, rfl⟩
  · rfl
  · exact absurd (congrArg TpPort.outcome (settle_tp _)) ho

/-- Without a stream STREAM NEXT is refused, in STARTING and in READY. -/
theorem streamNext_without {f : Byte} {data : List Byte} (h : exec (.streamNext f data) s = .next t)
    (hs : s.tp.stream = none) : t.tp.outcome = .refusedState ∧ t.tp.stream = none := by
  have hbody : streamNextBody (formatOf f) data (closeFrame (zeros (1 + (1 + data.length))) s) = .error .refusedState := by
    rw [streamNextBody, closeFrame_tp_stream, hs]
  have h' : runStreamOrder (1 + data.length) (streamNextBody (formatOf f) data) s = .next t := h
  unfold runStreamOrder at h'
  simp only [hbody] at h'
  split at h' <;> cases h' <;> exact ⟨rfl, hs⟩

/-! ### Frames that SELN closes early -/

theorem openEffect_tp (code : Byte) (rest : List Byte) (s : State) : (openEffect code rest s).tp = s.tp := by
  unfold openEffect
  repeat' split
  all_goals simp

theorem abandonKnown_stream (code : Byte) (k : Nat) (rest : List Byte) (s : State) :
    (abandonKnown code k rest s).tp.stream =
      if code = 0x34 ∨ code = 0x11 ∨ code = 0x12 then s.tp.stream else none := by
  unfold abandonKnown
  split
  · next h => simp [h]
  · split
    · next h =>
      split <;> simp [h]
    · next h11 h12 =>
      simp only [abandonOrder, openStream, record_tp_stream, h11, h12, or_false]
      split
      · simp [openEffect_tp]
      · rfl

theorem frameAbandoned_stream {code : Byte} {rest : List Byte} {part : Bool}
    (h : exec (.frameAbandoned (code :: rest) part) s = .next t) (hk : argCount code = some k)
    (hpart : part = true ∨ rest.length < k) :
    t.tp.stream = if code = 0x34 ∨ code = 0x11 ∨ code = 0x12 then s.tp.stream else none := by
  have hopen : unfinished k rest part = true := by simpa [unfinished] using hpart
  have h' : execFrameAbandoned (code :: rest) part s = .next t := h
  simp only [execFrameAbandoned, hk, hopen, if_true] at h'
  rw [ok_eq_next.1 h', settle_tp, abandonKnown_stream]

theorem frameAbandoned_nil_stream {part : Bool} (h : exec (.frameAbandoned [] part) s = .next t) :
    t.tp.stream = s.tp.stream := by
  have h' : ok (if part then record .abandoned (closeFrame [] s) else closeFrame [] s) = .next t := h
  refine stream_of_ok h' ?_
  split <;> rfl

theorem unknownOrderCode_stream {code : Byte} {bytes : List Byte} (h : exec (.unknownOrderCode code bytes) s = .next t)
    (hk : argCount code = none) : t.tp.stream = none := by
  have h' : execUnknownOrderCode code bytes s = .next t := h
  rw [execUnknownOrderCode, if_pos hk] at h'
  rw [ok_eq_next.1 h', settle_tp]
  rfl

/-! ### Keys -/

theorem eq_send_of_keyRowOf {i : Instr} (h : keyRowOf i = some .send) : i = .send := by
  cases i <;> simp [keyRowOf] at h ⊢

theorem eq_signalKey_of_keyRowOf {i : Instr} (h : keyRowOf i = some .signal) : i = .signalKey := by
  cases i <;> simp [keyRowOf] at h ⊢

theorem keyRow_stream {i : Instr} (h : exec i s = .next t) (hk : keyRowOf i ≠ none) : t.tp.stream = s.tp.stream := by
  have hframe : ∀ {q : List Byte} {u : State}, KeyFrame (setQueue q s) u → u.tp.stream = s.tp.stream := fun hu =>
    hu.stream.trans (congrArg TpPort.stream (setQueue_tp _ s))
  by_cases hsend : i = .send ∨ i = .signalKey
  · rcases sendRow_cases hsend h with rfl | ⟨b, q, u, -, -, hu, rfl | ⟨code, rfl⟩⟩
    · rfl
    · rw [settle_tp, hframe hu]
    · rw [settle_tp, beginAssembly, setKeyboard_tp, hframe hu]
  · obtain ⟨k, hk⟩ := Option.ne_none_iff_exists'.1 hk
    have hne : k ≠ .send := fun e => hsend (.inl (eq_send_of_keyRowOf (e ▸ hk)))
    have hns : k ≠ .signal := fun e => hsend (.inr (eq_signalKey_of_keyRowOf (e ▸ hk)))
    rcases keyRow_frame hk hne hns h with rfl | ⟨b, q, u, -, -, hu, rfl⟩
    · rfl
    · rw [settle_tp, hframe hu]

/-! ### Events -/

theorem applyFrame_stream {k : FrameKind} {effect : Frame → State → State} (h : applyFrame k effect s = .next t)
    (he : ∀ f s, (effect f s).tp.stream = s.tp.stream) : t.tp.stream = s.tp.stream := by
  rcases applyFrame_cases h with rfl | ⟨f, -, -, -, rfl⟩
  · rfl
  · rw [settle_tp, he, clearHandoff_tp]

theorem tallyEffect_stream (f : Frame) (s : State) : (tallyEffect f s).tp.stream = s.tp.stream := by
  unfold tallyEffect
  split <;> simp

theorem retractEffect_stream (f : Frame) (s : State) : (retractEffect f s).tp.stream = s.tp.stream := by
  unfold retractEffect
  dsimp only
  split
  · simp
  · split <;> simp

theorem enterYield_stream (s : State) : (enterYield s).tp.stream = s.tp.stream :=
  retire_tp_stream s

theorem execRenderComplete_stream (h : execRenderComplete s = .next t) : t.tp.stream = s.tp.stream := by
  unfold execRenderComplete at h
  split at h
  · exact stream_of_ok h (congrArg TpPort.stream (render_tp ..))
  · rw [noEvent_eq_next.1 h]

theorem execAssemblyComplete_stream (h : execAssemblyComplete s = .next t) : t.tp.stream = s.tp.stream := by
  unfold execAssemblyComplete at h
  split at h
  · split at h
    · exact stream_of_ok h (raiseError_tp_stream ..)
    · exact stream_of_ok h rfl
  · rw [noEvent_eq_next.1 h]

theorem execFrameAssemblerCharacter_stream (h : execFrameAssemblerCharacter s = .next t) :
    t.tp.stream = s.tp.stream := by
  unfold execFrameAssemblerCharacter at h
  split at h
  · exact stream_of_ok h rfl
  · rw [noEvent_eq_next.1 h]

theorem execAccessGapReached_stream (h : execAccessGapReached s = .next t) : t.tp.stream = s.tp.stream := by
  unfold execAccessGapReached at h
  split at h
  · split at h
    · exact stream_of_ok h rfl
    · rw [noEvent_eq_next.1 h]
  · rw [noEvent_eq_next.1 h]

theorem execCollision_stream (h : execCollision s = .next t) : t.tp.stream = s.tp.stream := by
  unfold execCollision at h
  split at h
  · split at h
    · exact stream_of_ok h rfl
    · exact stream_of_ok h (enterYield_stream _)
  · rw [noEvent_eq_next.1 h]

theorem execResetnReleased_stream {stn : Station} {rate : Rate} (h : execResetnReleased stn rate s = .next t) :
    t.tp.stream = s.tp.stream := by
  unfold execResetnReleased at h
  split at h
  · cases h
    split <;> rfl
  · rw [noEvent_eq_next.1 h]

theorem execSupplySteady_stream {stn : Station} {rate : Rate} (h : execSupplySteady stn rate s = .next t) :
    t.tp.stream = s.tp.stream := by
  unfold execSupplySteady at h
  split at h
  · cases h
    split <;> rfl
  · rw [noEvent_eq_next.1 h]

/-- Every row that is neither an order, a key, a closed frame nor a reset keeps the stream. -/
theorem event_keeps_stream {i : Instr} (h : exec i s = .next t) (hf : frameOf i = none) (hk : keyRowOf i = none)
    (hunknown : ∀ code bytes, i ≠ .unknownOrderCode code bytes) (habandoned : ∀ bytes part, i ≠ .frameAbandoned bytes part)
    (hpower : i ≠ .powerOn) (hreset : i ≠ .resetnAsserted) : t.tp.stream = s.tp.stream := by
  cases i
  case frameAbandoned bytes part => exact absurd rfl (habandoned bytes part)
  case unknownOrderCode code bytes => exact absurd rfl (hunknown code bytes)
  case powerOn => exact absurd rfl hpower
  case resetnAsserted => exact absurd rfl hreset
  case frameOpen => exact stream_of_ite h rfl
  case assemblyComplete => exact execAssemblyComplete_stream h
  case renderComplete => exact execRenderComplete_stream h
  case alarmTimerExpiry => exact stream_of_ite h rfl
  case resetnReleased => exact execResetnReleased_stream h
  case supplySteady => exact execSupplySteady_stream h
  case startUpComplete => exact stream_of_ite h rfl
  case characterReceived => exact stream_of_ite h rfl
  case breakDetected => exact stream_of_ite h rfl
  case lineHighAfterBreak => exact stream_of_ite h rfl
  case receiveListenComplete => exact stream_of_ite h rfl
  case startBit => exact stream_of_ite h rfl
  case gapTimerExpiry => exact stream_of_ite h rfl
  case frameAssemblerCharacter => exact execFrameAssemblerCharacter_stream h
  case greet => exact applyFrame_stream h fun f s => by simp [greetEffect]
  case tally => exact applyFrame_stream h tallyEffect_stream
  case retract => exact applyFrame_stream h retractEffect_stream
  case banner => exact applyFrame_stream h fun f s => by simp [bannerEffect]
  case pass => exact applyFrame_stream h fun f s => by simp [passEffect]
  case pause => exact applyFrame_stream h fun f s => rfl
  case resume => exact applyFrame_stream (show execResume s = .next t from h) fun f s => rfl
  case joinListenComplete => exact stream_of_ite h rfl
  case accessGapReached => exact execAccessGapReached_stream h
  case frameSent => exact stream_of_ite h (enterYield_stream s)
  case collision => exact execCollision_stream h
  case backoffComplete => exact stream_of_ite h rfl
  case yieldComplete => exact stream_of_ite h (by simp)
  case deskTick => exact stream_of_ite h (tick_tp_stream s)
  case contributionAgeOut => exact stream_of_ite h (retable_tp_stream _ s)
  case refresh => exact stream_of_ite h (by simp)
  case holdTimerExpiry => exact stream_of_ite h rfl
  case bannerExpiry => exact stream_of_ite h (by simp)
  all_goals simp [frameOf, keyRowOf] at hf hk

end Streams

end Sys2Proof.Machine

namespace Sys2Proof.Proofs

open Machine

/-- Settles O14: the frame of an order ends the stream before its rule, and no other row writes it. -/
theorem streamEndsByOtherOrder : Obligations.StreamEndsByOtherOrder := by
  intro i s t h
  refine ⟨?_, ?_, ?_, ?_, fun hf hstatus hcause hnext hbegin => order_ends_stream h hf hstatus hcause hnext hbegin,
    ?_, ?_, ?_, ?_, fun hk => keyRow_stream h hk, fun hf hunknown habandoned hpower hreset => ?_⟩
  · rintro n rfl
    exact stream_of_ok (show ok (statusFrame n s) = .next t from h) (statusFrame_tp_stream n s)
  · rintro n rfl
    have h' : execCauseRead n s = .next t := h
    unfold execCauseRead at h'
    split at h'
    · cases h'
      rfl
    · exact stream_of_ok h' (causeFrame_tp_stream n s)
  · rintro f data rfl hs
    exact streamNext_without h hs
  · rintro f n rfl ho
    exact streamBegin_refused h ho
  · rintro code bytes rfl hk
    exact unknownOrderCode_stream h hk
  · rintro code rest part k rfl hk hpart
    exact frameAbandoned_stream h hk hpart
  · rintro part rfl
    exact frameAbandoned_nil_stream h
  · rintro (rfl | rfl) <;> cases h <;> rfl
  · cases hk : keyRowOf i with
    | some k => exact keyRow_stream h (by simp [hk])
    | none => exact event_keeps_stream h hf hk hunknown habandoned hpower hreset

end Sys2Proof.Proofs

/-! ## The grid of a form (R2, R6, R9, R16)

What leaves the geometry, the records and the number of lines of a form as they are. -/
namespace Sys2Proof.Machine

section Grid

/-- Form `g` has the geometry, the records and as many lines as `f`: it differs in contents and labels alone. -/
structure SameGrid (f g : FormStore) : Prop where
  state : g.state = f.state
  h : g.h = f.h
  w : g.w = f.w
  d : g.d = f.d
  fields : g.fields = f.fields
  cols : g.cols = f.cols
  lines : g.lines.length = f.lines.length

theorem SameGrid.refl (f : FormStore) : SameGrid f f := ⟨rfl, rfl, rfl, rfl, rfl, rfl, rfl⟩

theorem SameGrid.trans {f g k : FormStore} (a : SameGrid f g) (b : SameGrid g k) : SameGrid f k :=
  ⟨b.state.trans a.state, b.h.trans a.h, b.w.trans a.w, b.d.trans a.d, b.fields.trans a.fields, b.cols.trans a.cols,
    b.lines.trans a.lines⟩

variable {s t u : State}

/-- The state `t` has the grid and the cursor of `s`. -/
structure Steady (s t : State) : Prop where
  grid : SameGrid s.form t.form
  cur : t.cur = s.cur

theorem Steady.of_eq (hf : t.form = s.form) (hc : t.cur = s.cur) : Steady s t := ⟨hf ▸ .refl _, hc⟩

theorem Steady.refl (s : State) : Steady s s := .of_eq rfl rfl

theorem Steady.trans (a : Steady s t) (b : Steady t u) : Steady s u := ⟨a.grid.trans b.grid, b.cur.trans a.cur⟩

theorem Steady.settle (a : Steady s t) : Steady s (settle t) := a.trans (.of_eq (settle_form t) (settle_cur t))

theorem length_lines_of_lineKeys {f g : FormStore} (h : lineKeys g = lineKeys f) : g.lines.length = f.lines.length := by
  simpa [lineKeys] using congrArg List.length h

/-- What keeps the frame of a key and the keys of the contents keeps the grid. -/
theorem KeyFrame.grid (h : KeyFrame s t) (hk : lineKeys t.form = lineKeys s.form) : SameGrid s.form t.form := by
  have hf := h.form_eq
  exact ⟨(congrArg FormStore.state hf :), (congrArg FormStore.h hf :), (congrArg FormStore.w hf :), (congrArg FormStore.d hf :),
    (congrArg FormStore.fields hf :), (congrArg FormStore.cols hf :), length_lines_of_lineKeys hk⟩

theorem KeyFrame.steady (h : KeyFrame s t) (hk : lineKeys t.form = lineKeys s.form) (hc : t.cur = s.cur) : Steady s t :=
  ⟨h.grid hk, hc⟩

/-! ### Contents written and computed -/

theorem reckonIf_form (c : Bool) (b : State) (i : Inst) (s : State) :
    (reckonIf c b i s).form = if c then (recompute (instLines i).1 (instLines i).2 s).form else s.form := by
  cases c
  · rfl
  · exact handOn_form ..

theorem lineKeys_reckonIf (c : Bool) (b : State) (i : Inst) (s : State) :
    lineKeys (reckonIf c b i s).form = lineKeys s.form := by
  rw [reckonIf_form]
  split
  · exact lineKeys_recompute ..
  · rfl

theorem lineKeys_writeForm (m : Bool) (i : Inst) (v : Value) (s : State) :
    lineKeys (writeForm m i v s).form = lineKeys s.form := by
  rw [writeForm_form, lineKeys_storedForm]

theorem steady_reckonIf (c : Bool) (b : State) (i : Inst) (s : State) : Steady s (reckonIf c b i s) :=
  (reckonIf_frame ..).steady (lineKeys_reckonIf ..) (reckonIf_cur ..)

theorem steady_writeForm (m : Bool) (i : Inst) (v : Value) (s : State) : Steady s (writeForm m i v s) :=
  (writeForm_frame ..).steady (lineKeys_writeForm ..) (writeForm_cur ..)

theorem steady_storeCompleted (i : Inst) (v : Value) (s : State) : Steady s (storeCompleted i v s) := by
  refine (steady_writeForm (differs s i v) i v s).trans ((steady_reckonIf (differs s i v) s i _).trans (.of_eq ?_ ?_))
  · exact (dropEdit_form _).trans (requestInst_form ..)
  · exact (dropEdit_cur _).trans (requestInst_cur ..)

theorem steady_complete (h : complete s = .ok t) : Steady s t := by
  rcases complete_cases h with rfl | rfl | ⟨e, v, -, rfl⟩
  · exact .refl _
  · exact .of_eq rfl rfl
  · exact steady_storeCompleted ..

theorem steady_storeSystem (i : Inst) (sh : Shape) (m : Bool) (v : Value) (s : State) :
    Steady s (storeSystem i sh m v s) := by
  refine (storeSystem_frame ..).steady ?_ (storeSystem_cur ..)
  rcases storeSystem_cases i sh v s with ⟨hd, hk⟩ | h
  · rw [storeSystem_form_of_number hd hk, lineKeys_recompute, lineKeys_stored]
  · rw [storeSystem_form_of_not_number h, lineKeys_storedForm]

theorem steady_clearEntries (m : Bool) (s : State) : Steady s (clearEntries m s) :=
  (clearEntries_frame m s).steady (by rw [clearEntries_form, lineKeys_clearedState]) (clearEntries_cur m s)

theorem steady_retable (g : List (Nat × Entry) → List (Nat × Entry)) (s : State) : Steady s (retable g s) :=
  ⟨⟨by simp, by simp, by simp, by simp, by simp, by simp, by simp⟩, by simp⟩

theorem steady_tick (s : State) : Steady s (tick s) :=
  ⟨⟨by simp, by simp, by simp, by simp, by simp, by simp, by simp⟩, by simp⟩

end Grid

end Sys2Proof.Machine

/-! ## The cursor on the form area, the window on the line group (R47, R48)

Every target that a rule of chapter 3 works out is in range, and every command that moves cursor or window goes to such a
target. -/
namespace Sys2Proof.Machine

section Area

/-- The cursor stands on the form area and the window on the line group. -/
structure CursorOn (f : FormStore) (c : CursorEngine) : Prop where
  row : c.row < formRows
  col : c.col < screenCols
  top : c.top + f.w ≤ f.d

variable {s t u : State} {r c top : Nat}

theorem CursorSound.on (h : CursorSound s) : CursorOn s.form s.cur := ⟨h.row, h.col, h.top⟩

/-- On the grid of a sound state a cursor in range is all that is needed. -/
theorem CursorSound.of_grid (h : CursorSound s) (hg : SameGrid s.form t.form) (hc : CursorOn s.form t.cur) :
    CursorSound t where
  geometry := by rw [hg.h, hg.w, hg.d]; exact h.geometry
  records := by rw [recordsOnScreen, hg.fields, hg.cols]; exact h.records
  row := hc.row
  col := hc.col
  top := by rw [hg.w, hg.d]; exact hc.top
  lines ha := by rw [hg.lines, hg.d]; exact h.lines (hg.state ▸ ha)

theorem Steady.sound (h : Steady s t) (hs : CursorSound s) : CursorSound t :=
  hs.of_grid h.grid (h.cur ▸ hs.on)

theorem CursorSound.settle (h : CursorSound s) : CursorSound (settle s) := (Steady.refl s).settle.sound h

theorem CursorSound.placeCursor (h : CursorSound s) (hc : CursorOn s.form ⟨r, c, top⟩) :
    CursorSound (placeCursor r c top s) :=
  h.of_grid (placeCursor_form r c top s ▸ .refl _) ((placeCursor_cur r c top s).symm ▸ hc)

theorem CursorSound.setCursorCol (h : CursorSound s) (hc : c < screenCols) : CursorSound (setCursorCol c s) :=
  h.of_grid (.refl _) ⟨h.row, hc, h.top⟩

theorem CursorOn.of_grid (h : SameGrid s.form t.form) {k : CursorEngine} (hc : CursorOn s.form k) : CursorOn t.form k :=
  ⟨hc.row, hc.col, by rw [h.w, h.d]; exact hc.top⟩

/-! ### Rows and records -/

theorem CursorSound.window (h : CursorSound s) : s.form.h ≤ 23 ∧ s.form.h + s.form.w ≤ 24 := by
  obtain ⟨hh, -, hsum, -⟩ := (Proofs.geometryLegal_iff ..).1 h.geometry
  exact ⟨hh, hsum⟩

theorem recordsOnScreen_iff (f : FormStore) : recordsOnScreen f = true ↔
    (∀ fd ∈ f.fields, fd.row < formRows ∧ 0 < fd.shape.length ∧ fd.col + fd.shape.length ≤ screenCols) ∧
    ∀ cd ∈ f.cols, 0 < cd.shape.length ∧ cd.col + cd.shape.length ≤ screenCols := by
  simp only [recordsOnScreen, Bool.and_eq_true, List.all_eq_true, decide_eq_true_eq]

theorem CursorSound.onScreen (h : CursorSound s) : s.cur.row < 24 ∧ s.cur.col < 80 := ⟨h.row, h.col⟩

theorem CursorSound.field (h : CursorSound s) {fd : FieldDef} (hm : fd ∈ s.form.fields) :
    fd.row < 24 ∧ 0 < fd.shape.length ∧ fd.col + fd.shape.length ≤ 80 :=
  ((recordsOnScreen_iff _).1 h.records).1 fd hm

theorem CursorSound.column (h : CursorSound s) {cd : ColumnDef} (hm : cd ∈ s.form.cols) :
    0 < cd.shape.length ∧ cd.col + cd.shape.length ≤ 80 :=
  ((recordsOnScreen_iff _).1 h.records).2 cd hm

theorem mem_of_findField {f : FormStore} {n : Nat} {fd : FieldDef} (h : findField f n = some fd) : fd ∈ f.fields :=
  List.mem_of_find?_eq_some h

theorem mem_of_findCol {f : FormStore} {n : Nat} {cd : ColumnDef} (h : findCol f n = some cd) : cd ∈ f.cols :=
  List.mem_of_find?_eq_some h

/-- The cells of an entry instance lie on the screen (R7, R9). -/
theorem CursorSound.entry (h : CursorSound s) {i : Inst} {sh : Shape} {c0 : Nat} (he : currentEntry s = some (i, sh, c0)) :
    0 < sh.length ∧ c0 + sh.length ≤ 80 := by
  have hcells : ∀ j r, instShape s.form j = some sh → instFirst s.form s.cur.top j = some (r, c0) →
      0 < sh.length ∧ c0 + sh.length ≤ 80 := by
    intro j r hsh hfirst
    cases j with
    | field n =>
      obtain ⟨fd, hf, rfl⟩ := Option.map_eq_some_iff.1 hsh
      simp only [instFirst, hf, Option.map_some, Option.some.injEq, Prod.mk.injEq] at hfirst
      obtain ⟨-, rfl⟩ := hfirst
      exact (h.field (mem_of_findField hf)).2
    | cell l k =>
      obtain ⟨cd, hc, rfl⟩ := Option.map_eq_some_iff.1 hsh
      simp only [instFirst, hc] at hfirst
      split at hfirst
      · next hcd =>
        cases hfirst
        cases hcd
        exact h.column (mem_of_findCol hc)
      · cases hfirst
  unfold currentEntry at he
  split at he
  · cases he
  · next j _ =>
    split at he
    · next sh' r c hsh hfirst =>
      split at he
      · cases he
        exact hcells _ _ hsh hfirst
      · cases he
    · cases he

/-! ### Tab stops (R56) and the Home position (R60) -/

theorem mem_stopCols {f : FormStore} (h : c ∈ stopCols f) : ∃ cd ∈ f.cols, cd.col = c := by
  obtain ⟨cd, hm, rfl⟩ := List.mem_map.1 h
  exact ⟨cd, List.mem_of_mem_filter hm, rfl⟩

theorem CursorSound.stopCol (h : CursorSound s) (hc : c ∈ stopCols s.form) : c < 80 := by
  obtain ⟨cd, hm, rfl⟩ := mem_stopCols hc
  have := h.column hm
  omega

theorem CursorSound.tabStop (h : CursorSound s) {p : Nat × Nat} (hp : p ∈ tabStops s.form) :
    p.1 < 24 ∧ p.2 < 80 := by
  have hfield : ∀ {b : Bool}, p ∈ fieldStops s.form b → p.1 < 24 ∧ p.2 < 80 := by
    intro b hp
    obtain ⟨fd, hm, rfl⟩ := List.mem_map.1 hp
    have hfd := h.field (List.mem_of_mem_filter hm)
    exact ⟨hfd.1, by omega⟩
  simp only [tabStops, List.mem_append, List.mem_flatMap, List.mem_range] at hp
  obtain (hp | ⟨k, hk, hp⟩) | hp := hp
  · exact hfield hp
  · obtain ⟨c, hc, rfl⟩ := List.mem_map.1 hp
    have hw := h.window
    exact ⟨show s.form.h + k < 24 by omega, h.stopCol hc⟩
  · exact hfield hp

/-- A tab stop with the window where it is. -/
theorem CursorSound.stop_on (h : CursorSound s) {p : Nat × Nat} (hp : p ∈ tabStops s.form) :
    CursorOn s.form ⟨p.1, p.2, s.cur.top⟩ := ⟨(h.tabStop hp).1, (h.tabStop hp).2, h.top⟩

theorem CursorSound.home_on (h : CursorSound s) : CursorOn s.form ⟨(homeCell s.form).1, (homeCell s.form).2, s.cur.top⟩ := by
  unfold homeCell
  cases hstops : tabStops s.form with
  | nil => exact ⟨show 0 < 24 by omega, show 0 < 80 by omega, h.top⟩
  | cons p ps => exact h.stop_on (p := p) (hstops ▸ List.mem_cons_self)

/-! ### Targets of the movement keys -/

/-- The target of a move, if it has one, is in range. -/
def MoveOn (f : FormStore) (m : Move) : Prop := ∀ r c top, m = .target r c top → CursorOn f ⟨r, c, top⟩

theorem moveOn_blocked (f : FormStore) : MoveOn f .blocked := nofun

theorem CursorOn.moveOn {f : FormStore} (h : CursorOn f ⟨r, c, top⟩) : MoveOn f (.target r c top) := by
  intro _ _ _ e
  cases e
  exact h

/-- A target with the window where it is. -/
theorem CursorSound.target_on (h : CursorSound s) (hr : r < 24) (hc : c < 80) :
    MoveOn s.form (.target r c s.cur.top) := CursorOn.moveOn ⟨hr, hc, h.top⟩

theorem bodyStops_iff (f : FormStore) : bodyStops f = true ↔ 0 < f.w ∧ stopCols f ≠ [] := by
  simp [bodyStops]

/-- The bottom window row with a stop column, the window one line on (R57, R59). -/
theorem CursorSound.scroll_on (h : CursorSound s) (hb : bodyStops s.form = true) (hd : s.cur.top + s.form.w < s.form.d) :
    CursorOn s.form ⟨bottomRow s.form, (stopCols s.form).headD 0, s.cur.top + 1⟩ := by
  obtain ⟨hpos, hne⟩ := (bodyStops_iff _).1 hb
  have hw := h.window
  obtain ⟨c, cs, hcols⟩ := List.exists_cons_of_ne_nil hne
  have hc := h.stopCol (hcols ▸ List.mem_cons_self : c ∈ stopCols s.form)
  exact ⟨show s.form.h + s.form.w - 1 < 24 by omega, by rw [hcols]; exact hc,
    show s.cur.top + 1 + s.form.w ≤ s.form.d by omega⟩

theorem CursorSound.tabMove_on (h : CursorSound s) : MoveOn s.form (tabMove s) := by
  unfold tabMove
  dsimp only
  split
  · exact moveOn_blocked _
  · next first rest hstops =>
    split
    · next hc => exact (h.scroll_on hc.1 hc.2.2.2).moveOn
    · split
      · next p hp => exact (h.stop_on (List.mem_of_find?_eq_some hp)).moveOn
      · exact (h.stop_on (hstops ▸ List.mem_cons_self)).moveOn

theorem CursorSound.newlineMove_on (h : CursorSound s) : MoveOn s.form (newlineMove s) := by
  unfold newlineMove
  split
  · exact moveOn_blocked _
  · next first rest hstops =>
    split
    · next hc => exact (h.scroll_on hc.1 hc.2.2).moveOn
    · split
      · next p hp => exact (h.stop_on (hstops ▸ List.mem_of_find?_eq_some hp)).moveOn
      · exact (h.stop_on (hstops ▸ List.mem_cons_self)).moveOn

theorem CursorSound.backFrom_on (h : CursorSound s) (ref : Nat × Nat) : MoveOn s.form (backtabMove.backFrom s ref) := by
  have hw := h.window
  have htop := h.top
  unfold backtabMove.backFrom
  split
  · exact moveOn_blocked _
  · next last hlast =>
    split
    · next hc =>
      obtain ⟨hpos, hne⟩ := (bodyStops_iff _).1 hc.1
      have hcol : (stopCols s.form).getLastD 0 < 80 := by
        rw [List.getLastD_eq_getLast?, List.getLast?_eq_some_getLast hne]
        exact h.stopCol (List.getLast_mem hne)
      exact CursorOn.moveOn ⟨show s.form.h < 24 by omega, hcol, show s.cur.top - 1 + s.form.w ≤ s.form.d by omega⟩
    · split
      · next p hp => exact (h.stop_on (List.mem_of_mem_filter (List.mem_of_getLast? hp))).moveOn
      · exact (h.stop_on (List.mem_of_getLast? hlast)).moveOn

theorem CursorSound.backtabMove_on (h : CursorSound s) : MoveOn s.form (backtabMove s) := by
  unfold backtabMove
  split
  · next c0 he =>
    have hcells := h.entry he
    split
    · exact h.target_on h.row (by omega)
    · exact h.backFrom_on _
  · exact h.backFrom_on _

theorem CursorSound.rightMove_on (h : CursorSound s) : MoveOn s.form (rightMove s) := by
  obtain ⟨hrow, -⟩ := h.onScreen
  unfold rightMove formRows screenCols
  split
  · exact h.target_on h.row (by omega)
  · split
    · exact h.target_on (by omega) (by omega)
    · exact h.target_on (by omega) (by omega)

theorem CursorSound.leftMove_on (h : CursorSound s) : MoveOn s.form (leftMove s) := by
  obtain ⟨hrow, hcol⟩ := h.onScreen
  unfold leftMove formRows screenCols
  split
  · exact h.target_on h.row (by omega)
  · split
    · exact h.target_on (by omega) (by omega)
    · exact h.target_on (by omega) (by omega)

theorem CursorSound.downMove_on (h : CursorSound s) : MoveOn s.form (downMove s) := by
  obtain ⟨hrow, -⟩ := h.onScreen
  unfold downMove formRows
  split
  · exact CursorOn.moveOn ⟨h.row, h.col, show s.cur.top + 1 + s.form.w ≤ s.form.d by omega⟩
  · split
    · exact h.target_on (by omega) h.col
    · exact h.target_on (by omega) h.col

theorem CursorSound.upMove_on (h : CursorSound s) : MoveOn s.form (upMove s) := by
  obtain ⟨hrow, -⟩ := h.onScreen
  have htop := h.top
  unfold upMove formRows
  split
  · exact CursorOn.moveOn ⟨h.row, h.col, show s.cur.top - 1 + s.form.w ≤ s.form.d by omega⟩
  · split
    · exact h.target_on (by omega) h.col
    · exact h.target_on (by omega) h.col

theorem CursorSound.pageMove_on (h : CursorSound s) (htop : top + s.form.w ≤ s.form.d) : MoveOn s.form (pageMove s top) := by
  unfold pageMove
  split
  · exact moveOn_blocked _
  · exact CursorOn.moveOn ⟨h.row, h.col, htop⟩

/-- The rule of every movement key names a target in range (R53 to R61). -/
theorem CursorSound.move_on (h : CursorSound s) {k : Key} {m : State → Move} (hm : moveOf k = some m) :
    MoveOn s.form (m s) := by
  have htop := h.top
  cases k <;> cases hm
  case tab => exact h.tabMove_on
  case backtab => exact h.backtabMove_on
  case home => exact h.home_on.moveOn
  case newline => exact h.newlineMove_on
  case left => exact h.leftMove_on
  case right => exact h.rightMove_on
  case up => exact h.upMove_on
  case down => exact h.downMove_on
  case pageForward => exact h.pageMove_on (by omega)
  case pageBack => exact h.pageMove_on (by omega)

/-! ### Placing the cursor on an instance (R44) -/

theorem CursorSound.seek_on (h : CursorSound s) {i : Inst} (hi : seekInst s i = some (r, c, top)) :
    CursorOn s.form ⟨r, c, top⟩ := by
  have hw := h.window
  have htop := h.top
  cases i with
  | field n =>
    obtain ⟨fd, hf, e⟩ := Option.map_eq_some_iff.1 hi
    cases e
    have hfd := h.field (mem_of_findField hf)
    exact ⟨hfd.1, show fd.col < 80 by omega, h.top⟩
  | cell l n =>
    simp only [seekInst] at hi
    split at hi
    · next hl =>
      obtain ⟨cd, hc, e⟩ := Option.map_eq_some_iff.1 hi
      cases e
      have hcd := h.column (mem_of_findCol hc)
      refine ⟨?_, show cd.col < 80 by omega, ?_⟩
      · show s.form.h + _ < 24
        split
        · next hv =>
          simp only [lineVisible, Bool.and_eq_true, decide_eq_true_eq] at hv
          omega
        · omega
      · dsimp only
        split <;> omega
    · cases hi

end Area

end Sys2Proof.Machine

/-! ## Keys keep cursor and window in range -/
namespace Sys2Proof.Machine

section KeyActions

variable {s t : State} {r c top : Nat}

theorem steady_dropEdit (s : State) : Steady s (dropEdit s) := .of_eq rfl rfl

theorem steady_request (i : Item) (s : State) : Steady s (request i s) := .of_eq rfl rfl

theorem CursorSound.pulseAlarm (h : CursorSound s) : CursorSound (pulseAlarm s) :=
  Steady.sound (s := s) (.of_eq rfl rfl) h

theorem CursorSound.setQueue (h : CursorSound s) (q : List Byte) : CursorSound (setQueue q s) :=
  Steady.sound (s := s) (.of_eq rfl rfl) h

theorem CursorSound.raiseError (h : CursorSound s) (e : OpError) : CursorSound (raiseError e s) :=
  (Steady.of_eq (raiseError_form e s) (raiseError_cur e s)).sound h

theorem CursorSound.setBuffer (h : CursorSound s) (i : Inst) (b : Text) : CursorSound (setBuffer i b s) :=
  (Steady.of_eq (setBuffer_form i b s) (setBuffer_cur i b s)).sound h

theorem CursorSound.abandonEdit (h : CursorSound s) : CursorSound (abandonEdit s) :=
  (Steady.of_eq (abandonEdit_form s) (abandonEdit_cur s)).sound h

/-- A key that needs completion first keeps what its action keeps on every state with the grid and cursor before it. -/
theorem CursorSound.afterCompletion (h : CursorSound s) {f : State → State}
    (hf : ∀ t, Steady s t → CursorSound (f t)) : CursorSound (afterCompletion f s) := by
  rcases afterCompletion_cases f s with ⟨x, -, e⟩ | ⟨t, ht, e⟩ <;> rw [e]
  · exact h.raiseError x
  · exact hf t (steady_complete ht)

theorem CursorSound.doMove (h : CursorSound s) {m : Move} (hm : MoveOn s.form m) : CursorSound (doMove m s) := by
  rcases doMove_cases m s with ⟨-, e⟩ | ⟨r, c, top, hmove, e | e⟩ <;> rw [e]
  · exact h.pulseAlarm
  · exact h.afterCompletion fun t ht => (ht.sound h).placeCursor ((hm r c top hmove).of_grid ht.grid)
  · exact h.placeCursor (hm r c top hmove)

theorem CursorSound.actTab (h : CursorSound s) : CursorSound (actTab s) := h.doMove h.tabMove_on

/-! ### Data and editing keys -/

theorem CursorSound.advance (h : CursorSound s) {sh : Shape} {c0 : Nat} (hc : c0 + sh.length ≤ 80) (p : Nat) :
    CursorSound (advance sh c0 p s) := by
  unfold Machine.advance
  split
  · exact h.setCursorCol (show _ < 80 by omega)
  · split
    · exact h.actTab
    · exact h

theorem CursorSound.textKey (h : CursorSound s) {sh : Shape} {c0 : Nat} (hc : c0 + sh.length ≤ 80) (i : Inst) (b : Byte) :
    CursorSound (textKey i sh c0 b s) := by
  unfold Machine.textKey
  dsimp only
  repeat' split
  · exact (h.setBuffer ..).raiseError _
  · exact (h.setBuffer ..).raiseError _
  · exact (h.setBuffer ..).advance hc _
  · exact (h.setBuffer ..).advance hc _

theorem numberCol_lt {sh : Shape} {c0 : Nat} (hp : 0 < sh.length) (hc : c0 + sh.length ≤ 80) (buf : Text) :
    numberCol sh c0 buf < screenCols := by
  show c0 + min buf.length (sh.length - 1) < 80
  omega

theorem CursorSound.numberKey (h : CursorSound s) {sh : Shape} {c0 : Nat} (hp : 0 < sh.length)
    (hc : c0 + sh.length ≤ 80) (i : Inst) (b : Byte) : CursorSound (numberKey i sh c0 b s) := by
  unfold Machine.numberKey
  dsimp only
  split
  · exact (h.setBuffer ..).raiseError _
  · have hwritten := (h.setBuffer i (bufferFor s i sh ++ [b])).setCursorCol (numberCol_lt hp hc (bufferFor s i sh ++ [b]))
    split
    · exact hwritten.actTab
    · exact hwritten

theorem CursorSound.dataKey (h : CursorSound s) (b : Byte) : CursorSound (dataKey b s) := by
  unfold Machine.dataKey
  split
  · exact h.raiseError _
  · next i sh c0 he =>
    obtain ⟨hp, hc⟩ := h.entry he
    split
    · exact h.numberKey hp hc i b
    · exact h.textKey hc i b

theorem CursorSound.numberBackspace (h : CursorSound s) {sh : Shape} {c0 : Nat} (hp : 0 < sh.length)
    (hc : c0 + sh.length ≤ 80) (i : Inst) : CursorSound (numberBackspace i sh c0 s) := by
  unfold Machine.numberBackspace
  dsimp only
  split
  · exact h.pulseAlarm
  · exact (h.setBuffer ..).setCursorCol (numberCol_lt hp hc _)

theorem CursorSound.backspaceKey (h : CursorSound s) : CursorSound (backspaceKey s) := by
  obtain ⟨-, hcol⟩ := h.onScreen
  unfold Machine.backspaceKey
  split
  · exact h.raiseError _
  · next i sh c0 he =>
    obtain ⟨hp, hc⟩ := h.entry he
    split
    · exact h.numberBackspace hp hc i
    · dsimp only
      split
      · exact h.pulseAlarm
      · exact (h.setBuffer ..).setCursorCol (show _ < 80 by omega)

theorem CursorSound.deleteKey (h : CursorSound s) : CursorSound (deleteKey s) := by
  unfold Machine.deleteKey
  split
  · exact h.raiseError _
  · next i sh c0 he =>
    obtain ⟨hp, hc⟩ := h.entry he
    split
    · exact h.numberBackspace hp hc i
    · exact h.setBuffer ..

theorem CursorSound.clearToEndKey (h : CursorSound s) : CursorSound (clearToEndKey s) := by
  unfold Machine.clearToEndKey
  split
  · exact h.raiseError _
  · next i sh c0 he =>
    obtain ⟨hp, hc⟩ := h.entry he
    split
    · exact (h.setBuffer ..).setCursorCol (show c0 < 80 by omega)
    · exact h.setBuffer ..

theorem CursorSound.clearAllKey (h : CursorSound s) : CursorSound (clearAllKey s) :=
  have hclear := (steady_clearEntries true s).sound h
  hclear.placeCursor hclear.home_on

theorem CursorSound.repeatAboveKey (h : CursorSound s) : CursorSound (repeatAboveKey s) := by
  unfold Machine.repeatAboveKey
  split
  · split
    · exact h.raiseError _
    · exact h.raiseError _
    · exact (((steady_dropEdit s).trans ((steady_writeForm ..).trans ((steady_reckonIf ..).trans
        (steady_request ..)))).sound h).actTab
  · exact h.raiseError _

/-! ### Line keys -/

theorem length_insertLineAt {f : FormStore} {l : Nat} (hl : l < f.lines.length) :
    (insertLineAt f l).length = f.lines.length := by
  simp only [insertLineAt, markLines, List.length_append, List.length_take, List.length_map, List.length_cons,
    List.length_dropLast, List.length_drop]
  omega

theorem length_deleteLineAt {f : FormStore} {l : Nat} (hl : l < f.lines.length) :
    (deleteLineAt f l).length = f.lines.length := by
  simp only [deleteLineAt, markChanged, List.length_zipWith, List.length_append, List.length_take, List.length_drop,
    List.length_cons, List.length_nil]
  omega

/-- The line under the cursor is one of the group (R50). -/
theorem CursorSound.cursorLine_lt (h : CursorSound s) {l : Nat} (hl : cursorLine s = some l) : l < s.form.d := by
  have htop := h.top
  simp only [cursorLine, lineAt, isWindowRow, Bool.and_eq_true, decide_eq_true_eq] at hl
  split at hl
  · cases hl
    omega
  · cases hl

theorem CursorSound.toFirstStop (h : CursorSound s) : CursorSound (toFirstStop s) := by
  unfold Machine.toFirstStop
  split
  · exact h
  · next c cs hcols => exact h.placeCursor ⟨h.row, h.stopCol (hcols ▸ List.mem_cons_self), h.top⟩

/-- The state in which a line key has moved the records, the recomputation still to come. -/
def withLines (new : List LineRec) (s : State) : State := { s with form := { s.form with lines := new } }

theorem linesMoved_eq (l : Nat) (new : List LineRec) (s : State) :
    linesMoved l new s =
      toFirstStop (requestAll (rowsFrom s l) (reckon (withLines new s) l (s.form.d - l) (withLines new s))) := rfl

theorem CursorSound.linesMoved (h : CursorSound s) {new : List LineRec} (hnew : new.length = s.form.lines.length) (l : Nat) :
    CursorSound (linesMoved l new s) := by
  have hmoved : Steady s (withLines new s) := ⟨⟨rfl, rfl, rfl, rfl, rfl, rfl, hnew⟩, rfl⟩
  have hreckon : Steady (withLines new s) (reckon (withLines new s) l (s.form.d - l) (withLines new s)) :=
    (reckon_frame ..).steady (by rw [reckon, handOn_form, lineKeys_recompute]) (reckon_cur ..)
  rw [linesMoved_eq]
  exact (((hmoved.trans hreckon).trans (.of_eq (requestAll_form ..) (requestAll_cur ..))).sound h).toFirstStop

/-- A line key acts on a line of an ACTIVE form (R16, R62). -/
theorem CursorSound.lineKey (h : CursorSound s) {act : Nat → State → State}
    (hact : ∀ l t, CursorSound t → l < t.form.d → t.form.state = s.form.state → CursorSound (act l t)) :
    CursorSound (lineKey act s) := by
  unfold Machine.lineKey
  split
  · exact h.raiseError _
  · next l hl =>
    exact h.afterCompletion fun t ht => hact l t (ht.sound h) (by rw [ht.grid.d]; exact h.cursorLine_lt hl) ht.grid.state

theorem CursorSound.insertLine (h : CursorSound s) (ha : s.form.state = .active) {l : Nat} (hl : l < s.form.d) :
    CursorSound (insertLine l s) := by
  unfold Machine.insertLine
  split
  · exact h.raiseError _
  · exact h.linesMoved (length_insertLineAt (by rw [h.lines ha]; exact hl)) l

theorem CursorSound.deleteLine (h : CursorSound s) (ha : s.form.state = .active) {l : Nat} (hl : l < s.form.d) :
    CursorSound (deleteLine l s) :=
  h.linesMoved (length_deleteLineAt (by rw [h.lines ha]; exact hl)) l

/-! ### SEND and the signal keys -/

theorem CursorSound.placeOn (h : CursorSound s) (i : Inst) : CursorSound (placeOn i s) := by
  unfold Machine.placeOn
  split
  · next hi => exact h.placeCursor (h.seek_on hi)
  · exact h

theorem steady_beginAssembly (code : Byte) (s : State) : Steady s (beginAssembly code s) :=
  .of_eq (setKeyboard_form ..) (setKeyboard_cur ..)

theorem CursorSound.sendChecked (h : CursorSound s) : CursorSound (sendChecked s) := by
  unfold Machine.sendChecked
  split
  · exact (h.placeOn _).raiseError _
  · exact (steady_beginAssembly ..).sound h

/-! ### Key rows -/

/-- A key whose action keeps the cursor in range on an ACTIVE form does so when it is taken, and in ERROR. -/
theorem CursorSound.takeKey (h : CursorSound s) {k : Key} {act : Byte → State → State}
    (ha : ∀ b u, CursorSound u → u.form.state = .active → CursorSound (act b u)) (ht : takeKey k act s = .next t) :
    CursorSound t := by
  rcases takeKey_cases ht with rfl | ⟨b, q, -, hc, -, ⟨-, rfl⟩ | ⟨-, rfl⟩⟩
  · exact h
  · exact (h.setQueue q).pulseAlarm.settle
  · have hactive : s.form.state = .active := by
      simp only [canTake, Bool.and_eq_true, decide_eq_true_eq] at hc
      tauto
    exact (ha b _ (h.setQueue q) hactive).settle

theorem CursorSound.execReset (h : CursorSound s) (ht : execReset s = .next t) : CursorSound t := by
  rcases execReset_cases ht with rfl | ⟨b, q, -, -, -, ⟨-, rfl⟩ | ⟨-, rfl⟩⟩
  · exact h
  · exact ((Steady.of_eq (clearError_form _) (clearError_cur _)).sound (h.setQueue q)).settle
  · exact (h.setQueue q).settle

theorem CursorSound.keyRow (h : CursorSound s) {i : Instr} (hi : keyRowOf i ≠ none) (ht : exec i s = .next t) :
    CursorSound t := by
  have move : ∀ {k : Key} {m : State → Move}, moveOf k = some m →
      Machine.takeKey k (fun _ u => Machine.doMove (m u) u) s = .next t → CursorSound t :=
    fun hm hkey => h.takeKey (fun _ _ hu _ => hu.doMove (hu.move_on hm)) hkey
  cases i
  case dataKey => exact h.takeKey (fun b _ hu _ => hu.dataKey b) ht
  case tab => exact move rfl ht
  case backtab => exact move rfl ht
  case home => exact move rfl ht
  case newline => exact move rfl ht
  case left => exact move rfl ht
  case right => exact move rfl ht
  case up => exact move rfl ht
  case down => exact move rfl ht
  case pageForward => exact move rfl ht
  case pageBack => exact move rfl ht
  case backspace => exact h.takeKey (fun _ _ hu _ => hu.backspaceKey) ht
  case delete => exact h.takeKey (fun _ _ hu _ => hu.deleteKey) ht
  case insert => exact h.takeKey (fun _ u hu _ => (Steady.of_eq (insertKey_form u) (insertKey_cur u)).sound hu) ht
  case clearToEnd => exact h.takeKey (fun _ _ hu _ => hu.clearToEndKey) ht
  case clearAll => exact h.takeKey (fun _ _ hu _ => hu.clearAllKey) ht
  case repeatAbove => exact h.takeKey (fun _ _ hu _ => hu.repeatAboveKey) ht
  case lineInsert =>
    exact h.takeKey (fun _ _ hu ha => hu.lineKey fun _ _ hv hl hs => hv.insertLine (hs.trans ha) hl) ht
  case lineDelete =>
    exact h.takeKey (fun _ _ hu ha => hu.lineKey fun _ _ hv hl hs => hv.deleteLine (hs.trans ha) hl) ht
  case reset => exact h.execReset ht
  case send => exact h.takeKey (fun _ _ hu _ => hu.afterCompletion fun _ hv => (hv.sound hu).sendChecked) ht
  case signalKey => exact h.takeKey (fun b u hu _ => (steady_beginAssembly b _).sound hu.abandonEdit) ht
  all_goals exact absurd rfl hi

end KeyActions

end Sys2Proof.Machine

/-! ## Orders keep cursor and window in range -/
namespace Sys2Proof.Machine

section OrderRules

variable {s t u : State} {n k : Nat}

/-- An order's rule keeps the cursor on the form area and the window on the line group. -/
def KeepsCursor (body : State → Verdict) : Prop := ∀ s u, CursorSound s → body s = .ok u → CursorSound u

theorem steady_inFrame (sdo : List Byte) (s : State) : Steady s (endStream (closeFrame sdo s)) := .of_eq rfl rfl

theorem steady_closeFrame (sdo : List Byte) (s : State) : Steady s (closeFrame sdo s) := .of_eq rfl rfl

theorem steady_record (o : OrderOutcome) (s : State) : Steady s (record o s) := .of_eq rfl rfl

theorem CursorSound.runOrder (h : CursorSound s) {body : State → Verdict} (ht : runOrder n body s = .next t)
    (hb : KeepsCursor body) : CursorSound t := by
  rcases runOrder_cases ht with ⟨o, rfl⟩ | ⟨u, -, hu, rfl⟩
  · exact ((steady_inFrame _ s).trans (steady_record ..)).sound h
  · exact ((steady_record .done u).sound (hb _ u ((steady_inFrame _ s).sound h) hu)).settle

theorem CursorSound.runStreamOrder (h : CursorSound s) {body : State → Verdict} (ht : runStreamOrder n body s = .next t)
    (hb : KeepsCursor body) : CursorSound t := by
  rcases runStreamOrder_cases ht with ⟨o, rfl⟩ | ⟨u, -, hu, rfl⟩
  · exact ((steady_closeFrame _ s).trans (steady_record ..)).sound h
  · exact ((steady_record .done u).sound (hb _ u ((steady_closeFrame _ s).sound h) hu)).settle

theorem CursorSound.runRead (h : CursorSound s) {reply : State → Except OrderOutcome (List Byte)} {after : State → State}
    (ht : runRead k n reply after s = .next t) (ha : ∀ s, Steady s (after s)) : CursorSound t := by
  rcases runRead_cases ht with ⟨o, rfl⟩ | ⟨r, -, -, rfl⟩
  · exact ((steady_inFrame _ s).trans (steady_record ..)).sound h
  · exact (((steady_inFrame _ s).trans ((ha _).trans (steady_record ..))).sound h).settle

/-! ### The rules that define a form -/

/-- A form that FORM BEGIN opens has its cursor at row 0 and column 0 and its window at line 0 (R23). -/
theorem keepsCursor_formBegin (h w d : Nat) : KeepsCursor (formBeginBody h w d) := by
  intro s u _ hu
  unfold formBeginBody at hu
  split at hu
  · next hg =>
    cases hu
    obtain ⟨-, -, -, hzero, hdepth⟩ := (Proofs.geometryLegal_iff ..).1 hg
    refine ⟨hg, rfl, show 0 < 24 by omega, show 0 < 80 by omega, show 0 + w ≤ d by omega, nofun⟩
  · cases hu

/-- A form in DEFINE with another table of records, all on the screen. -/
theorem CursorSound.with_records (h : CursorSound s) (hdef : s.form.state = .define) {fields : List FieldDef}
    {cols : List ColumnDef} (hr : recordsOnScreen { s.form with fields := fields, cols := cols } = true) :
    CursorSound { s with form := { s.form with fields := fields, cols := cols } } where
  geometry := h.geometry
  records := hr
  row := h.row
  col := h.col
  top := h.top
  lines ha := by cases hdef.symm.trans ha

theorem onScreen_of_fieldLegal {f : FormStore} {fd : FieldDef} (h : fieldLegal f fd = true) :
    fd.row < formRows ∧ 0 < fd.shape.length ∧ fd.col + fd.shape.length ≤ screenCols := by
  simp only [fieldLegal, fieldAloneLegal, Bool.and_eq_true, decide_eq_true_eq] at h
  exact ⟨by tauto, Proofs.length_pos_of_shapeLegal (by tauto), by tauto⟩

theorem onScreen_of_columnLegal {f : FormStore} {cd : ColumnDef} (h : columnLegal f cd = true) :
    0 < cd.shape.length ∧ cd.col + cd.shape.length ≤ screenCols := by
  simp only [columnLegal, columnAloneLegal, Bool.and_eq_true, decide_eq_true_eq] at h
  exact ⟨Proofs.length_pos_of_shapeLegal (by tauto), by tauto⟩

theorem keepsCursor_fieldDefine (r : Option FieldDef) : KeepsCursor (fieldDefineBody r) := by
  intro s u h hu
  obtain ⟨hf, hc⟩ := (recordsOnScreen_iff _).1 h.records
  unfold fieldDefineBody at hu
  split at hu
  · cases hu
  · next hdef =>
    split at hu
    · cases hu
    · next fd =>
      split at hu
      · cases hu
      · next hl =>
        split at hu
        · cases hu
        · cases hu
          refine h.with_records (not_not.1 hdef) ((recordsOnScreen_iff _).2 ⟨fun g hg => ?_, hc⟩)
          rw [Proofs.insertField_eq_orderedInsert] at hg
          rcases (List.mem_orderedInsert _).1 hg with rfl | hg
          · exact onScreen_of_fieldLegal (by simpa using hl)
          · exact hf g hg

theorem keepsCursor_columnDefine (r : Option ColumnDef) : KeepsCursor (columnDefineBody r) := by
  intro s u h hu
  obtain ⟨hf, hc⟩ := (recordsOnScreen_iff _).1 h.records
  unfold columnDefineBody at hu
  split at hu
  · cases hu
  · next hdef =>
    split at hu
    · cases hu
    · next cd =>
      split at hu
      · cases hu
      · next hl =>
        split at hu
        · cases hu
        · cases hu
          refine h.with_records (not_not.1 hdef) ((recordsOnScreen_iff _).2 ⟨hf, fun g hg => ?_⟩)
          rw [Proofs.insertCol_eq_orderedInsert] at hg
          rcases (List.mem_orderedInsert _).1 hg with rfl | hg
          · exact onScreen_of_columnLegal (by simpa using hl)
          · exact hc g hg

theorem keepsCursor_fieldDrop (n : Nat) : KeepsCursor (fieldDropBody n) := by
  intro s u h hu
  obtain ⟨hf, hc⟩ := (recordsOnScreen_iff _).1 h.records
  unfold fieldDropBody at hu
  split at hu
  · cases hu
  · next hdef =>
    split at hu
    · cases hu
    · cases hu
      exact h.with_records (not_not.1 hdef)
        ((recordsOnScreen_iff _).2 ⟨fun g hg => hf g (List.mem_of_mem_filter hg), hc⟩)

theorem keepsCursor_columnDrop (n : Nat) : KeepsCursor (columnDropBody n) := by
  intro s u h hu
  obtain ⟨hf, hc⟩ := (recordsOnScreen_iff _).1 h.records
  unfold columnDropBody at hu
  split at hu
  · cases hu
  · next hdef =>
    split at hu
    · cases hu
    · cases hu
      exact h.with_records (not_not.1 hdef)
        ((recordsOnScreen_iff _).2 ⟨hf, fun g hg => hc g (List.mem_of_mem_filter hg)⟩)

theorem steady_labelWritten (a : LabelArgs) (t : Text) (s : State) : Steady s (Proofs.labelWritten a t s) := by
  refine ⟨?_, requestAll_cur ..⟩
  rw [Proofs.labelWritten_form, Proofs.labelled_eq]
  exact ⟨rfl, rfl, rfl, rfl, rfl, rfl, rfl⟩

theorem keepsCursor_labelWrite (a : Option LabelArgs) (data : List Byte) : KeepsCursor (labelWriteBody a data) := by
  intro s u h hu
  unfold labelWriteBody at hu
  repeat' split at hu
  all_goals cases hu
  exact (steady_labelWritten ..).sound h

/-- FORM END makes a record for each line and places the cursor on the Home position (R16, R28). -/
theorem keepsCursor_formEnd : KeepsCursor formEndBody := by
  intro s u h hu
  have hform := activate_form_eq s
  unfold formEndBody at hu
  repeat' split at hu
  all_goals cases hu
  have hhome := h.home_on
  refine ⟨?_, ?_, ?_, ?_, ?_, fun _ => ?_⟩
  · rw [hform]; exact h.geometry
  · rw [hform]; exact h.records
  · rw [activate_cur]; exact hhome.row
  · rw [activate_cur]; exact hhome.col
  · have htop := h.top
    rw [activate_cur, hform]
    show 0 + s.form.w ≤ s.form.d
    omega
  · rw [activate_lines, List.length_replicate, hform]

/-! ### The rules of content orders -/

theorem CursorSound.writeInst (h : CursorSound s) {i : Inst} {sh : Shape} {a : WriteArgs} {data : List Byte}
    (hu : writeInst i sh a data s = .ok u) : CursorSound u := by
  unfold Machine.writeInst at hu
  repeat' split at hu
  all_goals cases hu
  exact (steady_storeSystem ..).sound h

theorem keepsCursor_fieldWrite (n : Nat) (a : Option WriteArgs) (data : List Byte) : KeepsCursor (fieldWriteBody n a data) := by
  intro s u h hu
  unfold fieldWriteBody at hu
  split at hu
  · cases hu
  · split at hu
    · split at hu
      · cases hu
      · exact h.writeInst hu
    · cases hu

theorem keepsCursor_cellWrite (l c : Nat) (a : Option WriteArgs) (data : List Byte) :
    KeepsCursor (cellWriteBody l c a data) := by
  intro s u h hu
  unfold cellWriteBody at hu
  split at hu
  · cases hu
  · split at hu
    · cases hu
    · split at hu
      · split at hu
        · cases hu
        · exact h.writeInst hu
      · cases hu

theorem keepsCursor_streamBegin (n : Nat) : KeepsCursor (streamBeginBody n) := by
  intro s u h hu
  unfold streamBeginBody at hu
  repeat' split at hu
  all_goals cases hu
  exact Steady.sound (s := s) (.of_eq rfl rfl) h

theorem keepsCursor_streamNext (f : Option Format) (data : List Byte) : KeepsCursor (streamNextBody f data) := by
  intro s u h hu
  unfold streamNextBody at hu
  split at hu
  · cases hu
  · split at hu
    · cases hu
    · split at hu
      · split at hu
        · next t ht =>
          cases hu
          exact Steady.sound (s := t) (.of_eq rfl rfl) (h.writeInst ht)
        · cases hu
      · cases hu

theorem keepsCursor_entriesClear : KeepsCursor entriesClearBody := by
  intro s u h hu
  unfold entriesClearBody at hu
  split at hu <;> cases hu
  exact (steady_clearEntries ..).sound h

/-! ### The rules that place cursor and window -/

theorem CursorSound.abandonAndPlace (h : CursorSound s) {r c top : Nat} (hc : CursorOn s.form ⟨r, c, top⟩) :
    CursorSound (abandonAndPlace r c top s) :=
  h.of_grid (Proofs.abandonAndPlace_form r c top s ▸ .refl _) ((Proofs.abandonAndPlace_cur r c top s).symm ▸ hc)

theorem CursorSound.cursorTarget_on (h : CursorSound s) {form a b : Byte} {r c top : Nat}
    (ht : cursorTarget form a b s = some (r, c, top)) : CursorOn s.form ⟨r, c, top⟩ := by
  unfold cursorTarget at ht
  split at ht
  · split at ht
    · next hcell =>
      cases ht
      exact ⟨hcell.1, hcell.2, h.top⟩
    · cases ht
  · obtain ⟨i, -, hi⟩ := Option.bind_eq_some_iff.1 ht
    exact h.seek_on hi

theorem keepsCursor_cursorSet (form a b : Byte) : KeepsCursor (cursorSetBody form a b) := by
  intro s u h hu
  unfold cursorSetBody at hu
  split at hu
  · cases hu
  · split at hu
    · next r c top ht =>
      cases hu
      exact h.abandonAndPlace (h.cursorTarget_on ht)
    · cases hu

theorem keepsCursor_windowSet (top : Nat) : KeepsCursor (windowSetBody top) := by
  intro s u h hu
  have htop := h.top
  unfold windowSetBody at hu
  split at hu <;> cases hu
  exact h.abandonAndPlace ⟨h.row, h.col, by dsimp only; omega⟩

theorem sameGrid_unmarkForm (f : FormStore) : SameGrid f (unmarkForm f) :=
  ⟨rfl, rfl, rfl, rfl, rfl, rfl, by simp [unmarkForm]⟩

theorem steady_setKeyboard (k : Keyboard) (s : State) : Steady s (setKeyboard k s) := .of_eq rfl rfl

theorem CursorSound.releaseSend (h : CursorSound s) (clear toHome : Bool) : CursorSound (releaseSend clear toHome s) := by
  have hclear : Steady s (if clear then { dropSend s with form := unmarkForm s.form } else dropSend s) := by
    cases clear
    · exact .of_eq rfl rfl
    · exact ⟨sameGrid_unmarkForm s.form, rfl⟩
  have hsound := hclear.sound h
  have hhome := hsound.placeCursor hsound.home_on
  cases toHome
  · exact (steady_setKeyboard ..).sound hsound
  · exact (steady_setKeyboard ..).sound hhome

theorem keepsCursor_release (opts : Byte) : KeepsCursor (releaseBody opts) := by
  intro s u h hu
  unfold releaseBody at hu
  repeat' split at hu
  all_goals cases hu
  exact h.releaseSend ..

theorem CursorSound.rejectSend (h : CursorSound s) (code : Nat) (i : Option Inst) (message : Text) :
    CursorSound (rejectSend code i message s) := by
  have hdrop : CursorSound (dropSend s) := Steady.sound (s := s) (.of_eq rfl rfl) h
  cases i with
  | none => exact Steady.sound (s := dropSend s) (.of_eq rfl rfl) hdrop
  | some i => exact Steady.sound (s := Machine.placeOn i (dropSend s)) (.of_eq rfl rfl) (hdrop.placeOn i)

theorem keepsCursor_reject (code form a b : Byte) (message : List Byte) : KeepsCursor (rejectBody code form a b message) := by
  intro s u h hu
  unfold rejectBody at hu
  repeat' split at hu
  all_goals cases hu
  exact h.rejectSend ..

/-! ### Control orders and messages -/

theorem keepsCursor_of_steady {body : State → Verdict} (hb : ∀ s u, body s = .ok u → Steady s u) : KeepsCursor body :=
  fun s u h hu => (hb s u hu).sound h

theorem steady_loopbackBody {on : Bool} (h : loopbackBody on s = .ok u) : Steady s u := by
  unfold loopbackBody at h
  repeat' split at h
  all_goals cases h
  all_goals exact .of_eq rfl rfl

theorem steady_passSendBody {dest : Byte} {f : Option Format} {data : List Byte} (h : passSendBody dest f data s = .ok u) :
    Steady s u := by
  unfold passSendBody at h
  repeat' split at h
  all_goals cases h
  exact .of_eq rfl rfl

theorem steady_bannerSendBody {f : Option Format} {data : List Byte} (h : bannerSendBody f data s = .ok u) :
    Steady s u := by
  unfold bannerSendBody at h
  repeat' split at h
  all_goals cases h
  exact .of_eq (setBanner_form ..) (setBanner_cur ..)

theorem CursorSound.execSoftReset (h : CursorSound s) (ht : execSoftReset s n = .next t) : CursorSound t := by
  unfold Machine.execSoftReset at ht
  split at ht
  · exact h.runOrder ht fun _ _ _ hu => by cases hu
  · cases ht
    exact (steady_closeFrame ..).sound (Proofs.cursorSound_resetTo ..)

/-- Every order of the table (R194) keeps cursor and window in range. -/
theorem CursorSound.order (h : CursorSound s) {i : Instr} (hi : frameOf i ≠ none) (ht : exec i s = .next t) :
    CursorSound t := by
  cases i
  case statusRead n =>
    rw [ok_eq_next.1 (show ok (statusFrame n s) = .next t from ht)]
    exact (Steady.of_eq (statusFrame_form n s) (statusFrame_cur n s)).settle.sound h
  case causeRead n =>
    have ht' : execCauseRead n s = .next t := ht
    unfold execCauseRead at ht'
    split at ht'
    · cases ht'
      exact (steady_closeFrame ..).sound h
    · rw [ok_eq_next.1 ht']
      exact (Steady.of_eq (causeFrame_form n s) (causeFrame_cur n s)).settle.sound h
  case causeEnable set n =>
    exact h.runOrder (show execCauseEnable set s n = .next t from ht)
      (keepsCursor_of_steady fun s u hu => by cases hu; exact .of_eq rfl rfl)
  case displaySet opts n =>
    exact h.runOrder (show execDisplaySet opts s n = .next t from ht)
      (keepsCursor_of_steady fun s u hu => by cases hu; exact .of_eq rfl rfl)
  case loopbackSet => exact h.runOrder ht (keepsCursor_of_steady fun _ _ => steady_loopbackBody)
  case softReset => exact h.execSoftReset ht
  case formBegin => exact h.runOrder ht (keepsCursor_formBegin _ _ _)
  case fieldDefine => exact h.runOrder ht (keepsCursor_fieldDefine _)
  case fieldDrop => exact h.runOrder ht (keepsCursor_fieldDrop _)
  case columnDefine => exact h.runOrder ht (keepsCursor_columnDefine _)
  case columnDrop => exact h.runOrder ht (keepsCursor_columnDrop _)
  case labelWrite => exact h.runOrder ht (keepsCursor_labelWrite _ _)
  case formEnd => exact h.runOrder ht keepsCursor_formEnd
  case fieldWrite => exact h.runOrder ht (keepsCursor_fieldWrite _ _ _)
  case cellWrite => exact h.runOrder ht (keepsCursor_cellWrite _ _ _ _)
  case streamBegin => exact h.runOrder ht (keepsCursor_streamBegin _)
  case streamNext => exact h.runStreamOrder ht (keepsCursor_streamNext _ _)
  case fieldRead f n => exact h.runRead (show execFieldRead f n s = .next t from ht) fun s => .refl s
  case cellRead l c n => exact h.runRead (show execCellRead l c n s = .next t from ht) fun s => .refl s
  case entriesClear => exact h.runOrder ht keepsCursor_entriesClear
  case cursorSet => exact h.runOrder ht (keepsCursor_cursorSet _ _ _)
  case cursorRead n => exact h.runRead (show execCursorRead n s = .next t from ht) fun s => .refl s
  case windowSet => exact h.runOrder ht (keepsCursor_windowSet _)
  case key codes =>
    exact h.runOrder (show execKey codes s = .next t from ht)
      (keepsCursor_of_steady fun s u hu => by cases hu; exact .of_eq (offerKeys_form ..) (offerKeys_cur ..))
  case blockRead => exact h.runRead ht fun s => .of_eq rfl rfl
  case release => exact h.runOrder ht (keepsCursor_release _)
  case reject => exact h.runOrder ht (keepsCursor_reject _ _ _ _ _)
  case passSend => exact h.runOrder ht (keepsCursor_of_steady fun _ _ => steady_passSendBody)
  case bannerSend => exact h.runOrder ht (keepsCursor_of_steady fun _ _ => steady_bannerSendBody)
  case passRead n =>
    exact h.runRead (show execPassRead n s = .next t from ht) fun s => .of_eq (removeInbound_form s) (removeInbound_cur s)
  case deskReadLinkStatus n =>
    exact h.runRead (show deskRead 0 n s = .next t from ht) fun s => .of_eq (clearLink_form _ s) (clearLink_cur _ s)
  case deskReadTagReport sel n =>
    exact h.runRead (show deskRead sel n s = .next t from ht) fun s => .of_eq (clearLink_form _ s) (clearLink_cur _ s)
  all_goals exact absurd rfl hi

end OrderRules

end Sys2Proof.Machine

/-! ## Events leave cursor and window -/
namespace Sys2Proof.Machine

section EventRows

variable {s t u : State}

theorem steady_of_ok (h : ok u = .next t) (hu : Steady s u) : Steady s t := ok_eq_next.1 h ▸ hu.settle

/-- A row that is taken or is none of its state's events. -/
theorem steady_of_ite {p : Prop} [Decidable p] (h : (if p then ok u else noEvent s) = .next t) (hu : Steady s u) :
    Steady s t := by
  split at h
  · exact steady_of_ok h hu
  · rw [noEvent_eq_next.1 h]
    exact .refl s

theorem steady_applyFrame {k : FrameKind} {effect : Frame → State → State} (h : applyFrame k effect s = .next t)
    (he : ∀ f s, Steady s (effect f s)) : Steady s t := by
  rcases applyFrame_cases h with rfl | ⟨f, -, -, -, rfl⟩
  · exact .refl _
  · exact ((Steady.of_eq (clearHandoff_form s) (clearHandoff_cur s)).trans (he f _)).settle

theorem steady_greetEffect (f : Frame) (s : State) : Steady s (greetEffect f s) :=
  .trans (.of_eq (by simp) (by simp)) (steady_retable (dropSource (sourceOf f))
    (placeAll .tally (activeTags s.desk) (unpause (sourceOf f) s)))

theorem steady_tallyEffect (f : Frame) (s : State) : Steady s (tallyEffect f s) := by
  unfold tallyEffect
  split
  · exact steady_retable ..
  · exact .of_eq rfl rfl

theorem steady_retractEffect (f : Frame) (s : State) : Steady s (retractEffect f s) := by
  unfold retractEffect
  dsimp only
  split
  · exact .of_eq rfl rfl
  · split <;> exact steady_retable ..

theorem steady_enterYield (s : State) : Steady s (enterYield s) := .of_eq (retire_form s) (retire_cur s)

theorem steady_dropFrame (s : State) : Steady s (dropFrame s) :=
  .of_eq (retire_form _) (retire_cur _)

theorem steady_renderComplete (h : execRenderComplete s = .next t) : Steady s t := by
  unfold execRenderComplete at h
  split at h
  · exact steady_of_ok h (.of_eq (render_form ..) (render_cur ..))
  · rw [noEvent_eq_next.1 h]
    exact .refl s

theorem steady_assemblyComplete (h : execAssemblyComplete s = .next t) : Steady s t := by
  unfold execAssemblyComplete at h
  split at h
  · split at h
    · exact steady_of_ok h (.of_eq (raiseError_form ..) (raiseError_cur ..))
    · exact steady_of_ok h (.of_eq rfl rfl)
  · rw [noEvent_eq_next.1 h]
    exact .refl s

theorem steady_frameAssemblerCharacter (h : execFrameAssemblerCharacter s = .next t) : Steady s t := by
  unfold execFrameAssemblerCharacter at h
  split at h
  · exact steady_of_ok h (.of_eq rfl rfl)
  · rw [noEvent_eq_next.1 h]
    exact .refl s

theorem steady_accessGapReached (h : execAccessGapReached s = .next t) : Steady s t := by
  unfold execAccessGapReached at h
  split at h
  · split at h
    · exact steady_of_ok h (.of_eq rfl rfl)
    · rw [noEvent_eq_next.1 h]
      exact .refl s
  · rw [noEvent_eq_next.1 h]
    exact .refl s

theorem steady_collision (h : execCollision s = .next t) : Steady s t := by
  unfold execCollision at h
  split at h
  · split at h
    · exact steady_of_ok h (.of_eq rfl rfl)
    · exact steady_of_ok h (steady_dropFrame s)
  · rw [noEvent_eq_next.1 h]
    exact .refl s

theorem steady_resetnReleased {stn : Station} {rate : Rate} (h : execResetnReleased stn rate s = .next t) : Steady s t := by
  unfold execResetnReleased at h
  split at h
  · cases h
    split <;> exact .of_eq rfl rfl
  · rw [noEvent_eq_next.1 h]
    exact .refl s

theorem steady_supplySteady {stn : Station} {rate : Rate} (h : execSupplySteady stn rate s = .next t) : Steady s t := by
  unfold execSupplySteady at h
  split at h
  · cases h
    split <;> exact .of_eq rfl rfl
  · rw [noEvent_eq_next.1 h]
    exact .refl s

theorem steady_openEffect (code : Byte) (rest : List Byte) (s : State) : Steady s (openEffect code rest s) := by
  unfold openEffect
  repeat' split
  all_goals exact .of_eq (by simp) (by simp)

theorem steady_abandonKnown (code : Byte) (k : Nat) (rest : List Byte) (s : State) :
    Steady s (abandonKnown code k rest s) := by
  unfold abandonKnown
  repeat' split
  · exact .of_eq (statusFrame_form ..) (statusFrame_cur ..)
  · exact .of_eq (causeFrame_form ..) (causeFrame_cur ..)
  · exact steady_closeFrame ..
  · refine (steady_openEffect code rest s).trans (Steady.trans (steady_closeFrame (openSdo code k rest s) _) ?_)
    unfold abandonOrder openStream
    split <;> exact .of_eq rfl rfl

theorem steady_frameAbandoned {bytes : List Byte} {part : Bool} (h : execFrameAbandoned bytes part s = .next t) :
    Steady s t := by
  cases bytes with
  | nil =>
    refine steady_of_ok h ?_
    split <;> exact .of_eq rfl rfl
  | cons code rest =>
    unfold execFrameAbandoned at h
    dsimp only at h
    split at h
    · exact steady_of_ok h (.of_eq (unknownFrame_form ..) (unknownFrame_cur ..))
    · exact steady_of_ite h (steady_abandonKnown ..)

/-- Every row that is neither an order, a key nor a reset leaves cursor, window and grid. -/
theorem steady_event {i : Instr} (h : exec i s = .next t) (hf : frameOf i = none) (hk : keyRowOf i = none)
    (hpower : i ≠ .powerOn) (hreset : i ≠ .resetnAsserted) : Steady s t := by
  cases i
  case powerOn => exact absurd rfl hpower
  case resetnAsserted => exact absurd rfl hreset
  case frameOpen => exact steady_of_ite h (.of_eq rfl rfl)
  case frameAbandoned => exact steady_frameAbandoned h
  case unknownOrderCode => exact steady_of_ite h (.of_eq rfl rfl)
  case assemblyComplete => exact steady_assemblyComplete h
  case renderComplete => exact steady_renderComplete h
  case alarmTimerExpiry => exact steady_of_ite h (.of_eq rfl rfl)
  case resetnReleased => exact steady_resetnReleased h
  case supplySteady => exact steady_supplySteady h
  case startUpComplete => exact steady_of_ite h (.of_eq rfl rfl)
  case characterReceived => exact steady_of_ite h (.of_eq rfl rfl)
  case breakDetected => exact steady_of_ite h (.of_eq rfl rfl)
  case lineHighAfterBreak => exact steady_of_ite h (.of_eq rfl rfl)
  case receiveListenComplete => exact steady_of_ite h (.of_eq rfl rfl)
  case startBit => exact steady_of_ite h (.of_eq rfl rfl)
  case gapTimerExpiry => exact steady_of_ite h (.of_eq rfl rfl)
  case frameAssemblerCharacter => exact steady_frameAssemblerCharacter h
  case greet => exact steady_applyFrame h steady_greetEffect
  case tally => exact steady_applyFrame h steady_tallyEffect
  case retract => exact steady_applyFrame h steady_retractEffect
  case banner => exact steady_applyFrame h fun f s => .of_eq (setBanner_form ..) (setBanner_cur ..)
  case pass => exact steady_applyFrame h fun f s => .of_eq (deliver_form ..) (deliver_cur ..)
  case pause => exact steady_applyFrame h fun f s => .of_eq rfl rfl
  case resume => exact steady_applyFrame (show execResume s = .next t from h) fun f s => .of_eq rfl rfl
  case joinListenComplete => exact steady_of_ite h (.of_eq rfl rfl)
  case accessGapReached => exact steady_accessGapReached h
  case frameSent => exact steady_of_ite h (steady_enterYield s)
  case collision => exact steady_collision h
  case backoffComplete => exact steady_of_ite h (.of_eq rfl rfl)
  case yieldComplete => exact steady_of_ite h (.of_eq (askArbiter_form s) (askArbiter_cur s))
  case deskTick => exact steady_of_ite h (steady_tick s)
  case contributionAgeOut => exact steady_of_ite h (steady_retable _ s)
  case refresh => exact steady_of_ite h (.of_eq (refreshAll_form s) (refreshAll_cur s))
  case holdTimerExpiry => exact steady_of_ite h (.of_eq rfl rfl)
  case bannerExpiry => exact steady_of_ite h (.of_eq (dropBanner_form s) (dropBanner_cur s))
  all_goals simp [frameOf, keyRowOf] at hf hk

/-- Every command keeps the cursor on the form area and the window on the line group. -/
theorem CursorSound.exec (h : CursorSound s) {i : Instr} (ht : exec i s = .next t) : CursorSound t := by
  by_cases hf : frameOf i = none
  · by_cases hk : keyRowOf i = none
    · by_cases hreset : i = .powerOn ∨ i = .resetnAsserted
      · rcases hreset with rfl | rfl <;> cases ht <;> exact Proofs.cursorSound_resetTo ..
      · exact (steady_event ht hf hk (fun e => hreset (.inl e)) (fun e => hreset (.inr e))).sound h
    · exact h.keyRow hk ht
  · exact h.order hf ht

end EventRows

end Sys2Proof.Machine

namespace Sys2Proof.Proofs

open Machine

/-- Settles O59: a step runs one command, and each command keeps cursor and window in range. -/
theorem cursorAndWindowStayInRange : Obligations.CursorAndWindowStayInRange := by
  intro s t hs h
  unfold step at h
  split at h
  · cases h
    exact hs
  · next rest _ =>
    have hrest : CursorSound { s with pending := rest } := Steady.sound (s := s) (.of_eq rfl rfl) hs
    exact hrest.exec h

end Sys2Proof.Proofs

/-! ## Movement keys taken in FREE (R51, R70) -/
namespace Sys2Proof.Machine

section Requests

variable {s : State} {it : Item}

/-- A request adds its item and no other. -/
theorem mem_requestIn_iff (c : Composer) (i j : Item) : j ∈ (requestIn c i).items ↔ j ∈ c.items ∨ j = i := by
  constructor
  · intro h
    rcases requestIn_cases c i with ⟨-, -, e⟩ | ⟨-, e⟩ | ⟨-, e⟩ <;> rw [e] at h
    · exact .inl h
    · exact .inl h
    · simpa using h
  · rintro (h | rfl)
    · exact mem_requestIn_of_mem c i j h
    · exact mem_requestIn c j

theorem mem_requestAll_iff (is : List Item) (s : State) :
    it ∈ (requestAll is s).comp.items ↔ it ∈ s.comp.items ∨ it ∈ is := by
  induction is generalizing s with
  | nil => simp [requestAll]
  | cons i is ih => rw [requestAll, ih, request_comp, mem_requestIn_iff, List.mem_cons, or_assoc]

/-- While no render is in progress a request changes the repaint list alone. -/
theorem request_eq_of_idle (h : s.comp.rendering = false) (i : Item) :
    request i s = { s with comp := { s.comp with items := (requestIn s.comp i).items } } := by
  unfold request
  rcases requestIn_cases s.comp i with ⟨hr, -, -⟩ | ⟨-, e⟩ | ⟨-, e⟩
  · simp [h] at hr
  · rw [e]
  · rw [e]

theorem requestAll_eq_of_idle (h : s.comp.rendering = false) (is : List Item) :
    requestAll is s = { s with comp := { s.comp with items := (requestAll is s).comp.items } } := by
  induction is generalizing s with
  | nil => rfl
  | cons i is ih =>
    have hreq := request_eq_of_idle h i
    have hidle : (request i s).comp.rendering = false := (request_comp_rendering i s).trans h
    rw [requestAll, ih hidle, hreq]

/-- What a move of cursor and window requests (R50). -/
def placeItems (r top : Nat) (s : State) : List Item :=
  (if top ≠ s.cur.top then allBodyRows s.form else []) ++
    if lineAt s.form top r ≠ cursorLine s then [.status] else []

theorem requestAll_append (is js : List Item) (s : State) : requestAll (is ++ js) s = requestAll js (requestAll is s) := by
  induction is generalizing s with
  | nil => rfl
  | cons i is ih => exact ih (request i s)

theorem placeCursor_eq (r c top : Nat) (s : State) :
    placeCursor r c top s = requestAll (placeItems r top s) { s with cur := ⟨r, c, top⟩ } := by
  have hline : cursorLine { s with cur := ⟨r, c, top⟩ } = lineAt s.form top r := rfl
  unfold placeCursor placeItems
  dsimp only
  rw [hline, requestAll_append]
  split <;> split <;> rfl

theorem mem_placeItems (r top : Nat) (s : State) : it ∈ placeItems r top s ↔
    (top ≠ s.cur.top ∧ it ∈ allBodyRows s.form) ∨ (it = .status ∧ lineAt s.form top r ≠ cursorLine s) := by
  unfold placeItems
  rw [List.mem_append]
  refine or_congr ?_ ?_ <;> split <;> simp_all

/-- A taken key that places the cursor changes nothing but cursor, window top and what must be repainted (R50, R51). -/
theorem movedTo_placeCursor (h : s.comp.rendering = false) (q : List Byte) (r c top : Nat) :
    movedTo q ⟨r, c, top⟩ s (placeCursor r c top (setQueue q s)) := by
  rw [placeCursor_eq]
  refine ⟨requestAll_eq_of_idle (s := { setQueue q s with cur := ⟨r, c, top⟩ }) h _, fun it => ?_⟩
  rw [mem_requestAll_iff, mem_placeItems]
  rfl

end Requests

section MoveKeys

variable {i : Instr} {k : Key} {m : State → Move} {b : Byte} {q : List Byte} {s : State} {r c top : Nat}

theorem KeyStands.canTake (h : KeyStands k b q s) (hf : s.key.keyboard = .free) : canTake s = true := by
  simp [Machine.canTake, h.active, h.send, h.items, h.idle, hf]

/-- A key row in FREE acts on the machine without the key. -/
theorem KeyStands.takes (h : KeyStands k b q s) (hf : s.key.keyboard = .free) (act : Byte → State → State) :
    takeKey k act s = .next (settle (act b (setQueue q s))) := takeKey_free h.head (h.canTake hf) h.key hf

/-- The rule of a movement key reads form, cursor and window alone. -/
theorem move_setQueue (hm : moveOf k = some m) (q : List Byte) (s : State) : m (setQueue q s) = m s := by
  cases k <;> cases hm <;> rfl

theorem exec_moveKey (hi : keyRowOf i = some k) (hm : moveOf k = some m) (h : KeyStands k b q s)
    (hf : s.key.keyboard = .free) : exec i s = .next (settle (doMove (m s) (setQueue q s))) := by
  have htake := h.takes hf (fun _ t => doMove (m t) t)
  rw [move_setQueue hm q s] at htake
  cases i <;> cases hi <;> cases hm <;> exact htake

/-- A blocked key sounds ALARM and does nothing else (R51). -/
theorem exec_moveKey_blocked (hi : keyRowOf i = some k) (hm : moveOf k = some m) (h : KeyStands k b q s)
    (hf : s.key.keyboard = .free) (ht : m s = .blocked) :
    exec i s = .next (settle { s with key := { s.key with queue := q, alarm := true } }) := by
  rw [exec_moveKey hi hm h hf, ht]
  rfl

/-- A move that does not leave the instance of a pending edit places the cursor (R52). -/
theorem doMove_stays (he : ∀ e, s.key.edit = some e → leaves s e.inst r c top = false) :
    doMove (.target r c top) s = placeCursor r c top s := by
  unfold doMove
  dsimp only
  split
  · next e hedit => simp [he e hedit]
  · rfl

theorem exec_moveKey_stays (hi : keyRowOf i = some k) (hm : moveOf k = some m) (h : KeyStands k b q s)
    (hf : s.key.keyboard = .free) (ht : m s = .target r c top)
    (he : ∀ e, s.key.edit = some e → leaves s e.inst r c top = false) :
    ∃ u, exec i s = .next (settle u) ∧ movedTo q ⟨r, c, top⟩ s u := by
  refine ⟨_, ?_, movedTo_placeCursor h.idle q r c top⟩
  rw [exec_moveKey hi hm h hf, ht, doMove_stays (s := setQueue q s) he]

/-- Without a pending edit a movement key goes to its target. -/
theorem exec_moveKey_target (hi : keyRowOf i = some k) (hm : moveOf k = some m) (h : KeyStands k b q s)
    (hf : s.key.keyboard = .free) (he : s.key.edit = none) (ht : m s = .target r c top) :
    ∃ u, exec i s = .next (settle u) ∧ movedTo q ⟨r, c, top⟩ s u :=
  exec_moveKey_stays hi hm h hf ht (by simp [he])

end MoveKeys

section ArrowRules

/-! ### Where the arrow keys go (R53 to R55) -/

variable {s : State}

theorem rightMove_within (h : s.cur.col < 79) : rightMove s = .target s.cur.row (s.cur.col + 1) s.cur.top := if_pos h

theorem rightMove_next_row (hc : s.cur.col = 79) (hr : s.cur.row < 23) :
    rightMove s = .target (s.cur.row + 1) 0 s.cur.top := by
  simp [rightMove, screenCols, formRows, hc, hr]

theorem rightMove_round (hc : s.cur.col = 79) (hr : s.cur.row = 23) : rightMove s = .target 0 0 s.cur.top := by
  simp [rightMove, screenCols, formRows, hc, hr]

theorem leftMove_within (h : 0 < s.cur.col) : leftMove s = .target s.cur.row (s.cur.col - 1) s.cur.top := if_pos h

theorem leftMove_previous_row (hc : s.cur.col = 0) (hr : 0 < s.cur.row) :
    leftMove s = .target (s.cur.row - 1) 79 s.cur.top := by
  simp [leftMove, screenCols, hc, hr]

theorem leftMove_round (hc : s.cur.col = 0) (hr : s.cur.row = 0) : leftMove s = .target 23 79 s.cur.top := by
  simp [leftMove, screenCols, formRows, hc, hr]

/-- The bottom row of a window that has rows. -/
theorem eq_bottomRow_iff {f : FormStore} (hw : 0 < f.w) (r : Nat) : r = bottomRow f ↔ r + 1 = f.h + f.w := by
  unfold bottomRow
  omega

theorem downMove_scroll (hw : 0 < s.form.w) (hr : s.cur.row + 1 = s.form.h + s.form.w)
    (hd : s.cur.top + s.form.w < s.form.d) : downMove s = .target s.cur.row s.cur.col (s.cur.top + 1) :=
  if_pos ⟨hw, (eq_bottomRow_iff hw _).2 hr, hd⟩

theorem downMove_step (h : ¬(0 < s.form.w ∧ s.cur.row + 1 = s.form.h + s.form.w ∧ s.cur.top + s.form.w < s.form.d)) :
    downMove s = .target (if s.cur.row = 23 then 0 else s.cur.row + 1) s.cur.col s.cur.top := by
  have hno : ¬(0 < s.form.w ∧ s.cur.row = bottomRow s.form ∧ s.cur.top + s.form.w < s.form.d) :=
    fun ⟨hw, hr, hd⟩ => h ⟨hw, (eq_bottomRow_iff hw _).1 hr, hd⟩
  rw [downMove, if_neg hno]
  show (if s.cur.row = 23 then _ else _) = _
  split <;> rfl

theorem upMove_scroll (hw : 0 < s.form.w) (hr : s.cur.row = s.form.h) (ht : 0 < s.cur.top) :
    upMove s = .target s.cur.row s.cur.col (s.cur.top - 1) := if_pos ⟨hw, hr, ht⟩

theorem upMove_step (h : ¬(0 < s.form.w ∧ s.cur.row = s.form.h ∧ 0 < s.cur.top)) :
    upMove s = .target (if s.cur.row = 0 then 23 else s.cur.row - 1) s.cur.col s.cur.top := by
  rw [upMove, if_neg h]
  split <;> rfl

end ArrowRules

end Sys2Proof.Machine

namespace Sys2Proof.Proofs

open Machine

/-- Settles O31: each rule names its target, and a key without a pending edit goes there. -/
theorem arrowKeysMoveCursor : Obligations.ArrowKeysMoveCursor := by
  intro k b q s h hf he moved
  have go : ∀ {i : Instr} {m : State → Move} {r c top : Nat}, keyRowOf i = some k → moveOf k = some m →
      m s = .target r c top → moved (exec i s) r c top := fun hi hm ht => exec_moveKey_target hi hm h hf he ht
  refine ⟨?_, ?_, ?_, ?_, ?_, ?_, ?_, ?_, ?_, ?_, ?_⟩ <;> rintro rfl
  · exact go rfl rfl rfl
  · exact fun hc => go rfl rfl (rightMove_within hc)
  · exact fun hc hr => go rfl rfl (rightMove_next_row hc hr)
  · exact fun hc hr => go rfl rfl (rightMove_round hc hr)
  · exact fun hc => go rfl rfl (leftMove_within hc)
  · exact fun hc hr => go rfl rfl (leftMove_previous_row hc hr)
  · exact fun hc hr => go rfl rfl (leftMove_round hc hr)
  · exact fun hw hr hd => go rfl rfl (downMove_scroll hw hr hd)
  · exact fun hno => go rfl rfl (downMove_step hno)
  · exact fun hw hr ht => go rfl rfl (upMove_scroll hw hr ht)
  · exact fun hno => go rfl rfl (upMove_step hno)

end Sys2Proof.Proofs

/-! ## TAB, BACKTAB, NEWLINE and the page keys (R57 to R59, R61) -/
namespace Sys2Proof.Machine

section Stops

variable {s : State} {ref p : Nat × Nat} {pre post : List (Nat × Nat)} {c : Nat}

theorem tabStops_ne_nil {f : FormStore} (hw : 0 < f.w) (hc : stopCols f ≠ []) : tabStops f ≠ [] := by
  obtain ⟨c, cs, hcols⟩ := List.exists_cons_of_ne_nil hc
  obtain ⟨w, hw'⟩ := Nat.exists_eq_succ_of_ne_zero (Nat.ne_of_gt hw)
  simp [tabStops, rowStops, hcols, hw', List.range_succ]

/-- The first element that passes a test, by the elements before it. -/
theorem find?_of_split {α : Type} {P : α → Bool} {xs pre post : List α} {p : α} (hs : xs = pre ++ p :: post)
    (hpre : ∀ x ∈ pre, P x = false) (hp : P p = true) : xs.find? P = some p := by
  rw [hs, List.find?_append, List.find?_eq_none.2 (by simpa using hpre)]
  simp [hp]

/-- The last element that passes a test, by the elements after it. -/
theorem getLast?_filter_of_split {α : Type} {P : α → Bool} {xs pre post : List α} {p : α} (hs : xs = pre ++ p :: post)
    (hpost : ∀ x ∈ post, P x = false) (hp : P p = true) : (xs.filter P).getLast? = some p := by
  have hnone : post.filter P = [] := List.filter_eq_nil_iff.2 (by simpa using hpost)
  rw [hs, List.filter_append, List.filter_cons_of_pos hp, hnone, List.getLast?_concat]

/-- The window can show one line more below row `row`, its bottom row, in a body with stops (R57, R59). -/
def ScrollsOn (row : Nat) (s : State) : Prop :=
  0 < s.form.w ∧ stopCols s.form ≠ [] ∧ row + 1 = s.form.h + s.form.w ∧ s.cur.top + s.form.w < s.form.d

theorem scrollsOn_iff (row : Nat) (s : State) : ScrollsOn row s ↔
    bodyStops s.form = true ∧ row = bottomRow s.form ∧ s.cur.top + s.form.w < s.form.d := by
  rw [bodyStops_iff]
  constructor
  · rintro ⟨hw, hc, hr, hd⟩
    exact ⟨⟨hw, hc⟩, (eq_bottomRow_iff hw row).2 hr, hd⟩
  · rintro ⟨⟨hw, hc⟩, hr, hd⟩
    exact ⟨hw, hc, (eq_bottomRow_iff hw row).1 hr, hd⟩

/-! ### TAB -/

theorem tabMove_of_no_stop (h : tabStops s.form = []) : tabMove s = .blocked := by
  simp [tabMove, h]

/-- TAB moves the window at the last stop of the bottom window row. -/
def TabScrolls (s : State) : Prop := ScrollsOn (referenceCell s).1 s ∧ ∀ c ∈ stopCols s.form, c ≤ (referenceCell s).2

theorem tabScrolls_iff (s : State) : TabScrolls s ↔ bodyStops s.form = true ∧ (referenceCell s).1 = bottomRow s.form ∧
    (stopCols s.form).all (fun c => c ≤ (referenceCell s).2) = true ∧ s.cur.top + s.form.w < s.form.d := by
  simp only [TabScrolls, scrollsOn_iff, List.all_eq_true, decide_eq_true_eq]
  tauto

theorem tabMove_scroll (h : TabScrolls s) (hc : (stopCols s.form).head? = some c) :
    tabMove s = .target (referenceCell s).1 c (s.cur.top + 1) := by
  obtain ⟨⟨hw, hne, -⟩, -⟩ := id h
  obtain ⟨first, rest, hstops⟩ := List.exists_cons_of_ne_nil (tabStops_ne_nil hw hne)
  have hif := (tabScrolls_iff s).1 h
  obtain ⟨-, hrow, -⟩ := id hif
  simp only [tabMove, hstops]
  rw [if_pos hif, hrow, List.headD_eq_head?_getD, hc]
  rfl

theorem tabMove_next (h : ¬TabScrolls s) (hs : tabStops s.form = pre ++ p :: post)
    (hpre : ∀ x ∈ pre, cellBefore (referenceCell s) x = false) (hp : cellBefore (referenceCell s) p = true) :
    tabMove s = .target p.1 p.2 s.cur.top := by
  have hfind := find?_of_split hs hpre hp
  have hif := mt (tabScrolls_iff s).2 h
  obtain ⟨first, rest, hcons⟩ := List.exists_cons_of_ne_nil (show tabStops s.form ≠ [] by simp [hs])
  rw [hcons] at hfind
  simp only [tabMove, hcons]
  rw [if_neg hif, hfind]

theorem tabMove_round (h : ¬TabScrolls s) (hs : ∀ x ∈ tabStops s.form, cellBefore (referenceCell s) x = false)
    (hp : (tabStops s.form).head? = some p) : tabMove s = .target p.1 p.2 s.cur.top := by
  have hfind : (tabStops s.form).find? (fun p => cellBefore (referenceCell s) p) = none :=
    List.find?_eq_none.2 (by simpa using hs)
  have hif := mt (tabScrolls_iff s).2 h
  obtain ⟨rest, hcons⟩ := List.head?_eq_some_iff.1 hp
  rw [hcons] at hfind
  simp only [tabMove, hcons]
  rw [if_neg hif, hfind]

/-! ### NEWLINE -/

theorem newlineMove_of_no_stop (h : tabStops s.form = []) : newlineMove s = .blocked := by
  simp [newlineMove, h]

theorem newlineMove_scroll (h : ScrollsOn s.cur.row s) (hc : (stopCols s.form).head? = some c) :
    newlineMove s = .target s.cur.row c (s.cur.top + 1) := by
  obtain ⟨hw, hne, -⟩ := id h
  obtain ⟨first, rest, hstops⟩ := List.exists_cons_of_ne_nil (tabStops_ne_nil hw hne)
  have hif := (scrollsOn_iff s.cur.row s).1 h
  obtain ⟨-, hrow, -⟩ := id hif
  simp only [newlineMove, hstops]
  rw [if_pos hif, ← hrow, List.headD_eq_head?_getD, hc]
  rfl

theorem newlineMove_next (h : ¬ScrollsOn s.cur.row s) (hs : tabStops s.form = pre ++ p :: post)
    (hpre : ∀ x ∈ pre, x.1 ≤ s.cur.row) (hp : s.cur.row < p.1) : newlineMove s = .target p.1 p.2 s.cur.top := by
  have hfind : (tabStops s.form).find? (fun p => s.cur.row < p.1) = some p :=
    find?_of_split hs (by simpa using hpre) (by simpa using hp)
  have hif := mt (scrollsOn_iff s.cur.row s).2 h
  obtain ⟨first, rest, hcons⟩ := List.exists_cons_of_ne_nil (show tabStops s.form ≠ [] by simp [hs])
  rw [hcons] at hfind
  simp only [newlineMove, hcons]
  rw [if_neg hif, hfind]

theorem newlineMove_round (h : ¬ScrollsOn s.cur.row s) (hs : ∀ x ∈ tabStops s.form, x.1 ≤ s.cur.row)
    (hp : (tabStops s.form).head? = some p) : newlineMove s = .target p.1 p.2 s.cur.top := by
  have hfind : (tabStops s.form).find? (fun p => s.cur.row < p.1) = none :=
    List.find?_eq_none.2 (by simpa using hs)
  have hif := mt (scrollsOn_iff s.cur.row s).2 h
  obtain ⟨rest, hcons⟩ := List.head?_eq_some_iff.1 hp
  rw [hcons] at hfind
  simp only [newlineMove, hcons]
  rw [if_neg hif, hfind]

/-! ### BACKTAB -/

/-- The cursor is in an entry instance and not in its first cell. -/
def InsideEntry (s : State) : Prop := ∃ e sh c0, currentEntry s = some (e, sh, c0) ∧ s.cur.col ≠ c0

/-- The cell from which BACKTAB looks for the stop before it: the first cell of the entry instance under the cursor, or the
reference cell (R58). -/
def backStart (s : State) : Nat × Nat :=
  match currentEntry s with
  | some (_, _, c0) => (s.cur.row, c0)
  | none => referenceCell s

theorem backtabMove_inside {e : Inst} {sh : Shape} {c0 : Nat} (he : currentEntry s = some (e, sh, c0))
    (hc : s.cur.col ≠ c0) : backtabMove s = .target s.cur.row c0 s.cur.top := by
  simp [backtabMove, he, hc]

theorem backtabMove_outside (h : ¬InsideEntry s) : backtabMove s = backtabMove.backFrom s (backStart s) := by
  unfold backtabMove backStart
  cases he : currentEntry s with
  | none => rfl
  | some x =>
    obtain ⟨e, sh, c0⟩ := x
    exact if_neg fun hc => h ⟨e, sh, c0, he, hc⟩

/-- BACKTAB moves the window at the first stop of the top window row. -/
def BackScrolls (ref : Nat × Nat) (s : State) : Prop :=
  0 < s.form.w ∧ stopCols s.form ≠ [] ∧ ref.1 = s.form.h ∧ 0 < s.cur.top ∧ ∀ c ∈ stopCols s.form, ref.2 ≤ c

theorem backScrolls_iff (ref : Nat × Nat) (s : State) : BackScrolls ref s ↔ bodyStops s.form = true ∧ ref.1 = s.form.h ∧
    (stopCols s.form).all (fun c => ref.2 ≤ c) = true ∧ 0 < s.cur.top := by
  simp only [BackScrolls, bodyStops_iff, List.all_eq_true, decide_eq_true_eq]
  tauto

theorem backFrom_of_no_stop (h : tabStops s.form = []) : backtabMove.backFrom s ref = .blocked := by
  simp [backtabMove.backFrom, h]

theorem backFrom_scroll (h : BackScrolls ref s) (hc : (stopCols s.form).getLast? = some c) :
    backtabMove.backFrom s ref = .target s.form.h c (s.cur.top - 1) := by
  obtain ⟨hw, hne, -⟩ := id h
  have hlast := List.getLast?_eq_some_getLast (tabStops_ne_nil hw hne)
  have hif := (backScrolls_iff ref s).1 h
  simp only [backtabMove.backFrom, hlast, if_pos hif, List.getLastD_eq_getLast?, hc, Option.getD_some]

theorem backFrom_previous (h : ¬BackScrolls ref s) (hs : tabStops s.form = pre ++ p :: post)
    (hpost : ∀ x ∈ post, cellBefore x ref = false) (hp : cellBefore p ref = true) :
    backtabMove.backFrom s ref = .target p.1 p.2 s.cur.top := by
  have hfind := getLast?_filter_of_split (P := fun p => cellBefore p ref) hs hpost hp
  have hif := mt (backScrolls_iff ref s).2 h
  have hlast := List.getLast?_eq_some_getLast (show tabStops s.form ≠ [] by simp [hs])
  simp only [backtabMove.backFrom, hlast, if_neg hif, hfind]

theorem backFrom_round (h : ¬BackScrolls ref s) (hs : ∀ x ∈ tabStops s.form, cellBefore x ref = false)
    (hp : (tabStops s.form).getLast? = some p) : backtabMove.backFrom s ref = .target p.1 p.2 s.cur.top := by
  have hnone : (tabStops s.form).filter (fun p => cellBefore p ref) = [] := List.filter_eq_nil_iff.2 (by simpa using hs)
  have hif := mt (backScrolls_iff ref s).2 h
  simp only [backtabMove.backFrom, hp, if_neg hif, hnone, List.getLast?_nil]

/-! ### The page keys -/

theorem pageMove_end {top : Nat} (h : top = s.cur.top) : pageMove s top = .blocked := if_pos h

theorem pageMove_to {top : Nat} (h : top ≠ s.cur.top) : pageMove s top = .target s.cur.row s.cur.col top := if_neg h

end Stops

end Sys2Proof.Machine

namespace Sys2Proof.Proofs

open Machine

/-- Settles O32: the tab stop of each rule, and a key without a pending edit goes there. -/
theorem stopAndPageKeysMove : Obligations.StopAndPageKeysMove := by
  intro i k b q s hi h hf he
  have alarm : ∀ {m : State → Move}, moveOf k = some m → m s = .blocked →
      exec i s = .next (settle { s with key := { s.key with queue := q, alarm := true } }) :=
    fun hm ht => exec_moveKey_blocked hi hm h hf ht
  have go : ∀ {m : State → Move} {r c top : Nat}, moveOf k = some m → m s = .target r c top →
      ∃ u, exec i s = .next (settle u) ∧ movedTo q ⟨r, c, top⟩ s u :=
    fun hm ht => exec_moveKey_target hi hm h hf he ht
  have back : ∀ {r c top : Nat}, k = .backtab → ¬InsideEntry s → backtabMove.backFrom s (backStart s) = .target r c top →
      ∃ u, exec i s = .next (settle u) ∧ movedTo q ⟨r, c, top⟩ s u := by
    rintro r c top rfl hno ht
    exact go rfl ((backtabMove_outside hno).trans ht)
  refine ⟨?_, ?_, ?_, ?_, ?_, ?_, ?_, ?_, ?_, ?_, ?_, ?_, ?_, ?_, ?_⟩
  · rintro (rfl | rfl | ⟨rfl, hno⟩) hnil
    · exact alarm rfl (tabMove_of_no_stop hnil)
    · exact alarm rfl (newlineMove_of_no_stop hnil)
    · exact alarm rfl ((backtabMove_outside hno).trans (backFrom_of_no_stop hnil))
  · rintro rfl hscroll c hc
    exact go rfl (tabMove_scroll hscroll hc)
  · rintro rfl hno pre p post hs hpre hp
    exact go rfl (tabMove_next hno hs hpre hp)
  · rintro rfl hno hs p hp
    exact go rfl (tabMove_round hno hs hp)
  · rintro rfl e sh c0 hentry hc
    exact go rfl (backtabMove_inside hentry hc)
  · exact fun hk hno hscroll c hc => back hk hno (backFrom_scroll hscroll hc)
  · exact fun hk hno hscroll pre p post hs hpost hp => back hk hno (backFrom_previous hscroll hs hpost hp)
  · exact fun hk hno hscroll hs p hp => back hk hno (backFrom_round hscroll hs hp)
  · rintro rfl hscroll c hc
    exact go rfl (newlineMove_scroll hscroll hc)
  · rintro rfl hno pre p post hs hpre hp
    exact go rfl (newlineMove_next hno hs hpre hp)
  · rintro rfl hno hs p hp
    exact go rfl (newlineMove_round hno hs hp)
  · rintro rfl hend
    exact alarm rfl (pageMove_end hend)
  · rintro rfl hmove
    exact go rfl (pageMove_to hmove)
  · rintro rfl hend
    exact alarm rfl (pageMove_end hend)
  · rintro rfl hmove
    exact go rfl (pageMove_to hmove)

end Sys2Proof.Proofs

/-! ## Requests while no render is in progress (R110) -/
namespace Sys2Proof.Machine

section OnlyItems

/-- The Composer stands but for its repaint list. -/
def OnlyItems (c d : Composer) : Prop := d = { c with items := d.items }

variable {b s t : State} {c d e : Composer}

theorem OnlyItems.refl (c : Composer) : OnlyItems c c := rfl

theorem OnlyItems.trans (h : OnlyItems c d) (g : OnlyItems d e) : OnlyItems c e := by
  unfold OnlyItems at *
  rw [g, h]

theorem OnlyItems.idle (h : OnlyItems c d) (hc : c.rendering = false) : d.rendering = false := by
  rw [h]
  exact hc

theorem onlyItems_requestAll (h : s.comp.rendering = false) (is : List Item) : OnlyItems s.comp (requestAll is s).comp :=
  congrArg State.comp (requestAll_eq_of_idle h is)

theorem onlyItems_requestInst (h : s.comp.rendering = false) (i : Inst) : OnlyItems s.comp (requestInst i s).comp := by
  unfold requestInst
  split
  · exact onlyItems_requestAll h [_]
  · exact .refl _

theorem onlyItems_handOn (h : t.comp.rendering = false) (b : State) : OnlyItems t.comp (handOn b t).comp := by
  have hrows := onlyItems_requestAll h (productRows b t)
  have hsums := hrows.trans (onlyItems_requestAll (hrows.idle h) (fieldItems (changedFields (· = .columnSum) b t)))
  rw [handOn, deskChange_comp]
  refine hsums.trans ?_
  have hidle := hsums.idle h
  rw [← placeAll_comp .tally (changedTags b t)] at hidle ⊢
  exact onlyItems_requestAll hidle _

theorem onlyItems_placeCursor (h : s.comp.rendering = false) (r c top : Nat) :
    OnlyItems s.comp (placeCursor r c top s).comp := by
  rw [placeCursor_eq]
  exact onlyItems_requestAll (s := { s with cur := ⟨r, c, top⟩ }) h _

end OnlyItems

end Sys2Proof.Machine

/-! ## Completion of an edit (R84, R85)

What a completion whose check passes leaves of each block, what the completed field or cell holds after it, and that what
follows from it is handed on. -/
namespace Sys2Proof.Machine

section StoredFlags

variable {f : FormStore} {i j : Inst} {v : Value} {s : State}

/-- A write sets the flag of the content it writes, where it is to. -/
theorem flag_storedForm_vals (mark : Bool) (i : Inst) (v : Value) (f : FormStore) (n : Nat) :
    (valFind (storedForm mark i v f).vals n).map (·.modified) =
      (valFind f.vals n).map (fun x => x.modified || (mark && decide (i = .field n))) := by
  cases i with
  | field k =>
    by_cases hk : n = k
    · subst hk
      simp [valFind_storedForm_same, Function.comp_def]
    · simp [valFind_storedForm_ne hk, Ne.symm hk]
  | cell l c => simp

/-- A value stored over itself leaves every value. -/
theorem instValue_storedForm_of_same (h : instValue f i = some v) (j : Inst) :
    instValue (storedForm false i v f) j = instValue f j := by
  by_cases hj : j = i
  · rw [hj, instValue_storedForm_same _ _ (by simp [h]), h]
  · exact instValue_storedForm_ne _ _ _ hj

/-- A write to a field or cell leaves the line records, but for the one written. -/
theorem getElem?_storedForm_lines_ne {l : Nat} (hi : ∀ c, i ≠ .cell l c) (mark : Bool) (v : Value) (f : FormStore) :
    (storedForm mark i v f).lines[l]? = f.lines[l]? := by
  cases i with
  | field n => rw [storedForm_field_lines]
  | cell k c =>
    have hl : l ≠ k := fun e => hi c (e ▸ rfl)
    simp [getElem?_storedForm_lines, hl]

end StoredFlags

section StoreCompleted

variable {i j : Inst} {v : Value} {s : State} {sh : Shape}

/-- A completion that changes the stored value sets its flags and recomputes (R85, R102). -/
theorem storeCompleted_of_ne (h : instValue s.form i ≠ some v) : storeCompleted i v s =
    dropEdit (requestInst i (reckon s (instLines i).1 (instLines i).2 (writeForm true i v s))) := by
  simp [storeCompleted, differs_iff.2 h, reckonIf]

/-- Any other completion stops at the store, which changes nothing. -/
theorem storeCompleted_of_eq (h : instValue s.form i = some v) :
    storeCompleted i v s = dropEdit (requestInst i (writeForm false i v s)) := by
  simp [storeCompleted, differs, h, reckonIf]

theorem storeCompleted_form_of_ne (h : instValue s.form i ≠ some v) : (storeCompleted i v s).form =
    (recompute (instLines i).1 (instLines i).2 (writeForm true i v s)).form := by
  simp [storeCompleted_of_ne h, reckon]

theorem storeCompleted_form_of_eq (h : instValue s.form i = some v) :
    (storeCompleted i v s).form = storedForm false i v s.form := by
  rw [storeCompleted_of_eq h, dropEdit_form, requestInst_form, writeForm_form]

theorem storeCompleted_key (i : Inst) (v : Value) (s : State) : (storeCompleted i v s).key = { s.key with edit := none } := by
  simp [storeCompleted, dropEdit]

theorem storeCompleted_tp_eq (i : Inst) (v : Value) (s : State) : (storeCompleted i v s).tp =
    { s.tp with edge := { s.tp.edge with deskChange := (storeCompleted i v s).tp.edge.deskChange } } := by
  by_cases h : instValue s.form i = some v
  · rw [storeCompleted_of_eq h]
    simp
  · rw [storeCompleted_of_ne h, dropEdit_tp, requestInst_tp, reckon, handOn_tp_eq, recompute_tp, writeForm_tp]

theorem onlyItems_storeCompleted (h : s.comp.rendering = false) (i : Inst) (v : Value) :
    OnlyItems s.comp (storeCompleted i v s).comp := by
  have hreckon : OnlyItems s.comp (reckonIf (differs s i v) s i (writeForm (differs s i v) i v s)).comp := by
    unfold reckonIf
    split
    · exact onlyItems_handOn (t := recompute _ _ (writeForm _ i v s)) h s
    · exact .refl _
  exact hreckon.trans (onlyItems_requestInst (hreckon.idle h) i)

/-! ### Values and flags -/

theorem instValue_storeCompleted_same (hi : instShape s.form i = some sh) (hk : storesOwn sh.kind = true)
    (h : instValue s.form i ≠ none) : instValue (storeCompleted i v s).form i = some v := by
  by_cases hv : instValue s.form i = some v
  · rw [storeCompleted_form_of_eq hv, instValue_storedForm_same _ _ h]
  · rw [storeCompleted_form_of_ne hv, instValue_recompute_of_storesOwn (sh := sh) _ _ ?_ hk, writeForm_form,
      instValue_storedForm_same _ _ h]
    rw [writeForm_form, instShape_storedForm, hi]

theorem instValue_storeCompleted_ne (hj : instShape s.form j = some sh) (hk : storesOwn sh.kind = true) (hne : j ≠ i) :
    instValue (storeCompleted i v s).form j = instValue s.form j := by
  by_cases hv : instValue s.form i = some v
  · rw [storeCompleted_form_of_eq hv, instValue_storedForm_ne _ _ _ hne]
  · rw [storeCompleted_form_of_ne hv, instValue_recompute_of_storesOwn (sh := sh) _ _ ?_ hk, writeForm_form,
      instValue_storedForm_ne _ _ _ hne]
    rw [writeForm_form, instShape_storedForm, hj]

/-- The modified flag of a field is set where the completion changes its value, and no other field's is (R85). -/
theorem flag_storeCompleted_vals (i : Inst) (v : Value) (s : State) (n : Nat) :
    (valFind (storeCompleted i v s).form.vals n).map (·.modified) = (valFind s.form.vals n).map
      (fun x => x.modified || decide (i = .field n ∧ instValue s.form i ≠ some v)) := by
  by_cases hv : instValue s.form i = some v
  · rw [storeCompleted_form_of_eq hv, flag_storedForm_vals]
    simp [hv]
  · rw [storeCompleted_form_of_ne hv, flag_valFind_recompute, writeForm_form, flag_storedForm_vals]
    simp [hv]

/-- The line of a completed cell: the cell stored and, where it changed, the flags set and the products computed. -/
theorem getElem?_storeCompleted_line (l c : Nat) (v : Value) (s : State) :
    (storeCompleted (.cell l c) v s).form.lines[l]? = (s.form.lines[l]?).map (fun ln =>
      if instValue s.form (.cell l c) = some v then storedLine false c v ln
      else lineProducts (writeForm true (.cell l c) v s).form (storedLine true c v ln)) := by
  by_cases hv : instValue s.form (.cell l c) = some v
  · simp [storeCompleted_form_of_eq hv, getElem?_storedForm_lines, hv]
  · simp [storeCompleted_form_of_ne hv, getElem?_recompute_lines, writeForm_form, getElem?_storedForm_lines, hv, instLines,
      Function.comp_def]

/-- Every line but a completed cell's stands. -/
theorem getElem?_storeCompleted_line_ne {l : Nat} (hi : ∀ c, i ≠ .cell l c) (v : Value) (s : State) :
    (storeCompleted i v s).form.lines[l]? = s.form.lines[l]? := by
  by_cases hv : instValue s.form i = some v
  · rw [storeCompleted_form_of_eq hv, getElem?_storedForm_lines_ne hi]
  · have hout : ¬((instLines i).1 ≤ l ∧ l < (instLines i).1 + (instLines i).2) := by
      cases i with
      | field n => simp [instLines]
      | cell k c =>
        have hk : k ≠ l := fun e => hi c (e ▸ rfl)
        simp only [instLines]
        omega
    rw [storeCompleted_form_of_ne hv, getElem?_recompute_lines, writeForm_form, getElem?_storedForm_lines_ne hi]
    simp only [if_neg hout]
    exact Option.map_id' ..

/-- The flags of a completed cell's line: the cell's own and the line's, where the value changes (R85). -/
theorem flags_storeCompleted_own {l c : Nat} {ln ln' : LineRec} (hln : s.form.lines[l]? = some ln)
    (hln' : (storeCompleted (.cell l c) v s).form.lines[l]? = some ln') :
    (∀ n, (valFind ln'.cells n).map (·.modified) = (valFind ln.cells n).map
      (fun x => x.modified || decide (n = c ∧ instValue s.form (.cell l c) ≠ some v))) ∧
    ln'.modified = (ln.modified || decide (instValue s.form (.cell l c) ≠ some v)) := by
  rw [getElem?_storeCompleted_line, hln, Option.map_some, Option.some.injEq] at hln'
  subst hln'
  by_cases hv : instValue s.form (.cell l c) = some v
  · rw [if_pos hv]
    exact ⟨fun n => by simp [flag_storedLine, hv], by simp [hv, storedLine]⟩
  · rw [if_neg hv]
    exact ⟨fun n => by simp [flag_valFind_lineProducts, flag_storedLine, hv], by simp [hv, lineProducts, storedLine]⟩

/-- The flags of every line after a completion (R85). -/
theorem flags_storeCompleted_line {l : Nat} {ln ln' : LineRec} (hln : s.form.lines[l]? = some ln)
    (hln' : (storeCompleted i v s).form.lines[l]? = some ln') :
    (∀ n x x', valFind ln.cells n = some x → valFind ln'.cells n = some x' →
      x'.modified = (x.modified || decide (i = .cell l n ∧ x.value ≠ v))) ∧
    (∀ n, i = .cell l n → ln'.modified = (ln.modified || decide (instValue s.form i ≠ some v))) ∧
    ((∀ n, i ≠ .cell l n) → ln' = ln) := by
  by_cases hi : ∀ n, i ≠ .cell l n
  · rw [getElem?_storeCompleted_line_ne hi, hln] at hln'
    cases hln'
    refine ⟨fun n x x' hx hx' => ?_, fun n hn => absurd hn (hi n), fun _ => rfl⟩
    cases hx.symm.trans hx'
    simp [hi n]
  · obtain ⟨c, hc⟩ := not_forall.1 hi
    obtain rfl := not_not.1 hc
    obtain ⟨hcells, hmodified⟩ := flags_storeCompleted_own hln hln'
    refine ⟨fun n x x' hx hx' => ?_, fun n _ => hmodified, fun hno => absurd rfl (hno c)⟩
    have hiff : (n = c ∧ instValue s.form (.cell l c) ≠ some v) ↔ (Inst.cell l c = .cell l n ∧ x.value ≠ v) := by
      rw [Inst.cell.injEq]
      constructor
      · rintro ⟨rfl, hv⟩
        simpa [instValue, hln, hx] using hv
      · rintro ⟨⟨-, rfl⟩, hv⟩
        simpa [instValue, hln, hx] using hv
    rw [Proofs.flag_of_map_eq (hcells n) hx hx']
    simp only [hiff]

/-! ### What follows -/

theorem mem_storeCompleted {it : Item} (hit : instItem s.form s.cur.top i = some it) :
    it ∈ (storeCompleted i v s).comp.items := by
  refine mem_requestInst (s := reckonIf (differs s i v) s i (writeForm (differs s i v) i v s)) ?_
  rw [reckonIf_cur, writeForm_cur, ← hit]
  exact instItem_congr (by simp) (by simp) ..

theorem sumsFollow_storeCompleted (h : instValue s.form i ≠ some v) : sumsFollow (storeCompleted i v s) := by
  rw [storeCompleted_of_ne h]
  exact sumsFollow_congr (t := recompute (instLines i).1 (instLines i).2 (writeForm true i v s)) (by simp [reckon])
    (by simp [reckon]) (by simp [reckon]) (sumsFollow_recompute ..)

theorem productsFollow_storeCompleted {l c : Nat} (h : instValue s.form (.cell l c) ≠ some v) :
    productsFollow (storeCompleted (.cell l c) v s).form l := by
  rw [storeCompleted_form_of_ne h]
  exact productsFollow_recompute _ _ _ ⟨Nat.le_refl l, Nat.lt_succ_self l⟩

/-- Nothing is left to hand on where the Desk Exchange and every value stand. -/
theorem handedOn_of_values {b u : State} (hdesk : u.desk = b.desk) (hvalues : ∀ j, instValue u.form j = instValue b.form j) :
    HandedOn b u where
  tags n := by rw [hdesk]
  tallies n := by rw [hdesk, if_pos rfl]
  sums fd _ _ hne := absurd (hvalues _) hne
  products k _ cd _ _ hne := absurd (hvalues _) hne

theorem handedOn_storeCompleted (i : Inst) (v : Value) (s : State) : HandedOn s (storeCompleted i v s) := by
  by_cases hv : instValue s.form i = some v
  · refine handedOn_of_values (by simp [storeCompleted_of_eq hv]) fun j => ?_
    rw [storeCompleted_form_of_eq hv, instValue_storedForm_of_same hv]
  · rw [storeCompleted_of_ne hv]
    refine (handedOn_reckon (instLines i).1 (instLines i).2 ?_ (lineKeys_writeForm true i v s) rfl rfl).of_keyFrame
      ((requestInst_frame i _).trans (dropEdit_frame _)) (requestInst_form ..) (requestInst_desk ..)
    rw [writeForm_form, ← storedForm_eq]

theorem deskChangeRight_storeCompleted (i : Inst) (v : Value) (s : State) : deskChangeRight s (storeCompleted i v s) := by
  by_cases hv : instValue s.form i = some v
  · rw [deskChangeRight, storeCompleted_form_of_eq hv, storeCompleted_of_eq hv, dropEdit_tp, requestInst_tp,
      writeForm_tp]
    refine ⟨.inl, fun hor => hor.resolve_right ?_⟩
    rintro ⟨fd, -, -, hne⟩
    exact hne (instValue_storedForm_of_same hv _)
  · have hiff := handOn_deskChange_iff s (recompute (instLines i).1 (instLines i).2 (writeForm true i v s))
    rw [recompute_tp, writeForm_tp, recompute_form_fields, writeForm_form, storedForm_eq] at hiff
    rw [deskChangeRight, storeCompleted_form_of_ne hv, storeCompleted_of_ne hv, dropEdit_tp, requestInst_tp]
    exact hiff

/-- The frame of a completion: edge cause DESK CHANGE, contents, edit, repaint list, taken mark, contributions and tallies
apart, everything stands (R85). -/
theorem storeCompleted_eq (h : s.comp.rendering = false) (i : Inst) (v : Value) :
    storeCompleted i v s = { s with
      tp := { s.tp with edge := { s.tp.edge with deskChange := (storeCompleted i v s).tp.edge.deskChange } }
      form := { s.form with vals := (storeCompleted i v s).form.vals, lines := (storeCompleted i v s).form.lines }
      key := { s.key with edit := none }
      comp := { s.comp with items := (storeCompleted i v s).comp.items }
      line := { s.line with taken := (storeCompleted i v s).line.taken }
      desk := { s.desk with
        active := (storeCompleted i v s).desk.active, tallies := (storeCompleted i v s).desk.tallies } } := by
  have hframe := storeCompleted_frame i v s
  have hform := hframe.form_eq
  have hline := hframe.line_eq
  have hdesk := hframe.desk_eq
  have htp := storeCompleted_tp_eq i v s
  have hkey := storeCompleted_key i v s
  have hcomp : _ = _ := onlyItems_storeCompleted h i v
  have hcur := storeCompleted_cur i v s
  have hsend := storeCompleted_send i v s
  have hpending := storeCompleted_pending i v s
  generalize storeCompleted i v s = w at *
  obtain ⟨pending, tp, form, cur, key, comp, send, line, desk⟩ := w
  dsimp only at *
  congr 1

/-- Everything that a passed check of completion leads to (R85, R102). -/
theorem completes_storeCompleted {q : List Byte} (hidle : s.comp.rendering = false) (hi : instShape s.form i = some sh)
    (hk : isEntryKind sh.kind = true) (h : instValue s.form i ≠ none) (v : Value) :
    Completes i v q s (storeCompleted i v (setQueue q s)) := by
  have hown : storesOwn sh.kind = true := by simp [storesOwn, hk]
  have hhanded := handedOn_storeCompleted i v (setQueue q s)
  exact {
    frame := storeCompleted_eq (s := setQueue q s) hidle i v
    stored := instValue_storeCompleted_same (s := setQueue q s) hi hown h
    others := fun j shj hne hj hkj => instValue_storeCompleted_ne (s := setQueue q s) hj hkj hne
    item := fun it hit => mem_storeCompleted (s := setQueue q s) hit
    change := deskChangeRight_storeCompleted i v (setQueue q s)
    sums := fun hne => sumsFollow_storeCompleted (s := setQueue q s) hne
    products := fun hne l n hcell => by
      subst hcell
      exact productsFollow_storeCompleted (s := setQueue q s) hne
    handed := ⟨hhanded.tags, hhanded.tallies, hhanded.sums, hhanded.products⟩
    fieldFlags := fun n x x' hx hx' => by
      have hflag := Proofs.flag_of_map_eq (flag_storeCompleted_vals i v (setQueue q s) n) hx hx'
      have hiff : (i = .field n ∧ instValue s.form i ≠ some v) ↔ (i = .field n ∧ x.value ≠ v) := by
        refine and_congr_right ?_
        rintro rfl
        simp [instValue, show valFind s.form.vals n = some x from hx]
      rw [hflag, setQueue_form]
      simp only [hiff]
    cellFlags := fun l ln ln' hln hln' => flags_storeCompleted_line (s := setQueue q s) hln hln' }

end StoreCompleted

end Sys2Proof.Machine

/-! ## The check of completion (R84, R96) -/
namespace Sys2Proof.Machine

section CheckBuffer

variable {sh : Shape} {buf ip pt fp : Text} {neg : Bool}

/-- A text passes as it stands, unless must-fill finds it filled in part. -/
theorem checkBuffer_of_ne_number (hk : sh.kind ≠ .number) (buf : Text) : checkBuffer sh buf =
    if sh.opts.mustFill = true ∧ (∃ b ∈ buf, b = blank) ∧ (∃ b ∈ buf, b ≠ blank) then .error .mustFill
    else .ok (.text buf) := by
  unfold checkBuffer
  split
  · next h => exact absurd h hk
  · simp only [List.any_eq_true, List.all_eq_false, decide_eq_true_eq]

theorem checkBuffer_text_ok (hk : sh.kind ≠ .number)
    (h : sh.opts.mustFill = false ∨ (∀ b ∈ buf, b = blank) ∨ (∀ b ∈ buf, b ≠ blank)) :
    checkBuffer sh buf = .ok (.text buf) := by
  rw [checkBuffer_of_ne_number hk, if_neg]
  rintro ⟨hfill, ⟨b, hb, hblank⟩, c, hc, hno⟩
  rcases h with h | h | h
  · simp [h] at hfill
  · exact hno (h c hc)
  · exact h b hb hblank

/-- A NUMBER buffer is normalised, unless must-fill finds too few digits. -/
theorem checkBuffer_number (hk : sh.kind = .number) (buf : Text) : checkBuffer sh buf =
    if sh.opts.mustFill = true ∧ buf ≠ [] ∧ digitCount buf < capacity sh then .error .mustFill
    else normalise sh buf := by
  simp [checkBuffer, hk]

theorem normalise_of_split {body : Text} (hne : buf ≠ []) (hs : splitSign buf = (neg, body))
    (hn : splitNumeral body = some (ip, fp)) : normalise sh buf =
      if ip = [] ∧ fp = [] then .error .notValidHere
      else if fitsCap (capacity sh) (numeralValue neg ip fp sh.decimals) = true then
        .ok (.number (numeralValue neg ip fp sh.decimals))
      else .error .tooLarge := by
  cases buf with
  | nil => exact absurd rfl hne
  | cons c cs => simp only [normalise, hs, hn]

/-- A sign or a point alone is no number. -/
theorem normalise_no_digit (h : buf = [minus] ∨ buf = [point] ∨ buf = [minus, point]) :
    normalise sh buf = .error .notValidHere := by
  rcases h with rfl | rfl | rfl <;> exact normalise_of_split (fp := []) (ip := []) (by simp) rfl rfl

/-- A numeral with no more fraction digits than its field has keeps every digit (R91). -/
theorem numeralValue_exact (neg : Bool) (ip fp : Text) {d : Nat} (h : fp.length ≤ d) :
    numeralValue neg ip fp d =
      if neg then -((digitsNat (ip ++ fp) * 10 ^ (d - fp.length) : Nat) : Int)
      else ((digitsNat (ip ++ fp) * 10 ^ (d - fp.length) : Nat) : Int) := by
  cases neg <;> simp [numeralValue, rescale, h]

theorem normalise_numeral (hpt : (pt = [] ∧ fp = []) ∨ pt = [point]) (hd : ∀ b ∈ ip ++ fp, isDigit b = true)
    (hne : ip ++ fp ≠ []) : normalise sh (Proofs.signText neg ++ (ip ++ pt ++ fp)) =
      if fitsCap (capacity sh) (numeralValue neg ip fp sh.decimals) = true then
        .ok (.number (numeralValue neg ip fp sh.decimals))
      else .error .tooLarge := by
  have hnil : ¬(ip = [] ∧ fp = []) := by simpa using hne
  rw [normalise_of_split ?_ (Proofs.splitSign_append fun _ => Proofs.head_ne_minus hpt hd)
    (Proofs.splitNumeral_append hpt hd), if_neg hnil]
  intro h
  simp only [List.append_eq_nil_iff] at h
  exact hnil ⟨h.2.1.1, h.2.2⟩

/-- A numeral without excess fraction digits gives its scaled value where that fits, else TOO LARGE. -/
theorem checkBuffer_numeral (hk : sh.kind = .number) (hfill : sh.opts.mustFill = false ∨ capacity sh ≤ digitCount buf)
    (hbuf : buf = Proofs.signText neg ++ (ip ++ pt ++ fp)) (hpt : (pt = [] ∧ fp = []) ∨ pt = [point])
    (hd : ∀ b ∈ ip ++ fp, isDigit b = true) (hne : ip ++ fp ≠ []) (hlen : fp.length ≤ sh.decimals) :
    checkBuffer sh buf =
      if digitsNat (ip ++ fp) * 10 ^ (sh.decimals - fp.length) < 10 ^ capacity sh then
        .ok (.number (if neg then -((digitsNat (ip ++ fp) * 10 ^ (sh.decimals - fp.length) : Nat) : Int)
          else ((digitsNat (ip ++ fp) * 10 ^ (sh.decimals - fp.length) : Nat) : Int)))
      else .error .tooLarge := by
  have hpass : ¬(sh.opts.mustFill = true ∧ buf ≠ [] ∧ digitCount buf < capacity sh) := by
    rintro ⟨hmust, -, hfew⟩
    rcases hfill with h | h
    · simp [h] at hmust
    · omega
  have habs : (numeralValue neg ip fp sh.decimals).natAbs = digitsNat (ip ++ fp) * 10 ^ (sh.decimals - fp.length) := by
    rw [numeralValue_exact neg ip fp hlen]
    cases neg
    · exact Int.natAbs_natCast _
    · exact (Int.natAbs_neg _).trans (Int.natAbs_natCast _)
  have hfits : fitsCap (capacity sh) (numeralValue neg ip fp sh.decimals) = true ↔
      digitsNat (ip ++ fp) * 10 ^ (sh.decimals - fp.length) < 10 ^ capacity sh := by
    rw [fitsCap, decide_eq_true_eq, habs]
  rw [checkBuffer_number hk, if_neg hpass, hbuf, normalise_numeral hpt hd hne]
  simp only [hfits]
  rw [numeralValue_exact neg ip fp hlen]

end CheckBuffer

end Sys2Proof.Machine

/-! ## A movement key that leaves a pending edit (R52, R86) -/
namespace Sys2Proof.Machine

section CompletionFrame

variable {q : List Byte} {s w : State}

/-- What a key leaves of each block that has completed the pending edit, if any, and `q` of the queue (R85). -/
def CompletionFrame (q : List Byte) (s w : State) : Prop := w = { s with
  tp := { s.tp with edge := { s.tp.edge with deskChange := w.tp.edge.deskChange } }
  form := { s.form with vals := w.form.vals, lines := w.form.lines }
  key := { s.key with queue := q, edit := none }
  comp := { s.comp with items := w.comp.items }
  line := { s.line with taken := w.line.taken }
  desk := { s.desk with active := w.desk.active, tallies := w.desk.tallies } }

theorem CompletionFrame.tp_eq (h : CompletionFrame q s w) :
    w.tp = { s.tp with edge := { s.tp.edge with deskChange := w.tp.edge.deskChange } } := congrArg State.tp h

theorem CompletionFrame.form_eq (h : CompletionFrame q s w) :
    w.form = { s.form with vals := w.form.vals, lines := w.form.lines } := congrArg State.form h

theorem CompletionFrame.cur_eq (h : CompletionFrame q s w) : w.cur = s.cur := (congrArg State.cur h :)

theorem CompletionFrame.key_eq (h : CompletionFrame q s w) : w.key = { s.key with queue := q, edit := none } :=
  (congrArg State.key h :)

theorem CompletionFrame.comp_eq (h : CompletionFrame q s w) : w.comp = { s.comp with items := w.comp.items } :=
  congrArg State.comp h

theorem CompletionFrame.send_eq (h : CompletionFrame q s w) : w.send = s.send := (congrArg State.send h :)

theorem CompletionFrame.line_eq (h : CompletionFrame q s w) : w.line = { s.line with taken := w.line.taken } :=
  congrArg State.line h

theorem CompletionFrame.desk_eq (h : CompletionFrame q s w) :
    w.desk = { s.desk with active := w.desk.active, tallies := w.desk.tallies } := congrArg State.desk h

end CompletionFrame

section Leaving

variable {i : Instr} {k : Key} {m : State → Move} {b : Byte} {q : List Byte} {e : Edit} {sh : Shape} {s : State}
  {r c top : Nat} {v : Value} {x : OpError} {f : State → State}

theorem afterCompletion_ok (he : s.key.edit = some e) (hi : instShape s.form e.inst = some sh)
    (hc : checkBuffer sh e.buf = .ok v) (f : State → State) :
    afterCompletion f s = f (storeCompleted e.inst v s) := by
  simp [afterCompletion, complete, he, hi, hc]

theorem afterCompletion_error (he : s.key.edit = some e) (hi : instShape s.form e.inst = some sh)
    (hc : checkBuffer sh e.buf = .error x) (f : State → State) : afterCompletion f s = raiseError x s := by
  simp [afterCompletion, complete, he, hi, hc]

theorem afterCompletion_none (he : s.key.edit = none) (f : State → State) : afterCompletion f s = f s := by
  simp [afterCompletion, complete, he]

/-- An operator error of a taken key while no render is in progress (R87). -/
theorem raiseError_setQueue (h : s.comp.rendering = false) (x : OpError) (q : List Byte) :
    raiseError x (setQueue q s) = errs x q s := raiseError_eq_errs x (setQueue q s) h

theorem exec_moveKey_leaves (hi : keyRowOf i = some k) (hm : moveOf k = some m) (h : KeyStands k b q s)
    (hf : s.key.keyboard = .free) (he : s.key.edit = some e) (ht : m s = .target r c top)
    (hl : leaves s e.inst r c top = true) :
    exec i s = .next (settle (afterCompletion (placeCursor r c top) (setQueue q s))) := by
  have hleave : leaves (setQueue q s) e.inst r c top = true := hl
  have hedit : (setQueue q s).key.edit = some e := he
  rw [exec_moveKey hi hm h hf, ht]
  simp only [doMove, hedit, hleave, if_true]

theorem mem_placeCursor_of_mem {it : Item} (h : it ∈ s.comp.items) : it ∈ (placeCursor r c top s).comp.items :=
  (placeCursor_frame r c top s).comp.keeps it h

theorem mem_placeCursor_row {it : Item} (htop : top ≠ s.cur.top) (h : it ∈ allBodyRows s.form) :
    it ∈ (placeCursor r c top s).comp.items := by
  rw [placeCursor_eq, mem_requestAll_iff, mem_placeItems]
  exact .inr (.inl ⟨htop, h⟩)

theorem deskChangeRight_congr {t u : State} (htp : u.tp = t.tp) (hform : u.form = t.form) (h : deskChangeRight s t) :
    deskChangeRight s u := by
  rw [deskChangeRight, htp, hform]
  exact h

end Leaving

end Sys2Proof.Machine

namespace Sys2Proof.Proofs

open Machine

/-- Settles O33: the completed state of `completes_storeCompleted` with the cursor placed, or the error of a failed check;
and the check by kind. -/
theorem leavingCompletesEdit : Obligations.LeavingCompletesEdit := by
  refine ⟨fun i k m b q e sh s hi hm h hf he hsh hk => ⟨?_, ?_, ?_, ?_⟩, fun sh buf => ⟨fun hk => ?_, fun hk => ?_⟩⟩
  · exact exec_moveKey_blocked hi hm h hf
  · intro r c top ht hl
    refine exec_moveKey_stays hi hm h hf ht fun e' he' => ?_
    cases he.symm.trans he'
    exact hl
  · intro r c top v ht hl hcheck hsome
    have hw := completes_storeCompleted (q := q) h.idle hsh hk hsome v
    have hexec := (exec_moveKey_leaves hi hm h hf he ht hl).trans
      (congrArg (fun u => Host.Outcome.next (settle u)) (afterCompletion_ok (s := setQueue q s) he hsh hcheck _))
    generalize storeCompleted e.inst v (setQueue q s) = w at hw hexec
    have hframe : CompletionFrame q s w := hw.frame
    have hidle : w.comp.rendering = false := by rw [hframe.comp_eq]; exact h.idle
    have hrows : allBodyRows w.form = allBodyRows s.form := by rw [hframe.form_eq]; rfl
    have hcomp : OnlyItems s.comp (placeCursor r c top w).comp :=
      .trans hframe.comp_eq (onlyItems_placeCursor hidle r c top)
    have hmove := placeCursor_frame r c top w
    have hform := placeCursor_form r c top w
    have htp := placeCursor_tp r c top w
    refine ⟨placeCursor r c top w, hexec, placeCursor_cur .., ?_, ?_, ?_, ?_, deskChangeRight_congr htp hform hw.change, ?_,
      hcomp, fun it hit => mem_placeCursor_of_mem (hw.item it hit), fun it htop hit => ?_, ?_, ?_, ?_, ?_, ?_, ?_,
      hw.handed.of_keyFrame hmove hform (placeCursor_desk ..)⟩
    · exact hform ▸ hw.stored
    · exact (placeCursor_key ..).trans hframe.key_eq
    · exact (placeCursor_send ..).trans hframe.send_eq
    · rw [htp]; exact hframe.tp_eq
    · rw [placeCursor_line]; exact hframe.line_eq
    · exact mem_placeCursor_row (hframe.cur_eq ▸ htop) (hrows ▸ hit)
    · rw [placeCursor_desk]; exact hframe.desk_eq
    · rw [hform]; exact hframe.form_eq
    · rw [hform]; exact hw.others
    · rw [hform]; exact hw.fieldFlags
    · rw [hform]; exact hw.cellFlags
    · rw [hform]
      exact fun hne => ⟨sumsFollow_congr hform (congrArg _ (placeCursor_desk ..)) (congrArg _ (placeCursor_desk ..))
        (hw.sums hne), hw.products hne⟩
  · intro r c top x ht hl hcheck
    have herr := afterCompletion_error (s := setQueue q s) he hsh hcheck (placeCursor r c top)
    rw [exec_moveKey_leaves hi hm h hf he ht hl, herr, raiseError_setQueue h.idle, errs, h.items, plusStatus_nil]
  · have hno : sh.kind ≠ .number := by rcases hk with e | e <;> simp [e]
    refine ⟨checkBuffer_text_ok hno, fun hfill hblank hother => ?_⟩
    rw [checkBuffer_of_ne_number hno, if_pos ⟨hfill, hblank, hother⟩]
  · refine ⟨?_, fun hfill hne hfew => ?_, fun hfill hbuf => ?_, ?_⟩
    · rintro rfl
      simp [checkBuffer_number hk, normalise]
    · rw [checkBuffer_number hk, if_pos ⟨hfill, hne, hfew⟩]
    · rw [checkBuffer_number hk, if_neg (by simp [hfill]), normalise_no_digit hbuf]
    · intro hfill neg ip pt fp hbuf hpt hd hne hlen n
      have hcheck := checkBuffer_numeral hk hfill (neg := neg) (by rw [hbuf]; simp [signText]) hpt hd hne hlen
      exact ⟨fun hlt => hcheck.trans (if_pos hlt), fun hle => hcheck.trans (if_neg (Nat.not_lt.2 hle))⟩

end Sys2Proof.Proofs

/-! ## The records that LINE INSERT and LINE DELETE move (R63, R64) -/
namespace Sys2Proof.Machine

section MovedRecords

variable {f : FormStore} {l j c n : Nat} {ln old moved : LineRec} {x : InstVal}

/-- A new line holds under each stored column a value that is absent, and no flag. -/
theorem valFind_newLine {cd : ColumnDef} (hc : findCol f c = some cd) (hk : cd.shape.kind ≠ .ordinal) :
    ∃ x, valFind (newLine f).cells c = some x ∧ valueAbsent x.value = true := by
  have hfound : (valFind (newLine f).cells c).isSome = true := by
    rw [valFind_isSome]
    simp only [newLine, List.map_map, List.mem_map, List.mem_filter, Function.comp_apply, decide_eq_true_eq]
    exact ⟨cd, ⟨List.mem_of_find?_eq_some hc, hk⟩, by simpa using List.find?_some hc⟩
  obtain ⟨x, hx⟩ := Option.isSome_iff_exists.1 hfound
  obtain ⟨-, sh, hvalue⟩ := value_of_mem_newLine (List.mem_of_find?_eq_some hx)
  exact ⟨x, hx, hvalue ▸ valueAbsent_initialValue sh⟩

theorem flag_newLine (h : valFind (newLine f).cells n = some x) : x.modified = false :=
  (value_of_mem_newLine (List.mem_of_find?_eq_some h)).1

/-! ### LINE INSERT -/

theorem getElem?_insertLineAt_lt (hl : l < f.lines.length) (hj : j < l) : (insertLineAt f l)[j]? = f.lines[j]? := by
  rw [insertLineAt, List.getElem?_append_left (by rw [List.length_take]; omega), List.getElem?_take_of_lt hj]

/-- From the inserted line on: the new line and the old ones but the last, all marked. -/
theorem getElem?_insertLineAt_ge (hl : l < f.lines.length) (n : Nat) : (insertLineAt f l)[l + n]? =
    ((newLine f :: (f.lines.drop l).dropLast)[n]?).map (fun ln => { ln with modified := true }) := by
  have hlen : (f.lines.take l).length = l := by rw [List.length_take]; omega
  rw [insertLineAt, List.getElem?_append_right (by omega), hlen, Nat.add_sub_cancel_left, markLines, List.getElem?_map]

theorem getElem?_insertLineAt_self (hl : l < f.lines.length) :
    (insertLineAt f l)[l]? = some { newLine f with modified := true } := getElem?_insertLineAt_ge hl 0

/-- A line from the inserted one on comes one further down, marked. -/
theorem getElem?_insertLineAt_succ (hl : l < f.lines.length) (hlj : l ≤ j) (hj : j + 1 < f.lines.length) :
    (insertLineAt f l)[j + 1]? = (f.lines[j]?).map (fun ln => { ln with modified := true }) := by
  obtain ⟨n, rfl⟩ := Nat.exists_eq_add_of_le hlj
  rw [Nat.add_assoc, getElem?_insertLineAt_ge hl, List.getElem?_cons_succ, List.getElem?_dropLast, List.length_drop,
    if_pos (by omega), List.getElem?_drop]

/-- Every line from the inserted one on is marked (R63). -/
theorem modified_of_insertLineAt (hl : l < f.lines.length) (hlj : l ≤ j) (h : (insertLineAt f l)[j]? = some ln) :
    ln.modified = true := by
  obtain ⟨n, rfl⟩ := Nat.exists_eq_add_of_le hlj
  rw [getElem?_insertLineAt_ge hl, Option.map_eq_some_iff] at h
  obtain ⟨_, -, rfl⟩ := h
  rfl

/-! ### LINE DELETE -/

/-- The record that LINE DELETE puts in the place of another: marked where the content changes (R64). -/
def markMoved (f : FormStore) (old moved : LineRec) : LineRec :=
  if lineContent f old ≠ lineContent f moved then { moved with modified := true } else moved

theorem markChanged_eq (f : FormStore) (old new : List LineRec) : markChanged f old new =
    List.zipWith (markMoved f) old new := rfl

theorem cells_markMoved (f : FormStore) (old moved : LineRec) : (markMoved f old moved).cells = moved.cells := by
  unfold markMoved
  split <;> rfl

theorem markMoved_self (f : FormStore) (ln : LineRec) : markMoved f ln ln = ln := by simp [markMoved]

/-- The contents of two records differ in a column that stores a value of its own. -/
theorem lineContent_ne_iff : lineContent f old ≠ lineContent f moved ↔
    ∃ cd ∈ f.cols, storesOwn cd.shape.kind = true ∧ lineValue old cd.number ≠ lineValue moved cd.number := by
  simp only [lineContent, ne_eq, List.map_inj_left, List.mem_filter, storesOwn, not_forall, exists_prop, and_assoc]

theorem modified_markMoved : (markMoved f old moved).modified = true ↔ moved.modified = true ∨
    ∃ cd ∈ f.cols, storesOwn cd.shape.kind = true ∧ lineValue old cd.number ≠ lineValue moved cd.number := by
  rw [← lineContent_ne_iff, markMoved]
  split
  · next h => exact iff_of_true rfl (.inr h)
  · next h => exact ⟨.inl, fun hor => hor.resolve_right h⟩

theorem getElem?_deleteLineAt_lt (hl : l < f.lines.length) (hj : j < l) : (deleteLineAt f l)[j]? = f.lines[j]? := by
  have hkept : (f.lines.take l ++ f.lines.drop (l + 1) ++ [newLine f])[j]? = f.lines[j]? := by
    rw [List.append_assoc, List.getElem?_append_left (by rw [List.length_take]; omega), List.getElem?_take_of_lt hj]
  rw [deleteLineAt, markChanged_eq, List.getElem?_zipWith, hkept]
  cases f.lines[j]? with
  | none => rfl
  | some ln => exact congrArg some (markMoved_self f ln)

/-- What comes to a line from the deleted one on: the next line, and the new line at the end. -/
theorem getElem?_closed_up (hl : l < f.lines.length) (hlj : l ≤ j) (hj : j < f.lines.length) :
    (f.lines.take l ++ f.lines.drop (l + 1) ++ [newLine f])[j]? =
      if j + 1 < f.lines.length then f.lines[j + 1]? else some (newLine f) := by
  have hlen : (f.lines.take l).length = l := by rw [List.length_take]; omega
  rw [List.append_assoc, List.getElem?_append_right (by omega), hlen]
  split
  · rw [List.getElem?_append_left (by rw [List.length_drop]; omega), List.getElem?_drop]
    congr 1
    omega
  · have hlast : j - l = (f.lines.drop (l + 1)).length := by rw [List.length_drop]; omega
    rw [hlast, List.getElem?_concat_length]

/-- A line from the deleted one on holds the next one's record, the last line a new one (R64). -/
theorem getElem?_deleteLineAt_ge (hl : l < f.lines.length) (hlj : l ≤ j) (hold : f.lines[j]? = some old)
    (hmoved : (if j + 1 < f.lines.length then f.lines[j + 1]? else some (newLine f)) = some moved) :
    (deleteLineAt f l)[j]? = some (markMoved f old moved) := by
  have hj := (List.getElem?_eq_some_iff.1 hold).1
  rw [deleteLineAt, markChanged_eq, List.getElem?_zipWith, getElem?_closed_up hl hlj hj, hold, hmoved]

end MovedRecords

end Sys2Proof.Machine

/-! ## What follows the moves of LINE INSERT and LINE DELETE (R65) -/
namespace Sys2Proof.Machine

section LinesMoved

variable {b s t : State} {l j c : Nat} {new : List LineRec} {it : Item}

/-! ### The cursor -/

/-- The cursor on the first tab stop of its row, as it stands in a form with no entry column. -/
def firstStopCursor (s : State) : CursorEngine :=
  match stopCols s.form with
  | [] => s.cur
  | c :: _ => { s.cur with col := c }

/-- A move within a row of a window that stays requests nothing. -/
theorem placeCursor_within_row (c : Nat) (s : State) :
    placeCursor s.cur.row c s.cur.top s = { s with cur := { s.cur with col := c } } := by
  have hnothing : placeItems s.cur.row s.cur.top s = [] := by simp [placeItems, cursorLine]
  rw [placeCursor_eq, hnothing]
  rfl

theorem toFirstStop_eq (s : State) : toFirstStop s = { s with cur := firstStopCursor s } := by
  cases hcols : stopCols s.form with
  | nil => simp only [toFirstStop, firstStopCursor, hcols]
  | cons c cs =>
    simp only [toFirstStop, firstStopCursor, hcols]
    exact placeCursor_within_row c s

theorem firstStopCursor_of_cons (h : (stopCols s.form).head? = some c) : firstStopCursor s = { s.cur with col := c } := by
  obtain ⟨cs, hcs⟩ := List.head?_eq_some_iff.1 h
  rw [firstStopCursor, hcs]

theorem firstStopCursor_of_nil (h : stopCols s.form = []) : firstStopCursor s = s.cur := by
  rw [firstStopCursor, h]

/-! ### Block by block -/

/-- The state of a line key whose products and sums follow and are handed on, before its own requests and its move. -/
def linesReckoned (l : Nat) (new : List LineRec) (s : State) : State :=
  reckon (withLines new s) l (s.form.d - l) (withLines new s)

theorem linesMoved_eq_cursor (l : Nat) (new : List LineRec) (s : State) : linesMoved l new s =
    { requestAll (rowsFrom s l) (linesReckoned l new s) with
      cur := firstStopCursor (requestAll (rowsFrom s l) (linesReckoned l new s)) } :=
  (linesMoved_eq l new s).trans (toFirstStop_eq _)

theorem linesReckoned_form (l : Nat) (new : List LineRec) (s : State) :
    (linesReckoned l new s).form = (recompute l (s.form.d - l) (withLines new s)).form := handOn_form ..

theorem linesMoved_form (l : Nat) (new : List LineRec) (s : State) :
    (linesMoved l new s).form = (recompute l (s.form.d - l) (withLines new s)).form := by
  rw [linesMoved_eq_cursor, ← linesReckoned_form]
  exact requestAll_form ..

theorem linesMoved_desk (l : Nat) (new : List LineRec) (s : State) :
    (linesMoved l new s).desk = (linesReckoned l new s).desk := by
  rw [linesMoved_eq_cursor]
  exact requestAll_desk ..

theorem linesMoved_tp (l : Nat) (new : List LineRec) (s : State) :
    (linesMoved l new s).tp = (linesReckoned l new s).tp := by
  rw [linesMoved_eq_cursor]
  exact requestAll_tp ..

theorem linesMoved_key (l : Nat) (new : List LineRec) (s : State) : (linesMoved l new s).key = s.key := by
  rw [linesMoved_eq_cursor]
  exact (requestAll_key ..).trans (reckon_key ..)

theorem linesMoved_send (l : Nat) (new : List LineRec) (s : State) : (linesMoved l new s).send = s.send := by
  rw [linesMoved_eq_cursor]
  exact (requestAll_send ..).trans (reckon_send ..)

theorem linesMoved_tp_eq (l : Nat) (new : List LineRec) (s : State) : (linesMoved l new s).tp =
    { s.tp with edge := { s.tp.edge with deskChange := (linesMoved l new s).tp.edge.deskChange } } := by
  rw [linesMoved_tp, linesReckoned, reckon, handOn_tp_eq, recompute_tp]
  rfl

theorem linesMoved_cur (l : Nat) (new : List LineRec) (s : State) : (linesMoved l new s).cur = firstStopCursor s := by
  have hcur : (requestAll (rowsFrom s l) (linesReckoned l new s)).cur = s.cur :=
    (requestAll_cur ..).trans (reckon_cur ..)
  have hcols : (requestAll (rowsFrom s l) (linesReckoned l new s)).form.cols = s.form.cols := by
    rw [requestAll_form]
    exact reckon_form_cols ..
  rw [linesMoved_eq_cursor]
  simp only [firstStopCursor, stopCols, hcur, hcols]

/-! ### The repaint list -/

theorem linesMoved_items (l : Nat) (new : List LineRec) (s : State) : it ∈ (linesMoved l new s).comp.items ↔
    it ∈ (linesReckoned l new s).comp.items ∨ it ∈ rowsFrom s l := by
  rw [linesMoved_eq_cursor]
  exact mem_requestAll_iff ..

theorem onlyItems_linesMoved (h : s.comp.rendering = false) (l : Nat) (new : List LineRec) :
    OnlyItems s.comp (linesMoved l new s).comp := by
  have hreckoned : OnlyItems s.comp (linesReckoned l new s).comp :=
    onlyItems_handOn (t := recompute l (s.form.d - l) (withLines new s)) h _
  rw [linesMoved_eq_cursor]
  exact hreckoned.trans (onlyItems_requestAll (hreckoned.idle h) _)

theorem mem_rowsFrom {k : Nat} (hk : k < s.form.w) (hl : l ≤ s.cur.top + k) :
    Item.bodyRow (s.form.h + k) ∈ rowsFrom s l :=
  List.mem_map.2 ⟨k, List.mem_filter.2 ⟨List.mem_range.2 hk, decide_eq_true hl⟩, rfl⟩

/-- What a recomputation requests are FIELD and BODY ROW items (R103). -/
theorem status_mem_handOn (h : Item.status ∈ (handOn b t).comp.items) : Item.status ∈ t.comp.items := by
  have hfields : ∀ ns, Item.status ∉ fieldItems ns := by simp [fieldItems]
  have hrows : Item.status ∉ productRows b t := by simp [productRows]
  simpa [handOn, mem_requestAll_iff, hfields, hrows] using h

theorem status_mem_linesMoved (h : Item.status ∈ (linesMoved l new s).comp.items) : Item.status ∈ s.comp.items := by
  rw [linesMoved_items] at h
  rcases h with h | h
  · exact status_mem_handOn (t := recompute l (s.form.d - l) (withLines new s)) h
  · simp [rowsFrom] at h

/-! ### Records and values -/

/-- The records after a line key: the moved ones, the products computed from the cursor's line on. -/
theorem getElem?_linesMoved (l : Nat) (new : List LineRec) (s : State) (j : Nat) :
    (linesMoved l new s).form.lines[j]? = (new[j]?).map (fun ln =>
      if l ≤ j ∧ j < l + (s.form.d - l) then lineProducts (withLines new s).form ln else ln) := by
  rw [linesMoved_form, getElem?_recompute_lines]
  rfl

theorem getElem?_linesMoved_lt (hj : j < l) : (linesMoved l new s).form.lines[j]? = new[j]? := by
  have hout : ¬(l ≤ j ∧ j < l + (s.form.d - l)) := by omega
  simp only [getElem?_linesMoved, if_neg hout]
  exact Option.map_id' ..

theorem length_linesMoved (l : Nat) (new : List LineRec) (s : State) :
    (linesMoved l new s).form.lines.length = new.length := by
  rw [linesMoved_form]
  exact length_lines_of_lineKeys (lineKeys_recompute l (s.form.d - l) (withLines new s))

/-- A recomputation keeps every flag of a moved record. -/
theorem flags_linesMoved {ln ln' : LineRec} (hln : new[j]? = some ln)
    (hln' : (linesMoved l new s).form.lines[j]? = some ln') : ln'.modified = ln.modified ∧
      ∀ n, (valFind ln'.cells n).map (·.modified) = (valFind ln.cells n).map (·.modified) := by
  rw [getElem?_linesMoved, hln, Option.map_some, Option.some.injEq] at hln'
  subst hln'
  split
  · exact ⟨rfl, fun n => flag_valFind_lineProducts ..⟩
  · exact ⟨rfl, fun n => rfl⟩

/-- A column that stores values of its own shows those of the moved records. -/
theorem instValue_linesMoved_cell {cd : ColumnDef} (hc : findCol s.form c = some cd)
    (hk : storesOwn cd.shape.kind = true) (j : Nat) : instValue (linesMoved l new s).form (.cell j c) =
      (new[j]?).bind (fun ln => (valFind ln.cells c).map (·.value)) := by
  rw [linesMoved_form, instValue_recompute_of_storesOwn (sh := cd.shape) _ _ ?_ hk]
  · rfl
  · exact congrArg (Option.map (·.shape)) hc

theorem instValue_linesMoved_field {n : Nat} {fd : FieldDef} (hf : findField s.form n = some fd)
    (hk : isSumKind fd.shape.kind = false) : instValue (linesMoved l new s).form (.field n) = instValue s.form (.field n) := by
  have hno : ∀ gd, findField (withLines new s).form n = some gd → isSumKind gd.shape.kind = false := fun gd hg => by
    cases hf.symm.trans hg
    exact hk
  rw [linesMoved_form, instValue, valFind_recompute_of_not_sum _ _ hno]
  rfl

/-! ### Computed values -/

theorem productsFollow_linesMoved (hnew : new.length = s.form.d) (hj : l ≤ j) :
    productsFollow (linesMoved l new s).form j := by
  by_cases hin : j < l + (s.form.d - l)
  · rw [linesMoved_form]
    exact productsFollow_recompute _ _ _ ⟨hj, hin⟩
  · have hnone : (linesMoved l new s).form.lines[j]? = none := by
      rw [List.getElem?_eq_none_iff, length_linesMoved]
      omega
    intro cd _ _ _ _ _ _ _ _ _ hv
    simp [instValue, hnone] at hv

theorem sumsFollow_linesMoved (l : Nat) (new : List LineRec) (s : State) : sumsFollow (linesMoved l new s) :=
  sumsFollow_congr (t := recompute l (s.form.d - l) (withLines new s)) (linesMoved_form ..)
    (by rw [linesMoved_desk]; exact handOn_desk_active ..) (by rw [linesMoved_desk]; exact reckon_desk_table ..)
    (sumsFollow_recompute ..)

/-- DESK CHANGE is raised where a DESK SUM changed; the move itself changes no field (R104). -/
theorem deskChangeRight_linesMoved (l : Nat) (new : List LineRec) (s : State) :
    deskChangeRight s (linesMoved l new s) := by
  rw [deskChangeRight, linesMoved_tp, linesMoved_form]
  exact handOn_deskChange_iff (withLines new s) (recompute l (s.form.d - l) (withLines new s))

/-- What changed is handed on: sums and contributions by the recomputation, the products of the moved lines by the rows
that a line key requests (R65). -/
theorem handedOn_linesMoved (hkept : ∀ j < l, new[j]? = s.form.lines[j]?) : HandedOn s (linesMoved l new s) := by
  have hreckoned : HandedOn (withLines new s) (linesReckoned l new s) := handedOn_reckon _ _ rfl rfl rfl rfl
  have hform : (linesMoved l new s).form = (linesReckoned l new s).form := by rw [linesMoved_form, linesReckoned_form]
  have hdesk := linesMoved_desk l new s
  refine ⟨?_, ?_, fun fd hm hk hne => ?_, fun k hk cd _ _ hne => ?_⟩
  · rw [hdesk]; exact hreckoned.tags
  · rw [hdesk]; exact hreckoned.tallies
  · rw [hform] at hne
    exact (linesMoved_items ..).2 (.inl (hreckoned.sums fd hm hk hne))
  · refine (linesMoved_items ..).2 (.inr (mem_rowsFrom hk ?_))
    by_contra hlt
    refine hne ?_
    have hline := (getElem?_linesMoved_lt (s := s) (new := new) (Nat.not_le.1 hlt)).trans (hkept _ (Nat.not_le.1 hlt))
    simp only [instValue, hline]

end LinesMoved

end Sys2Proof.Machine

/-! ## LINE INSERT and LINE DELETE taken in FREE (R62 to R64) -/
namespace Sys2Proof.Machine

section LineKeys

variable {i : Instr} {k : Key} {act : Nat → State → State} {b : Byte} {q : List Byte} {s w : State} {l j c n : Nat}
  {cd : ColumnDef}

/-- The rule of each line key (R63, R64). -/
def lineActOf : Key → Option (Nat → State → State)
  | .lineInsert => some insertLine
  | .lineDelete => some deleteLine
  | _ => none

/-- The records as a line key moves them. -/
def shiftedLines (k : Key) (f : FormStore) (l : Nat) : List LineRec :=
  match k with
  | .lineDelete => deleteLineAt f l
  | _ => insertLineAt f l

theorem length_shiftedLines {f : FormStore} (k : Key) (hl : l < f.lines.length) :
    (shiftedLines k f l).length = f.lines.length := by
  unfold shiftedLines
  split
  · exact length_deleteLineAt hl
  · exact length_insertLineAt hl

theorem getElem?_shiftedLines_lt {f : FormStore} (k : Key) (hl : l < f.lines.length) (hj : j < l) :
    (shiftedLines k f l)[j]? = f.lines[j]? := by
  unfold shiftedLines
  split
  · exact getElem?_deleteLineAt_lt hl hj
  · exact getElem?_insertLineAt_lt hl hj

/-- Unless LINE INSERT finds the last line ENTERED, a line key moves the records. -/
theorem lineAct_eq_linesMoved (ha : lineActOf k = some act)
    (hfree : k = .lineDelete ∨ lineEnteredAt w.form (w.form.d - 1) = false) (l : Nat) :
    act l w = linesMoved l (shiftedLines k w.form l) w := by
  cases k <;> cases ha
  case lineInsert => simp [insertLine, hfree.resolve_left (by simp), shiftedLines]
  case lineDelete => rfl

/-! ### The key row -/

theorem exec_lineKey (hi : keyRowOf i = some k) (ha : lineActOf k = some act) (h : KeyStands k b q s)
    (hf : s.key.keyboard = .free) : exec i s = .next (settle (lineKey act (setQueue q s))) := by
  have htake := h.takes hf (fun _ t => lineKey act t)
  cases i <;> cases hi <;> cases ha <;> exact htake

/-- Off the window rows a line key raises NOT IN BODY (R62). -/
theorem exec_lineKey_off (hi : keyRowOf i = some k) (ha : lineActOf k = some act) (h : KeyStands k b q s)
    (hf : s.key.keyboard = .free) (hl : cursorLine s = none) : exec i s = .next (settle (errs .notInBody q s)) := by
  have hoff : cursorLine (setQueue q s) = none := hl
  rw [exec_lineKey hi ha h hf, lineKey, hoff, ← raiseError_setQueue h.idle]

/-- On a window row it completes the pending edit and then acts on the line under the cursor (R62). -/
theorem exec_lineKey_on (hi : keyRowOf i = some k) (ha : lineActOf k = some act) (h : KeyStands k b q s)
    (hf : s.key.keyboard = .free) (hl : cursorLine s = some l) :
    exec i s = .next (settle (afterCompletion (act l) (setQueue q s))) := by
  have hon : cursorLine (setQueue q s) = some l := hl
  rw [exec_lineKey hi ha h hf, lineKey, hon]

/-! ### The completion before it -/

theorem status_mem_requestInst {i : Inst} (h : Item.status ∈ (requestInst i s).comp.items) :
    Item.status ∈ s.comp.items := by
  unfold requestInst at h
  split at h
  · next it hit =>
    rw [request_comp, mem_requestIn_iff] at h
    refine h.resolve_right ?_
    rintro rfl
    cases i <;> simp [instItem] at hit
  · exact h

theorem status_mem_storeCompleted {i : Inst} {v : Value} (h : Item.status ∈ (storeCompleted i v s).comp.items) :
    Item.status ∈ s.comp.items := by
  have hreckoned : Item.status ∈ (reckonIf (differs s i v) s i (writeForm (differs s i v) i v s)).comp.items :=
    status_mem_requestInst h
  unfold reckonIf at hreckoned
  split at hreckoned
  · exact status_mem_handOn (t := recompute _ _ (writeForm _ i v s)) hreckoned
  · exact hreckoned

/-- The pending edit, if any, is completed and `q` stays of the queue: `w` is `s` then, on the same lines and with STATUS
requested only if it was. -/
structure EditCompleted (q : List Byte) (s w : State) : Prop where
  readied : readied q s w
  frame : CompletionFrame q s w
  length : w.form.lines.length = s.form.lines.length
  status : Item.status ∈ w.comp.items → Item.status ∈ s.comp.items

/-- An edit that may complete leads to a completed state, with which every key goes on (R84, R85). -/
theorem exists_editCompleted (h : mayComplete s) (hidle : s.comp.rendering = false) (q : List Byte) :
    ∃ w, EditCompleted q s w ∧ ∀ f, afterCompletion f (setQueue q s) = f w := by
  cases he : s.key.edit with
  | none =>
    refine ⟨setQueue q s, ⟨⟨fun _ => rfl, fun e _ _ hsome => ?_⟩, ?_, rfl, id⟩, afterCompletion_none he⟩
    · simp [he] at hsome
    · rw [CompletionFrame, ← he]
      rfl
  | some e =>
    obtain ⟨sh, v, hsh, hk, hcheck, hstored⟩ := h e he
    have hw := completes_storeCompleted (q := q) hidle hsh hk hstored v
    refine ⟨_, ⟨⟨fun hnone => ?_, fun e' sh' v' he' hsh' hcheck' => ?_⟩, hw.frame,
      (steady_storeCompleted e.inst v (setQueue q s)).grid.lines, status_mem_storeCompleted⟩,
      afterCompletion_ok he hsh hcheck⟩
    · simp [he] at hnone
    · cases he.symm.trans he'
      cases hsh.symm.trans hsh'
      cases hcheck.symm.trans hcheck'
      exact hw

/-! ### The lines after LINE INSERT -/

theorem instValue_lineInsert (hl : l < w.form.lines.length) (hc : findCol w.form c = some cd)
    (hk : storesOwn cd.shape.kind = true) :
    (∃ v, instValue (linesMoved l (insertLineAt w.form l) w).form (.cell l c) = some v ∧ valueAbsent v = true) ∧
    ∀ j, l ≤ j → j + 1 < w.form.lines.length →
      instValue (linesMoved l (insertLineAt w.form l) w).form (.cell (j + 1) c) = instValue w.form (.cell j c) := by
  have hno : cd.shape.kind ≠ .ordinal := by rintro e; simp [e, storesOwn, isEntryKind] at hk
  obtain ⟨x, hx, habsent⟩ := valFind_newLine hc hno
  refine ⟨⟨x.value, ?_, habsent⟩, fun j hlj hj => ?_⟩
  · simp [instValue_linesMoved_cell hc hk, getElem?_insertLineAt_self hl, hx]
  · rw [instValue_linesMoved_cell hc hk, getElem?_insertLineAt_succ hl hlj hj, Option.bind_map]
    rfl

theorem modified_lineInsert {ln : LineRec} (hl : l < w.form.lines.length) (hlj : l ≤ j)
    (h : (linesMoved l (insertLineAt w.form l) w).form.lines[j]? = some ln) : ln.modified = true := by
  have hj := (List.getElem?_eq_some_iff.1 h).1
  rw [length_linesMoved] at hj
  have hmoved := List.getElem?_eq_getElem hj
  exact (flags_linesMoved hmoved h).1.trans (modified_of_insertLineAt hl hlj hmoved)

theorem flag_lineInsert_new {ln : LineRec} {x : InstVal} (hl : l < w.form.lines.length)
    (h : (linesMoved l (insertLineAt w.form l) w).form.lines[l]? = some ln) (hx : valFind ln.cells n = some x) :
    x.modified = false := by
  have hflag := (flags_linesMoved (getElem?_insertLineAt_self hl) h).2 n
  rw [hx, eq_comm, Option.map_some, Option.map_eq_some_iff] at hflag
  obtain ⟨y, hy, hmodified⟩ := hflag
  exact hmodified ▸ flag_newLine hy

theorem flag_lineInsert_moved {ln ln' : LineRec} {x x' : InstVal} (hl : l < w.form.lines.length) (hlj : l ≤ j)
    (hln : w.form.lines[j]? = some ln)
    (hln' : (linesMoved l (insertLineAt w.form l) w).form.lines[j + 1]? = some ln') (hx : valFind ln.cells n = some x)
    (hx' : valFind ln'.cells n = some x') : x'.modified = x.modified := by
  have hj := (List.getElem?_eq_some_iff.1 hln').1
  rw [length_linesMoved, length_insertLineAt hl] at hj
  have hmoved := getElem?_insertLineAt_succ hl hlj hj
  rw [hln] at hmoved
  exact Proofs.flag_of_map_eq ((flags_linesMoved hmoved hln').2 n) hx hx'

/-! ### The lines after LINE DELETE -/

theorem instValue_lineDelete (hl : l < w.form.lines.length) (hlj : l ≤ j) (hj : j < w.form.lines.length)
    (hc : findCol w.form c = some cd) (hk : storesOwn cd.shape.kind = true) :
    instValue (linesMoved l (deleteLineAt w.form l) w).form (.cell j c) =
      (if j + 1 < w.form.lines.length then w.form.lines[j + 1]? else some (newLine w.form)).bind
        (fun ln => (valFind ln.cells c).map (·.value)) := by
  have hsome : (if j + 1 < w.form.lines.length then w.form.lines[j + 1]? else some (newLine w.form)).isSome = true := by
    split <;> simp_all
  obtain ⟨moved, hmoved⟩ := Option.isSome_iff_exists.1 hsome
  rw [instValue_linesMoved_cell hc hk, getElem?_deleteLineAt_ge hl hlj (List.getElem?_eq_getElem hj) hmoved, hmoved]
  simp only [Option.bind_some, cells_markMoved]

theorem instValue_lineDelete_last (hl : l < w.form.lines.length) (hc : findCol w.form c = some cd)
    (hk : storesOwn cd.shape.kind = true) :
    ∃ v, instValue (linesMoved l (deleteLineAt w.form l) w).form (.cell (w.form.lines.length - 1) c) = some v ∧
      valueAbsent v = true := by
  have hno : cd.shape.kind ≠ .ordinal := by rintro e; simp [e, storesOwn, isEntryKind] at hk
  obtain ⟨x, hx, habsent⟩ := valFind_newLine hc hno
  refine ⟨x.value, ?_, habsent⟩
  rw [instValue_lineDelete hl (by omega) (by omega) hc hk, if_neg (by omega), Option.bind_some, hx, Option.map_some]

theorem flags_lineDelete {old moved ln : LineRec} (hl : l < w.form.lines.length) (hlj : l ≤ j)
    (hold : w.form.lines[j]? = some old) (hln : (linesMoved l (deleteLineAt w.form l) w).form.lines[j]? = some ln)
    (hmoved : (if j + 1 < w.form.lines.length then w.form.lines[j + 1]? else some (newLine w.form)) = some moved) :
    (ln.modified = true ↔ moved.modified = true ∨ ∃ cd ∈ w.form.cols, storesOwn cd.shape.kind = true ∧
      lineValue old cd.number ≠ lineValue moved cd.number) ∧
    ∀ n x x', valFind moved.cells n = some x → valFind ln.cells n = some x' → x'.modified = x.modified := by
  obtain ⟨hmodified, hflags⟩ := flags_linesMoved (getElem?_deleteLineAt_ge hl hlj hold hmoved) hln
  refine ⟨?_, fun n x x' hx hx' => Proofs.flag_of_map_eq ((hflags n).trans ?_) hx hx'⟩
  · rw [hmodified, modified_markMoved]
  · rw [cells_markMoved]

end LineKeys

end Sys2Proof.Machine

namespace Sys2Proof.Machine

section LineKeyFrame

variable {q : List Byte} {s w : State} {l : Nat} {new : List LineRec}

/-! ### A line key after the completion, against the state before the key -/

theorem findCol_congr {f g : FormStore} (h : f.cols = g.cols) (c : Nat) : findCol f c = findCol g c := by
  rw [findCol, findCol, h]

theorem newLine_congr {f g : FormStore} (h : f.cols = g.cols) : newLine f = newLine g := by
  rw [newLine, newLine, h]

theorem CompletionFrame.linesMoved_form_eq (h : CompletionFrame q s w) (l : Nat) (new : List LineRec) :
    (linesMoved l new w).form =
      { s.form with vals := (linesMoved l new w).form.vals, lines := (linesMoved l new w).form.lines } := by
  have hmoved := (linesMoved_frame l new w).form_eq
  rw [h.form_eq] at hmoved
  exact hmoved

theorem CompletionFrame.linesMoved_desk_eq (h : CompletionFrame q s w) (l : Nat) (new : List LineRec) :
    (linesMoved l new w).desk =
      { s.desk with active := (linesMoved l new w).desk.active, tallies := (linesMoved l new w).desk.tallies } := by
  have hmoved := (linesMoved_frame l new w).desk_eq
  rw [h.desk_eq] at hmoved
  exact hmoved

theorem CompletionFrame.linesMoved_line_eq (h : CompletionFrame q s w) (l : Nat) (new : List LineRec) :
    (linesMoved l new w).line = { s.line with taken := (linesMoved l new w).line.taken } := by
  have hmoved := (linesMoved_frame l new w).line_eq
  rw [h.line_eq] at hmoved
  exact hmoved

theorem flag_linesMoved_field {n : Nat} {x x' : InstVal} (hx : valFind w.form.vals n = some x)
    (hx' : valFind (linesMoved l new w).form.vals n = some x') : x'.modified = x.modified := by
  refine Proofs.flag_of_map_eq (o := valFind w.form.vals n) ?_ hx hx'
  rw [linesMoved_form, flag_valFind_recompute]
  rfl

end LineKeyFrame

end Sys2Proof.Machine

namespace Sys2Proof.Proofs

open Machine

/-- Settles O37: the completed state of `exists_editCompleted` with its records moved by `linesMoved`, what a line key leaves
of each block and of each record, and the errors before it. -/
theorem lineKeysShiftLines : Obligations.LineKeysShiftLines := by
  intro i k b q s hi hk h hf
  obtain ⟨act, ha⟩ : ∃ act, lineActOf k = some act := by rcases hk with rfl | rfl <;> exact ⟨_, rfl⟩
  refine ⟨exec_lineKey_off hi ha h hf, ?_, ?_, ?_⟩
  · intro e sh x hline he hsh hcheck
    obtain ⟨l, hl⟩ := Option.ne_none_iff_exists'.1 hline
    rw [exec_lineKey_on hi ha h hf hl, afterCompletion_error (s := setQueue q s) he hsh hcheck, raiseError_setQueue h.idle]
  · intro l hl hsound he hfree
    have hlen : l < s.form.lines.length := by rw [hsound.lines h.active]; exact hsound.cursorLine_lt hl
    refine ⟨linesMoved l (shiftedLines k s.form l) (setQueue q s), ?_, linesMoved_key .., fun j hj => ?_⟩
    · rw [exec_lineKey_on hi ha h hf hl, afterCompletion_none (s := setQueue q s) he,
        lineAct_eq_linesMoved (w := setQueue q s) ha hfree]
      rfl
    · rw [getElem?_linesMoved_lt hj, getElem?_shiftedLines_lt k hlen hj]
  · intro l hl hsound hmay
    obtain ⟨w, hw, hnext⟩ := exists_editCompleted hmay h.idle q
    have hd : w.form.d = s.form.d := by rw [hw.frame.form_eq]
    have hcols : w.form.cols = s.form.cols := by rw [hw.frame.form_eq]
    have hlines : w.form.lines.length = s.form.d := hw.length.trans (hsound.lines h.active)
    have hlen : l < w.form.lines.length := hlines ▸ hsound.cursorLine_lt hl
    have hidle : w.comp.rendering = false := by rw [hw.frame.comp_eq]; exact h.idle
    have hstatus : Item.status ∉ w.comp.items := fun hm => by simpa [h.items] using hw.status hm
    have hexec := exec_lineKey_on hi ha h hf hl
    rw [hnext] at hexec
    refine ⟨w, hw.readied, fun hins hfull => ?_, fun hfree => ?_⟩
    · subst hins
      cases ha
      have hkey : w.key.queue = q := by rw [hw.frame.key_eq]
      rw [hexec, insertLine, hd, if_pos hfull, raiseError_eq_errs _ w hidle, hkey]
    · rw [← hd] at hfree
      rw [lineAct_eq_linesMoved ha hfree] at hexec
      have hnew : (shiftedLines k w.form l).length = w.form.lines.length := length_shiftedLines k hlen
      have hfind : ∀ {c cd}, findCol s.form c = some cd → findCol w.form c = some cd := fun hc =>
        (findCol_congr hcols _).trans hc
      refine ⟨_, hexec, ?_, ?_, ?_, hw.frame.linesMoved_form_eq .., ?_, fun n x x' => flag_linesMoved_field,
        hw.frame.linesMoved_desk_eq .., linesMoved_tp_eq .., deskChangeRight_linesMoved .., ?_, sumsFollow_linesMoved ..,
        handedOn_linesMoved fun j => getElem?_shiftedLines_lt k hlen, hw.frame.linesMoved_line_eq ..,
        OnlyItems.trans hw.frame.comp_eq (onlyItems_linesMoved hidle ..), fun hm => hstatus (status_mem_linesMoved hm), ?_, ?_, ?_, ?_,
        ?_, ?_, ?_⟩
      · rw [linesMoved_key, hw.frame.key_eq]
      · rw [linesMoved_send, hw.frame.send_eq]
      · rw [length_linesMoved, hnew, hlines]
      · intro n fd hfd
        refine instValue_linesMoved_field ?_
        rw [hw.frame.form_eq]
        exact hfd
      · exact fun j hj => productsFollow_linesMoved (hnew.trans (hlines.trans hd.symm)) hj
      · exact fun it hit => (linesMoved_frame ..).comp.keeps it hit
      · intro m hm hlm
        have hrow := mem_rowsFrom (s := w) (k := m) (l := l) (by rw [hw.frame.form_eq]; exact hm)
          (by rw [hw.frame.cur_eq]; exact hlm)
        rw [hw.frame.form_eq] at hrow
        exact (linesMoved_items ..).2 (.inr hrow)
      · intro c hc
        rw [linesMoved_cur, firstStopCursor_of_cons (by rw [stopCols, hcols]; exact hc), hw.frame.cur_eq]
      · intro hnil
        rw [linesMoved_cur, firstStopCursor_of_nil (by rw [stopCols, hcols]; exact hnil), hw.frame.cur_eq]
      · exact fun j hj => (getElem?_linesMoved_lt hj).trans (getElem?_shiftedLines_lt k hlen hj)
      · rintro rfl
        refine ⟨fun c cd hc hown => ?_, fun j ln => modified_lineInsert hlen, fun ln n x => flag_lineInsert_new hlen,
          fun j ln ln' hlj hln hln' n x x' => flag_lineInsert_moved hlen hlj hln hln'⟩
        rw [← hlines]
        exact instValue_lineInsert hlen (hfind hc) hown
      · rintro rfl
        rw [← hlines, ← newLine_congr hcols, ← hcols]
        refine ⟨fun c cd hc hown => ⟨instValue_lineDelete_last hlen (hfind hc) hown, fun j hlj hj => ?_⟩,
          fun j old moved ln hlj hold hln hmoved => flags_lineDelete hlen hlj hold hln hmoved⟩
        refine (instValue_lineDelete hlen hlj (by omega) (hfind hc) hown).trans ?_
        rw [if_pos hj]
        rfl

end Sys2Proof.Proofs

/-! ## What every command keeps of the queues, the lock and the repaint list

Part by part, so that an operation speaks only of the parts that it changes. -/
namespace Sys2Proof.Machine

section Keeps

/-- A frame buffer past its length character is shorter than the frame that the length gives (R146). -/
def BufferBounded (buf : List Byte) : Prop :=
  buf.length < 4 ∨ ((buf.getD 3 0).toNat ≤ maxLengthByte ∧ buf.length < 5 + (buf.getD 3 0).toNat)

/-- The send block and the read position are within their sizes (R131, R133). -/
def BlockBounded (a : SendAssembler) : Prop := a.block.length ≤ blockSize ∧ a.readPos ≤ a.block.length

/-- The keyboard agrees with form state and send state (R69, R128). -/
def LockFits (k : Keyboard) (f : FormState) (a : SendState) : Prop :=
  (k = .system ↔ f ≠ .active) ∧ (k = .locked ↔ a ≠ .none)

/-- What holds of the repaint list in the middle of a command too, when a render is yet to begin (R109, R110). -/
structure ListSound (c : Composer) : Prop where
  nodup : c.items.Nodup
  mark : c.remark = true → c.rendering = true
  render : c.rendering = true → c.items ≠ []

/-- Whatever of the queues, the lock and the repaint list is sound in `s` is so in `t`. -/
structure Keeps (s t : State) : Prop where
  keys : s.key.queue.length ≤ keyQueueSize → t.key.queue.length ≤ keyQueueSize := by simp
  fifo : s.line.fifo.length ≤ fifoSize → t.line.fifo.length ≤ fifoSize := by simp
  buffer : BufferBounded s.line.buffer → BufferBounded t.line.buffer := by simp
  messages : s.desk.messages.length ≤ messageQueueSize → t.desk.messages.length ≤ messageQueueSize := by simp
  inbound : inboundFill s.desk ≤ inboundSize → inboundFill t.desk ≤ inboundSize := by simp [inboundFill]
  block : BlockBounded s.send → BlockBounded t.send := by simp
  lock : LockFits s.key.keyboard s.form.state s.send.state → LockFits t.key.keyboard t.form.state t.send.state := by simp
  list : ListSound s.comp → ListSound t.comp := by simp

variable {s t u : State}

theorem Keeps.refl (s : State) : Keeps s s := {}

theorem Keeps.trans (h : Keeps s t) (g : Keeps t u) : Keeps s u where
  keys := g.keys ∘ h.keys
  fifo := g.fifo ∘ h.fifo
  buffer := g.buffer ∘ h.buffer
  messages := g.messages ∘ h.messages
  inbound := g.inbound ∘ h.inbound
  block := g.block ∘ h.block
  lock := g.lock ∘ h.lock
  list := g.list ∘ h.list

/-- A change of the edge causes, the stream, the outcome and the rest of the port alone. -/
theorem keeps_tp (p : TpPort) (s : State) : Keeps s { s with tp := p } := {}

theorem queuesBounded_iff (s : State) : QueuesBounded s ↔ s.key.queue.length ≤ keyQueueSize ∧
    s.line.fifo.length ≤ fifoSize ∧ BufferBounded s.line.buffer ∧ s.desk.messages.length ≤ messageQueueSize ∧
    inboundFill s.desk ≤ inboundSize ∧ BlockBounded s.send :=
  ⟨fun h => ⟨h.keys, h.fifo, h.buffer, h.messages, h.inbound, h.block, h.readPos⟩,
    fun ⟨hkeys, hfifo, hbuffer, hmessages, hinbound, hblock, hread⟩ =>
      ⟨hkeys, hfifo, hbuffer, hmessages, hinbound, hblock, hread⟩⟩

theorem Keeps.queuesBounded (h : Keeps s t) (hs : QueuesBounded s) : QueuesBounded t := by
  rw [queuesBounded_iff] at hs ⊢
  obtain ⟨hkeys, hfifo, hbuffer, hmessages, hinbound, hblock⟩ := hs
  exact ⟨h.keys hkeys, h.fifo hfifo, h.buffer hbuffer, h.messages hmessages, h.inbound hinbound, h.block hblock⟩

theorem Keeps.lockAgrees (h : Keeps s t) (hs : LockAgrees s) : LockAgrees t :=
  have ⟨hsystem, hlocked⟩ := h.lock ⟨hs.system, hs.locked⟩
  ⟨hsystem, hlocked⟩

/-! ### The end of a command -/

theorem RepaintSound.list (h : RepaintSound s) : ListSound s.comp := ⟨h.nodup, h.remark, h.rendering.1⟩

theorem settle_comp (s : State) : (settle s).comp = { s.comp with rendering := !s.comp.items.isEmpty } := by
  rcases settle_cases s with ⟨-, e⟩ | ⟨-, e⟩ <;> rw [e]
  · rcases askArbiter_cases (startRender s) with ⟨p, -, e⟩ | ⟨-, e⟩ <;> rw [e] <;> rfl
  · rfl

theorem settle_line_buffer (s : State) : (settle s).line.buffer = s.line.buffer := by
  rcases settle_cases s with ⟨-, e⟩ | ⟨-, e⟩ <;> rw [e]
  · rcases askArbiter_cases (startRender s) with ⟨p, -, e⟩ | ⟨-, e⟩ <;> rw [e] <;> rfl
  · rfl

/-- At the end of a command a render is in progress exactly while the list is not empty (R110). -/
theorem ListSound.settle (h : ListSound s.comp) : ListSound (settle s).comp := by
  rw [settle_comp]
  exact ⟨h.nodup, fun hm => by simpa using h.render (h.mark hm), by simp⟩

theorem keeps_settle (s : State) : Keeps s (settle s) where
  buffer := by rw [settle_line_buffer]; exact id
  list := ListSound.settle

/-- A command that leads from `s` to `t` keeps what is sound, and leaves the Composer or ends with a render begun. -/
structure Ends (s t : State) : Prop where
  keeps : Keeps s t
  render : t.comp = s.comp ∨ t.comp.rendering = !t.comp.items.isEmpty

theorem Ends.repaintSound (h : Ends s t) (hs : RepaintSound s) : RepaintSound t := by
  have hlist := h.keeps.list hs.list
  refine ⟨hlist.nodup, ?_, hlist.mark⟩
  rcases h.render with e | e
  · rw [e]; exact hs.rendering
  · simp [e]

theorem Ends.refl (s : State) : Ends s s := ⟨.refl s, .inl rfl⟩

theorem Keeps.ends (h : Keeps s t) : Ends s (settle t) := ⟨h.trans (keeps_settle t), .inr (by simp [settle_comp])⟩

/-- A command that leaves the Composer need not settle. -/
theorem Keeps.ends_of_comp (h : Keeps s t) (hc : t.comp = s.comp) : Ends s t := ⟨h, .inl hc⟩

theorem ends_of_ok (h : ok u = .next t) (hu : Keeps s u) : Ends s t := ok_eq_next.1 h ▸ hu.ends

theorem ends_of_noEvent (h : noEvent s = .next t) : Ends s t := noEvent_eq_next.1 h ▸ .refl s

/-- A row that is taken or is none of its state's events. -/
theorem ends_of_ite {p : Prop} [Decidable p] (h : (if p then ok u else noEvent s) = .next t) (hu : p → Keeps s u) :
    Ends s t := by
  split at h
  · next hp => exact ends_of_ok h (hu hp)
  · exact ends_of_noEvent h

/-! ### Operations in the frame of a key -/

theorem CompStep.list {c d : Composer} (h : CompStep c d) (hc : ListSound c) : ListSound d where
  nodup := h.nodup hc.nodup
  mark := h.remark hc.mark
  render hd := by
    obtain ⟨i, hi⟩ := List.exists_mem_of_ne_nil _ (hc.render (h.rendering ▸ hd))
    exact List.ne_nil_of_mem (h.keeps i hi)

theorem KeyFrame.send_eq (h : KeyFrame s t) : t.send = s.send := (congrArg State.send h.eq :)

theorem KeyFrame.form_state (h : KeyFrame s t) : t.form.state = s.form.state := (congrArg FormStore.state h.form_eq :)

/-- What keeps the frame of a key keeps all but, maybe, the lock. -/
theorem KeyFrame.keeps (h : KeyFrame s t) (hlock : LockFits s.key.keyboard s.form.state s.send.state →
    LockFits t.key.keyboard s.form.state s.send.state) : Keeps s t where
  keys := by rw [h.queue]; exact id
  fifo := by rw [h.line_eq]; exact id
  buffer := by rw [h.line_eq]; exact id
  messages := by rw [h.desk_eq]; exact id
  inbound := by rw [h.desk_eq]; exact id
  block := by rw [h.send_eq]; exact id
  lock := by rw [h.send_eq, h.form_state]; exact hlock
  list := h.comp.list

theorem KeyFrame.keeps_of_keyboard (h : KeyFrame s t) (hk : t.key.keyboard = s.key.keyboard) : Keeps s t :=
  h.keeps (hk ▸ id)

/-- On an ACTIVE form with nothing sent the keyboard may be left in ERROR or FREE (R69, R128). -/
theorem KeyFrame.keeps_taken (h : KeyFrame s t) (ha : s.form.state = .active) (hs : s.send.state = .none) : Keeps s t := by
  refine h.keeps fun hfit => ?_
  rcases h.keyboard with e | e | e <;> rw [e]
  · exact hfit
  · simp [LockFits, ha, hs]
  · simp [LockFits, ha, hs]

end Keeps

end Sys2Proof.Machine

/-! ## Key rows and orders keep what is sound -/
namespace Sys2Proof.Machine

section KeepsKeys

variable {s t u : State}

/-! ### Key rows -/

theorem keeps_setQueue_tail {b : Byte} {q : List Byte} (h : s.key.queue = b :: q) : Keeps s (setQueue q s) where
  keys hk := by
    rw [h, List.length_cons] at hk
    exact Nat.le_of_succ_le hk

theorem canTake_iff (s : State) : canTake s = true ↔ s.form.state = .active ∧
    (s.key.keyboard = .free ∨ s.key.keyboard = .error) ∧ s.send.state = .none ∧ s.comp.items = [] ∧
    s.comp.rendering = false := by
  simp [canTake, and_assoc]

/-- An assembly begins with the keyboard LOCKED and an empty block (R126). -/
theorem keeps_beginAssembly (code : Byte) (ha : s.form.state = .active) : Keeps s (beginAssembly code s) where
  block _ := ⟨Nat.zero_le _, Nat.le_refl 0⟩
  lock _ := by simp [LockFits, beginAssembly, setKeyboard, ha]
  list := (CompStep.request s.comp .status).list
  keys := id
  fifo := id
  buffer := id
  messages := id
  inbound := id

theorem ends_keyRow {i : Instr} (hi : keyRowOf i ≠ none) (h : exec i s = .next t) : Ends s t := by
  by_cases hsend : i = .send ∨ i = .signalKey
  · rcases sendRow_cases hsend h with rfl | ⟨b, q, u, hq, hc, hu, hend⟩
    · exact .refl _
    · obtain ⟨ha, -, hs, -⟩ := (canTake_iff s).1 hc
      have hkeeps := (keeps_setQueue_tail hq).trans (hu.keeps_taken ha hs)
      rcases hend with rfl | ⟨code, rfl⟩
      · exact hkeeps.ends
      · exact (hkeeps.trans (keeps_beginAssembly code (hu.form_state.trans ha))).ends
  · obtain ⟨k, hk⟩ := Option.ne_none_iff_exists'.1 hi
    have hne : k ≠ .send := fun e => hsend (.inl (eq_send_of_keyRowOf (e ▸ hk)))
    have hns : k ≠ .signal := fun e => hsend (.inr (eq_signalKey_of_keyRowOf (e ▸ hk)))
    rcases keyRow_frame hk hne hns h with rfl | ⟨b, q, u, hq, hc, hu, rfl⟩
    · exact .refl _
    · obtain ⟨ha, -, hs, -⟩ := (canTake_iff s).1 hc
      exact ((keeps_setQueue_tail hq).trans (hu.keeps_taken ha hs)).ends

end KeepsKeys

section KeepsOrders

variable {s t u : State} {n k : Nat}

/-! ### Frames of orders -/

/-- An order's rule keeps what is sound. -/
def KeepsSound (body : State → Verdict) : Prop := ∀ s u, body s = .ok u → Keeps s u

theorem Ends.runOrder {body : State → Verdict} (h : runOrder n body s = .next t) (hb : KeepsSound body) : Ends s t := by
  rcases runOrder_cases h with ⟨o, rfl⟩ | ⟨u, -, hu, rfl⟩
  · exact (keeps_tp _ s).ends_of_comp rfl
  · exact ((keeps_tp _ s).trans ((hb _ u hu).trans (keeps_tp _ u))).ends

theorem Ends.runStreamOrder {body : State → Verdict} (h : runStreamOrder n body s = .next t) (hb : KeepsSound body) :
    Ends s t := by
  rcases runStreamOrder_cases h with ⟨o, rfl⟩ | ⟨u, -, hu, rfl⟩
  · exact (keeps_tp _ s).ends_of_comp rfl
  · exact ((keeps_tp _ s).trans ((hb _ u hu).trans (keeps_tp _ u))).ends

theorem Ends.runRead {reply : State → Except OrderOutcome (List Byte)} {after : State → State}
    (h : runRead k n reply after s = .next t) (ha : ∀ s, Keeps s (after s)) : Ends s t := by
  rcases runRead_cases h with ⟨o, rfl⟩ | ⟨r, -, -, rfl⟩
  · exact (keeps_tp _ s).ends_of_comp rfl
  · exact ((keeps_tp _ s).trans ((ha _).trans (keeps_tp _ _))).ends

/-! ### Orders of the port and the line -/

theorem keeps_statusFrame (n : Nat) (s : State) : Keeps s (statusFrame n s) := {}

theorem keeps_causeFrame (n : Nat) (s : State) : Keeps s (causeFrame n s) := {}

theorem keepsSound_displaySet (opts : Byte) : KeepsSound (fun s =>
    .ok { s with comp := { s.comp with displayOn := opts.getLsbD 0, cursorBlink := opts.getLsbD 1 } }) := by
  intro s u h
  cases h
  exact { list := fun hl => ⟨hl.nodup, hl.mark, hl.render⟩ }

/-- A change of link mode empties FIFO and frame buffer (R155). -/
theorem keeps_applyLoopback (on : Bool) (s : State) : Keeps s { s with line := applyLoopback on s.line } where
  fifo _ := Nat.zero_le _
  buffer _ := .inl (Nat.zero_lt_succ 3)

theorem keepsSound_loopback (on : Bool) : KeepsSound (loopbackBody on) := by
  intro s u h
  unfold loopbackBody at h
  repeat' split at h
  all_goals cases h
  · exact {}
  · exact {}
  · exact keeps_applyLoopback on s

theorem length_offerKey_queue (b : Byte) (h : s.key.queue.length ≤ keyQueueSize) :
    (offerKey b s).key.queue.length ≤ keyQueueSize := by
  unfold offerKey
  split
  · exact h
  · split
    · next hroom =>
      show (s.key.queue ++ [b]).length ≤ keyQueueSize
      simpa using hroom
    · exact h

/-- The key queue takes a code only while it has room (R68). -/
theorem keeps_offerKeys (bs : List Byte) (s : State) : Keeps s (offerKeys bs s) := by
  induction bs generalizing s with
  | nil => exact .refl s
  | cons b bs ih => exact Keeps.trans { keys := length_offerKey_queue b } (ih (offerKey b s))

/-- The read position stays within the block (R133). -/
theorem keeps_advanceRead (n : Nat) (s : State) : Keeps s (advanceRead n s) where
  block h := ⟨h.1, Nat.min_le_right ..⟩

/-! ### The rules that define a form -/

/-- FORM BEGIN sets SYSTEM with the form it opens, and discards a send (R23). -/
theorem keepsSound_formBegin (h w d : Nat) : KeepsSound (formBeginBody h w d) := by
  intro s u hu
  unfold formBeginBody at hu
  split at hu <;> cases hu
  have htags := (placeAll_frame .retract (activeTags s.desk) s).keeps_of_keyboard (by simp)
  exact {
    keys := htags.keys
    fifo := htags.fifo
    buffer := htags.buffer
    messages := htags.messages
    inbound := htags.inbound
    block := fun _ => ⟨Nat.zero_le _, Nat.le_refl 0⟩
    lock := fun _ => by simp [LockFits, openForm, openedForm, SendAssembler.afterReset]
    list := fun _ => by
      rw [Proofs.openForm_comp]
      exact ⟨by simp, nofun, nofun⟩ }

theorem keepsSound_fieldDefine (r : Option FieldDef) : KeepsSound (fieldDefineBody r) := by
  intro s u h
  unfold fieldDefineBody at h
  repeat' split at h
  all_goals cases h
  exact {}

theorem keepsSound_fieldDrop (n : Nat) : KeepsSound (fieldDropBody n) := by
  intro s u h
  unfold fieldDropBody at h
  repeat' split at h
  all_goals cases h
  exact {}

theorem keepsSound_columnDefine (r : Option ColumnDef) : KeepsSound (columnDefineBody r) := by
  intro s u h
  unfold columnDefineBody at h
  repeat' split at h
  all_goals cases h
  exact {}

theorem keepsSound_columnDrop (n : Nat) : KeepsSound (columnDropBody n) := by
  intro s u h
  unfold columnDropBody at h
  repeat' split at h
  all_goals cases h
  exact {}

theorem keepsSound_labelWrite (a : Option LabelArgs) (data : List Byte) : KeepsSound (labelWriteBody a data) := by
  intro s u h
  unfold labelWriteBody at h
  repeat' split at h
  all_goals cases h
  next a _ _ t _ =>
    have hlabels : Keeps s { s with form := labelled a t s.form } := {
      lock := by rw [Proofs.labelled_eq]; exact id }
    exact hlabels.trans ((requestAll_frame _ _).keeps_of_keyboard (by simp))

/-- FORM END frees the keyboard of a form in DEFINE, where nothing is sent (R28). -/
theorem keepsSound_formEnd : KeepsSound formEndBody := by
  intro s u h
  unfold formEndBody at h
  repeat' split at h
  all_goals cases h
  next hdef _ =>
    have htags := (placeAll_frame .tally (deskTags s.form) (activeState s)).keeps_of_keyboard (by simp)
    exact {
      keys := by rw [activate_key]; exact id
      fifo := by rw [activate_eq, requestAll_line]; exact htags.fifo
      buffer := by rw [activate_eq, requestAll_line]; exact htags.buffer
      messages := by rw [activate_eq, requestAll_desk]; exact htags.messages
      inbound := by rw [activate_eq, requestAll_desk]; exact htags.inbound
      block := by rw [activate_send]; exact id
      lock := fun ⟨hsystem, hlocked⟩ => by
        have hkey : s.key.keyboard = .system := hsystem.2 (by simp [not_not.1 hdef])
        have hsend : s.send.state = .none := by simpa [hkey] using hlocked
        have hactive : (activate s).form.state = .active := (congrArg FormStore.state (activate_form_eq s) :)
        simp [LockFits, activate_key, activate_send, hactive, hsend]
      list := fun hl => by
        rw [activate_eq]
        exact (requestAll_frame _ _).comp.list (htags.list hl) }

/-! ### The rules of content orders -/

theorem keeps_writeInst {i : Inst} {sh : Shape} {a : WriteArgs} {data : List Byte} (h : writeInst i sh a data s = .ok u) :
    Keeps s u := by
  unfold writeInst at h
  repeat' split at h
  all_goals cases h
  exact (storeSystem_frame ..).keeps_of_keyboard (by simp)

theorem keepsSound_fieldWrite (n : Nat) (a : Option WriteArgs) (data : List Byte) :
    KeepsSound (fieldWriteBody n a data) := by
  intro s u h
  unfold fieldWriteBody at h
  split at h
  · cases h
  · split at h
    · split at h
      · cases h
      · exact keeps_writeInst h
    · cases h

theorem keepsSound_cellWrite (l c : Nat) (a : Option WriteArgs) (data : List Byte) :
    KeepsSound (cellWriteBody l c a data) := by
  intro s u h
  unfold cellWriteBody at h
  split at h
  · cases h
  · split at h
    · cases h
    · split at h
      · split at h
        · cases h
        · exact keeps_writeInst h
      · cases h

theorem keepsSound_streamBegin (n : Nat) : KeepsSound (streamBeginBody n) := by
  intro s u h
  unfold streamBeginBody at h
  repeat' split at h
  all_goals cases h
  exact keeps_tp _ s

theorem keepsSound_streamNext (f : Option Format) (data : List Byte) : KeepsSound (streamNextBody f data) := by
  intro s u h
  unfold streamNextBody at h
  split at h
  · cases h
  · split at h
    · cases h
    · split at h
      · split at h
        · next t ht =>
          cases h
          exact (keeps_writeInst ht).trans (keeps_tp _ t)
        · cases h
      · cases h

theorem keepsSound_entriesClear : KeepsSound entriesClearBody := by
  intro s u h
  unfold entriesClearBody at h
  split at h <;> cases h
  exact (clearEntries_frame ..).keeps_of_keyboard (by simp)

theorem keepsSound_cursorSet (form a b : Byte) : KeepsSound (cursorSetBody form a b) := by
  intro s u h
  unfold cursorSetBody at h
  repeat' split at h
  all_goals cases h
  exact (abandonAndPlace_frame ..).keeps_of_keyboard (by simp)

theorem keepsSound_windowSet (n : Nat) : KeepsSound (windowSetBody n) := by
  intro s u h
  unfold windowSetBody at h
  split at h <;> cases h
  exact (abandonAndPlace_frame ..).keeps_of_keyboard (by simp)

/-! ### A send discarded -/

/-- A send that ends while the keyboard is LOCKED may leave it in FREE or ERROR: the form is ACTIVE then (R69, R128). -/
theorem keeps_of_dropSend (h : KeyFrame (dropSend s) u)
    (hs : LockFits s.key.keyboard s.form.state s.send.state → s.key.keyboard = .locked)
    (hu : u.key.keyboard = .free ∨ u.key.keyboard = .error) : Keeps s u where
  keys := by rw [h.queue]; exact id
  fifo := by rw [h.line_eq]; exact id
  buffer := by rw [h.line_eq]; exact id
  messages := by rw [h.desk_eq]; exact id
  inbound := by rw [h.desk_eq]; exact id
  block := by rw [h.send_eq]; exact fun _ => ⟨Nat.zero_le _, Nat.le_refl 0⟩
  lock hfit := by
    have hactive : s.form.state = .active := by simpa [hs hfit] using hfit.1
    have hstate : u.form.state = .active := h.form_state.trans hactive
    rw [h.send_eq, hstate]
    rcases hu with e | e <;> simp [LockFits, e, dropSend, SendAssembler.afterReset]
  list := h.comp.list

theorem releaseSend_frame (clear toHome : Bool) (s : State) : KeyFrame (dropSend s) (releaseSend clear toHome s) := by
  have hfree : ∀ t, KeyFrame t (setKeyboard .free t) := fun t =>
    ⟨rfl, .request t.comp _, rfl, .inr (.inr rfl), id, id⟩
  have hclear : KeyFrame (dropSend s) (if clear then { dropSend s with form := unmarkForm s.form } else dropSend s) := by
    cases clear
    · exact .refl _
    · exact .ofEq rfl rfl rfl rfl rfl rfl
  cases toHome
  · exact hclear.trans (hfree _)
  · exact hclear.trans ((placeCursor_frame ..).trans (hfree _))

theorem keepsSound_release (opts : Byte) : KeepsSound (releaseBody opts) := by
  intro s u h
  unfold releaseBody at h
  repeat' split at h
  all_goals cases h
  next hlocked _ => exact keeps_of_dropSend (releaseSend_frame ..) (fun _ => not_not.1 hlocked) (.inl rfl)

theorem rejectSend_frame (code : Nat) (i : Option Inst) (message : Text) (s : State) :
    KeyFrame (dropSend s) (rejectSend code i message s) := by
  have herror : ∀ t, KeyFrame t
      (setKeyboard .error { t with key := { t.key with lastError := some (.reject code message) } }) :=
    fun t => ⟨rfl, .request t.comp _, rfl, .inr (.inl rfl), id, id⟩
  cases i with
  | none => exact herror _
  | some i => exact (placeOn_frame i _).trans (herror _)

theorem keepsSound_reject (code form a b : Byte) (message : List Byte) : KeepsSound (rejectBody code form a b message) := by
  intro s u h
  unfold rejectBody at h
  repeat' split at h
  all_goals cases h
  next hlocked _ _ _ _ => exact keeps_of_dropSend (rejectSend_frame ..) (fun _ => not_not.1 hlocked) (.inr rfl)

/-! ### Messages -/

/-- A message is queued only while the queue has room (R170). -/
theorem keeps_queueMessage {f : Format} {lo hi : Nat} {data : List Byte} {t : Text} (h : decodeMessage f lo hi data s = .ok t)
    (m : OutMsg) : Keeps s (queueMessage m s) where
  messages _ := by
    unfold decodeMessage at h
    repeat' split at h
    all_goals cases h
    next hroom _ _ => simpa [queueMessage] using Nat.lt_of_not_le hroom

theorem keeps_setBanner (t : Text) (s : State) : Keeps s (setBanner t s) where
  list := (CompStep.request s.comp .status).list

theorem keepsSound_passSend (dest : Byte) (f : Option Format) (data : List Byte) :
    KeepsSound (passSendBody dest f data) := by
  intro s u h
  unfold passSendBody at h
  repeat' split at h
  all_goals cases h
  next ht => exact keeps_queueMessage ht _

theorem keepsSound_bannerSend (f : Option Format) (data : List Byte) : KeepsSound (bannerSendBody f data) := by
  intro s u h
  unfold bannerSendBody at h
  repeat' split at h
  all_goals cases h
  next ht => exact (keeps_queueMessage ht _).trans (keeps_setBanner _ _)

/-- A flow announcement changes its slot and the taken mark alone. -/
theorem keeps_placeFlow (f : Flow) (s : State) : Keeps s (placeFlow f s) where
  buffer := by
    unfold placeFlow unmark
    split <;> exact id

theorem keeps_removeInbound (s : State) : Keeps s (removeInbound s) := by
  unfold removeInbound
  split
  · exact .refl s
  · next m ms h =>
    have htaken : Keeps s { s with desk := { s.desk with inbound := ms } } := {
      inbound := fun hfill => by
        have hsum : inboundFill s.desk = recordSize m + (ms.map recordSize).sum := by simp [inboundFill, h]
        rw [hsum] at hfill
        exact Nat.le_of_add_left_le hfill }
    unfold holdAfterRemove
    split
    · exact htaken.trans (Keeps.trans {}
        (keeps_placeFlow .resume { s with desk := { s.desk with inbound := ms, pauseSent := false } }))
    · exact htaken

theorem keeps_clearLink (sel : Byte) (s : State) : Keeps s (clearLink sel s) := by
  unfold clearLink
  split
  · exact {}
  · exact .refl s

/-! ### Every order -/

theorem keeps_resetTo (station : Station) (rate : Rate) (listenOnly : Bool) (tp : TpPort) (s : State) :
    Keeps s (resetTo station rate listenOnly tp s) where
  keys _ := Nat.zero_le _
  fifo _ := Nat.zero_le _
  buffer _ := .inl (Nat.zero_lt_succ 3)
  messages _ := Nat.zero_le _
  inbound _ := Nat.zero_le _
  block _ := ⟨Nat.zero_le _, Nat.le_refl 0⟩
  lock _ := ⟨iff_of_true rfl nofun, iff_of_false nofun (absurd rfl)⟩
  list _ := ⟨.nil, nofun, nofun⟩

theorem ends_resetTo (station : Station) (rate : Rate) (listenOnly : Bool) (tp : TpPort) (s : State) :
    Ends s (resetTo station rate listenOnly tp s) := ⟨keeps_resetTo .., .inr rfl⟩

theorem ends_softReset (h : execSoftReset s n = .next t) : Ends s t := by
  unfold execSoftReset at h
  split at h
  · exact .runOrder h fun _ _ hu => by cases hu
  · cases h
    exact ends_resetTo s.line.station s.line.rate s.line.listenOnly _ s

theorem ends_order {i : Instr} (hi : frameOf i ≠ none) (h : exec i s = .next t) : Ends s t := by
  cases i
  case statusRead n => exact ends_of_ok (show ok (statusFrame n s) = .next t from h) (keeps_statusFrame n s)
  case causeRead n =>
    have h' : execCauseRead n s = .next t := h
    unfold execCauseRead at h'
    split at h'
    · cases h'
      exact (keeps_tp _ s).ends_of_comp rfl
    · exact ends_of_ok h' (keeps_causeFrame n s)
  case causeEnable set n =>
    exact .runOrder (show execCauseEnable set s n = .next t from h) fun s u hu => by cases hu; exact keeps_tp _ s
  case displaySet opts n => exact .runOrder (show execDisplaySet opts s n = .next t from h) (keepsSound_displaySet opts)
  case loopbackSet => exact .runOrder h (keepsSound_loopback _)
  case softReset => exact ends_softReset h
  case formBegin => exact .runOrder h (keepsSound_formBegin _ _ _)
  case fieldDefine => exact .runOrder h (keepsSound_fieldDefine _)
  case fieldDrop => exact .runOrder h (keepsSound_fieldDrop _)
  case columnDefine => exact .runOrder h (keepsSound_columnDefine _)
  case columnDrop => exact .runOrder h (keepsSound_columnDrop _)
  case labelWrite => exact .runOrder h (keepsSound_labelWrite _ _)
  case formEnd => exact .runOrder h keepsSound_formEnd
  case fieldWrite => exact .runOrder h (keepsSound_fieldWrite _ _ _)
  case cellWrite => exact .runOrder h (keepsSound_cellWrite _ _ _ _)
  case streamBegin => exact .runOrder h (keepsSound_streamBegin _)
  case streamNext => exact .runStreamOrder h (keepsSound_streamNext _ _)
  case fieldRead f n => exact .runRead (show execFieldRead f n s = .next t from h) .refl
  case cellRead l c n => exact .runRead (show execCellRead l c n s = .next t from h) .refl
  case entriesClear => exact .runOrder h keepsSound_entriesClear
  case cursorSet => exact .runOrder h (keepsSound_cursorSet _ _ _)
  case cursorRead n => exact .runRead (show execCursorRead n s = .next t from h) .refl
  case windowSet => exact .runOrder h (keepsSound_windowSet _)
  case key codes =>
    exact .runOrder (show execKey codes s = .next t from h) fun s u hu => by cases hu; exact keeps_offerKeys codes s
  case blockRead n => exact .runRead h (keeps_advanceRead n)
  case release => exact .runOrder h (keepsSound_release _)
  case reject => exact .runOrder h (keepsSound_reject _ _ _ _ _)
  case passSend => exact .runOrder h (keepsSound_passSend _ _ _)
  case bannerSend => exact .runOrder h (keepsSound_bannerSend _ _)
  case passRead n => exact .runRead (show execPassRead n s = .next t from h) keeps_removeInbound
  case deskReadLinkStatus n => exact .runRead (show deskRead 0 n s = .next t from h) (keeps_clearLink _)
  case deskReadTagReport sel n => exact .runRead (show deskRead sel n s = .next t from h) (keeps_clearLink _)
  all_goals exact absurd rfl hi

end KeepsOrders

end Sys2Proof.Machine

/-! ## Events keep what is sound, and so does every step -/
namespace Sys2Proof.Machine

section KeepsEvents

variable {s t u : State}

/-! ### The receiver and the frame assembler -/

/-- A change of the Desk Line Unit that keeps FIFO and frame buffer within their sizes. -/
structure LineKeeps (l m : DeskLineUnit) : Prop where
  fifo : l.fifo.length ≤ fifoSize → m.fifo.length ≤ fifoSize
  buffer : BufferBounded l.buffer → BufferBounded m.buffer

variable {l m o : DeskLineUnit}

theorem LineKeeps.of_eq (hf : m.fifo = l.fifo) (hb : m.buffer = l.buffer) : LineKeeps l m := ⟨hf ▸ id, hb ▸ id⟩

theorem LineKeeps.trans (h : LineKeeps l m) (g : LineKeeps m o) : LineKeeps l o :=
  ⟨g.fifo ∘ h.fifo, g.buffer ∘ h.buffer⟩

theorem LineKeeps.keeps (h : LineKeeps s.line m) : Keeps s { s with line := m } where
  fifo := h.fifo
  buffer := h.buffer

/-- The same with a change of the port. -/
theorem LineKeeps.keeps_tp (h : LineKeeps s.line m) (p : TpPort) : Keeps s { s with tp := p, line := m } where
  fifo := h.fifo
  buffer := h.buffer

theorem bufferBounded_nil : BufferBounded [] := .inl (Nat.zero_lt_succ 3)

theorem bufferBounded_singleton (b : Byte) : BufferBounded [b] := .inl (by simp)

/-- A character beyond the FIFO's size empties it (R143). -/
theorem lineKeeps_acceptChar (c : RxChar) (l : DeskLineUnit) : LineKeeps l (acceptChar c l) := by
  unfold acceptChar
  split
  · next hroom => exact ⟨fun _ => by simpa using hroom, id⟩
  · exact ⟨fun _ => Nat.zero_le _, fun _ => bufferBounded_nil⟩

theorem lineKeeps_abandonFrame (l : DeskLineUnit) : LineKeeps l (abandonFrame l) := ⟨id, fun _ => bufferBounded_nil⟩

theorem lineKeeps_flagLength (l : DeskLineUnit) : LineKeeps l (flagLength l) := .of_eq rfl rfl

theorem lineKeeps_judgeHead (c : RxChar) (l : DeskLineUnit) : LineKeeps l (judgeHead c l) := by
  unfold judgeHead
  split
  · split
    · exact ⟨id, fun _ => bufferBounded_singleton c.data⟩
    · exact ⟨id, fun _ => bufferBounded_nil⟩
  · exact .of_eq rfl rfl

theorem validate_fifo (bytes : List Byte) (l : DeskLineUnit) : (validate bytes l).fifo = l.fifo := by
  unfold validate
  dsimp only
  repeat' split
  all_goals rfl

theorem validate_buffer (bytes : List Byte) (l : DeskLineUnit) : (validate bytes l).buffer = l.buffer := by
  unfold validate
  dsimp only
  repeat' split
  all_goals rfl

/-- The check of a complete frame takes it out of the buffer (R148). -/
theorem checkFrame_buffer (l : DeskLineUnit) : (checkFrame l).buffer = [] := by
  unfold checkFrame
  dsimp only
  split
  · exact validate_buffer ..
  · rfl

theorem checkFrame_fifo (l : DeskLineUnit) : (checkFrame l).fifo = l.fifo := by
  unfold checkFrame
  dsimp only
  split
  · exact validate_fifo ..
  · rfl

/-- A frame buffer that a character does not fill is still shorter than its frame (R146). -/
theorem bufferBounded_append {buf : List Byte} (b : Byte) (h : BufferBounded buf)
    (hlength : ¬((buf ++ [b]).length = 4 ∧ maxLengthByte < ((buf ++ [b]).getD 3 0).toNat))
    (hfull : ¬(buf ++ [b]).length = 5 + ((buf ++ [b]).getD 3 0).toNat) : BufferBounded (buf ++ [b]) := by
  simp only [BufferBounded, List.length_append, List.length_singleton] at *
  by_cases hlen : buf.length < 4
  · omega
  · have hsame : (buf ++ [b]).getD 3 0 = buf.getD 3 0 := by
      simp only [List.getD_eq_getElem?_getD, List.getElem?_append_left (Nat.not_lt.1 hlen)]
    rw [hsame] at hfull ⊢
    omega

theorem lineKeeps_appendChar (b : Byte) (l : DeskLineUnit) : LineKeeps l (appendChar b l) := by
  unfold appendChar
  dsimp only
  split
  · next hshort => exact ⟨id, fun _ => .inl hshort⟩
  · split
    · exact ⟨id, fun _ => bufferBounded_nil⟩
    · next hlength =>
      split
      · exact ⟨by rw [checkFrame_fifo]; exact id, fun _ => by rw [checkFrame_buffer]; exact bufferBounded_nil⟩
      · next hfull => exact ⟨id, fun hb => bufferBounded_append b hb hlength hfull⟩

theorem lineKeeps_assemble (c : RxChar) (l : DeskLineUnit) : LineKeeps l (assemble c l) := by
  unfold assemble
  split
  · exact lineKeeps_judgeHead c l
  · exact lineKeeps_judgeHead c l
  · repeat' split
    · refine LineKeeps.trans (m := { l with flags := { l.flags with timeout := true } }) (.of_eq rfl rfl) ?_
      exact (lineKeeps_abandonFrame _).trans (lineKeeps_judgeHead c _)
    · exact lineKeeps_abandonFrame l
    · exact (lineKeeps_abandonFrame l).trans ((lineKeeps_flagLength _).trans (lineKeeps_judgeHead c _))
    · exact lineKeeps_appendChar c.data l

theorem ends_characterReceived {data : Byte} {mark framing : Bool}
    (h : execCharacterReceived data mark framing s = .next t) : Ends s t := by
  refine ends_of_ite h fun _ => LineKeeps.keeps ?_
  exact LineKeeps.trans (m := endCharacter framing s.line) (.of_eq rfl rfl) (lineKeeps_acceptChar ..)

theorem ends_frameAssemblerCharacter (h : execFrameAssemblerCharacter s = .next t) : Ends s t := by
  unfold execFrameAssemblerCharacter at h
  split at h
  · next c cs hfifo _ =>
    refine ends_of_ok h (LineKeeps.keeps ?_)
    have htaken : LineKeeps s.line { s.line with fifo := cs } := ⟨fun hlen => by
      rw [hfifo, List.length_cons] at hlen
      exact Nat.le_of_succ_le hlen, id⟩
    exact htaken.trans (lineKeeps_assemble c _)
  · exact ends_of_noEvent h

theorem ends_gapTimerExpiry (h : execGapTimerExpiry s = .next t) : Ends s t := by
  refine ends_of_ite h fun _ => LineKeeps.keeps ?_
  split
  · exact ⟨id, fun _ => bufferBounded_nil⟩
  · exact .of_eq rfl rfl

/-! ### The transmitter -/

theorem lineKeeps_enterSend (f : Frame) (l : DeskLineUnit) : LineKeeps l (enterSend f l) := by
  unfold enterSend
  dsimp only
  split
  · exact ⟨id, fun _ => bufferBounded_nil⟩
  · exact .of_eq rfl rfl

theorem lineKeeps_leaveSend (l : DeskLineUnit) : LineKeeps l (leaveSend l) := by
  unfold leaveSend
  split
  · exact ⟨fun _ => Nat.zero_le _, fun _ => bufferBounded_nil⟩
  · exact .of_eq rfl rfl

theorem length_dropAt_le {α : Type} (xs : List α) (i : Nat) : (dropAt xs i).length ≤ xs.length := by
  induction xs generalizing i with
  | nil => exact Nat.le_refl _
  | cons x xs ih =>
    cases i with
    | zero => exact Nat.le_succ _
    | succ i => exact Nat.succ_le_succ (ih i)

/-- A place emptied lengthens no queue (R172). -/
theorem keeps_emptyPlace (p : Place) (s : State) : Keeps s { s with desk := emptyPlace s.desk p } where
  messages hlen := by
    cases p with
    | message i => exact (length_dropAt_le _ i).trans hlen
    | _ => exact hlen
  inbound := by cases p <;> exact id

/-- The Desk Exchange after its selected place is retired (R172). -/
theorem keeps_retiredPlace (p : Place) (s : State) :
    Keeps s { s with desk := if s.line.taken then emptyPlace s.desk p else s.desk } := by
  split
  · exact keeps_emptyPlace p s
  · exact .refl s

theorem keeps_raiseSpace (s : State) : Keeps s (raiseSpace s) := keeps_tp _ s

theorem keeps_retire (s : State) : Keeps s (retire s) := by
  unfold retire
  split
  · exact .refl s
  · next p _ =>
    have hend := (keeps_retiredPlace p s).trans (LineKeeps.keeps
      (m := { s.line with selection := none, taken := false, frame := none }) (.of_eq rfl rfl))
    exact iteInduction (fun _ => hend.trans (keeps_raiseSpace _)) (fun _ => hend)

theorem keeps_enterYield (s : State) : Keeps s (enterYield s) := by
  refine (keeps_retire s).trans (LineKeeps.keeps ?_)
  exact LineKeeps.trans (m := { (retire s).line with tx := .yield, need := yieldTime, attempts := 0, frame := none })
    (.of_eq rfl rfl) (lineKeeps_leaveSend _)

theorem keeps_enterBackoff (s : State) : Keeps s (enterBackoff s) := by
  refine LineKeeps.keeps (LineKeeps.trans ?_ (lineKeeps_leaveSend _))
  exact .of_eq rfl rfl

theorem keeps_dropFrame (s : State) : Keeps s (dropFrame s) :=
  have hflag : LineKeeps s.line { s.line with
      flags := { s.line.flags with dropped := true }, lastDropped := s.line.frame.map (·.kind) } := .of_eq rfl rfl
  hflag.keeps.trans (keeps_enterYield _)

theorem keeps_askArbiter (s : State) : Keeps s (askArbiter s) := by
  rcases askArbiter_cases s with ⟨p, -, e⟩ | ⟨-, e⟩ <;> rw [e] <;> exact {}

theorem ends_accessGapReached (h : execAccessGapReached s = .next t) : Ends s t := by
  unfold execAccessGapReached at h
  split at h
  · split at h
    · exact ends_of_ok h (lineKeeps_enterSend ..).keeps
    · exact ends_of_noEvent h
  · exact ends_of_noEvent h

theorem ends_collision (h : execCollision s = .next t) : Ends s t := by
  unfold execCollision at h
  split at h
  · split at h
    · exact ends_of_ok h (keeps_enterBackoff s)
    · exact ends_of_ok h (keeps_dropFrame s)
  · exact ends_of_noEvent h

/-! ### The Desk Exchange -/

theorem compStep_recomputeDesk (s : State) : CompStep s.comp (recomputeDesk s).comp := by
  unfold recomputeDesk
  split
  · dsimp only
    rw [deskChange_comp]
    exact (requestAll_frame _ { s with form := deskSums s.desk s.form }).comp
  · exact .refl _

theorem keeps_retable (g : List (Nat × Entry) → List (Nat × Entry)) (s : State) : Keeps s (retable g s) where
  list := (compStep_recomputeDesk { s with desk := { s.desk with table := g s.desk.table } }).list

theorem keeps_placeAll (a : Announce) (ts : List Nat) (s : State) : Keeps s (placeAll a ts s) :=
  (placeAll_frame a ts s).keeps_of_keyboard (by simp)

theorem keeps_applyFrame {k : FrameKind} {effect : Frame → State → State} (h : applyFrame k effect s = .next t)
    (he : ∀ f s, Keeps s (effect f s)) : Ends s t := by
  rcases applyFrame_cases h with rfl | ⟨f, -, -, -, rfl⟩
  · exact .refl _
  · have hclear : Keeps s (clearHandoff s) := LineKeeps.keeps (.of_eq rfl rfl)
    exact (hclear.trans (he f _)).ends

theorem keeps_greetEffect (f : Frame) (s : State) : Keeps s (greetEffect f s) :=
  Keeps.trans (t := unpause (sourceOf f) s) {} ((keeps_placeAll ..).trans (keeps_retable ..))

theorem keeps_paused (p : List (Nat × Nat)) (s : State) : Keeps s { s with desk := { s.desk with paused := p } } := {}

theorem keeps_pauseEffect (f : Frame) (s : State) : Keeps s (pauseEffect f s) := keeps_paused _ s

theorem keeps_setLength (s : State) : Keeps s (setLength s) := LineKeeps.keeps (lineKeeps_flagLength s.line)

theorem keeps_tallyEffect (f : Frame) (s : State) : Keeps s (tallyEffect f s) := by
  unfold tallyEffect
  split
  · exact keeps_retable ..
  · exact keeps_setLength s

theorem keeps_retractEffect (f : Frame) (s : State) : Keeps s (retractEffect f s) := by
  unfold retractEffect
  dsimp only
  split
  · exact keeps_setLength s
  · split <;> exact keeps_retable ..

/-- A record is stored only where it fits (R173). -/
theorem keeps_deliver (m : InMsg) (s : State) : Keeps s (deliver m s) := by
  unfold deliver
  split
  · next hfits =>
    have hstored : Keeps s (storeInbound m s) := { inbound := fun _ => by simpa [inboundFill, storeInbound] using hfits }
    refine hstored.trans ?_
    unfold holdAfterStore
    split
    · exact Keeps.trans {} (keeps_placeFlow .pause
        { storeInbound m s with desk := { (storeInbound m s).desk with pauseSent := true } })
    · exact .refl _
  · exact {}

theorem keeps_refreshAll (s : State) : Keeps s (refreshAll s) :=
  Keeps.trans (t := { s with desk := { s.desk with refresh := 0 } }) {} (keeps_placeAll ..)

theorem keeps_dropBanner (s : State) : Keeps s (dropBanner s) where
  list := (CompStep.request s.comp .status).list

theorem keeps_tickRefresh (s : State) : Keeps s (tickRefresh s) := by
  unfold tickRefresh
  split
  · exact {}
  · exact keeps_refreshAll s

theorem keeps_tickPause (s : State) : Keeps s (tickPause s) := by
  unfold tickPause
  split
  · exact keeps_placeFlow .pause s
  · exact .refl s

theorem keeps_tickBanner (s : State) : Keeps s (tickBanner s) := by
  unfold tickBanner
  split
  · exact .refl s
  · split
    · exact {}
    · exact keeps_dropBanner s

theorem keeps_tick (s : State) : Keeps s (tick s) := by
  refine (keeps_retable ageTable s).trans ((keeps_tickRefresh _).trans ((keeps_tickPause _).trans ?_))
  exact Keeps.trans {} (keeps_tickBanner _)

/-! ### Renders and the assembly -/

/-- The rendered item leaves the head of the list, and joins its tail where it was marked (R110). -/
theorem listSound_popItem {c : Composer} (h : c.items.Nodup) : ListSound (popItem c) := by
  unfold popItem
  split
  · next hnil => exact ⟨h, nofun, nofun⟩
  · next i is hcons =>
    rw [hcons, List.nodup_cons] at h
    refine ⟨?_, nofun, nofun⟩
    dsimp only
    split
    · refine List.nodup_append.2 ⟨h.2, List.nodup_singleton i, ?_⟩
      rintro a ha b hb rfl
      exact h.1 (List.mem_singleton.1 hb ▸ ha)
    · exact h.2

theorem ends_renderComplete (h : execRenderComplete s = .next t) : Ends s t := by
  unfold execRenderComplete at h
  split at h
  · exact ends_of_ok h { list := fun hl => listSound_popItem (by rw [render_comp_items]; exact hl.nodup) }
  · exact ends_of_noEvent h

/-- A block that is too large is discarded; another is READY and unread (R131, R132). -/
theorem ends_assemblyComplete (h : execAssemblyComplete s = .next t) : Ends s t := by
  unfold execAssemblyComplete at h
  split at h
  · next r hstate _ =>
    split at h
    · refine ends_of_ok h (keeps_of_dropSend (raiseError_frame .blockTooLarge (dropSend s)) (fun hfit => ?_) (.inr rfl))
      exact hfit.2.2 (by simp [hstate])
    · next hsize =>
      refine ends_of_ok h { block := fun _ => ⟨Nat.le_of_not_lt hsize, Nat.zero_le _⟩, lock := fun hfit => ?_ }
      simpa [LockFits, hstate] using hfit
  · exact ends_of_noEvent h

/-! ### Start-up, port and frames closed early -/

theorem keeps_startUp (s : State) : Keeps s (startUp s) :=
  have hline : LineKeeps s.line { s.line with rxOpen := false, joined := false } := .of_eq rfl rfl
  { hline.keeps_tp s.tp with list := fun hl => (CompStep.request s.comp .status).list hl }

theorem keeps_beginClearing (stn : Station) (rate : Rate) (s : State) : Keeps s (beginClearing stn rate s) :=
  have hline : LineKeeps s.line (beginClearing stn rate s).line := .of_eq rfl rfl
  hline.keeps_tp _

theorem ends_resetnReleased {stn : Station} {rate : Rate} (h : execResetnReleased stn rate s = .next t) : Ends s t := by
  unfold execResetnReleased at h
  split at h
  · cases h
    split
    · exact ((keeps_tp _ s).trans (keeps_beginClearing ..)).ends_of_comp rfl
    · exact (keeps_tp _ s).ends_of_comp rfl
  · exact ends_of_noEvent h

theorem ends_supplySteady {stn : Station} {rate : Rate} (h : execSupplySteady stn rate s = .next t) : Ends s t := by
  unfold execSupplySteady at h
  split at h
  · cases h
    split
    · exact (keeps_tp _ s).ends_of_comp rfl
    · exact ((keeps_tp _ s).trans (keeps_beginClearing ..)).ends_of_comp rfl
  · exact ends_of_noEvent h

theorem keeps_openEffect (code : Byte) (rest : List Byte) (s : State) : Keeps s (openEffect code rest s) := by
  unfold openEffect
  split
  · split
    · exact keeps_offerKeys ..
    · split
      · exact keeps_advanceRead ..
      · exact .refl s
    · exact keeps_clearLink ..
    · exact .refl s
  · exact .refl s

theorem keeps_abandonKnown (code : Byte) (k : Nat) (rest : List Byte) (s : State) :
    Keeps s (abandonKnown code k rest s) := by
  unfold abandonKnown
  repeat' split
  · exact keeps_statusFrame ..
  · exact keeps_causeFrame ..
  · exact keeps_tp ..
  · refine (keeps_openEffect code rest s).trans ?_
    unfold abandonOrder openStream
    split <;> exact keeps_tp ..

theorem ends_frameAbandoned {bytes : List Byte} {part : Bool} (h : execFrameAbandoned bytes part s = .next t) :
    Ends s t := by
  cases bytes with
  | nil =>
    refine ends_of_ok h ?_
    split <;> exact keeps_tp ..
  | cons code rest =>
    unfold execFrameAbandoned at h
    dsimp only at h
    split at h
    · exact ends_of_ok h (keeps_tp ..)
    · exact ends_of_ite h fun _ => keeps_abandonKnown ..

/-! ### Every command -/

theorem ends_event {i : Instr} (h : exec i s = .next t) (hf : frameOf i = none) (hk : keyRowOf i = none) : Ends s t := by
  cases i
  case powerOn => cases h; exact ends_resetTo ..
  case resetnAsserted => cases h; exact ends_resetTo ..
  case frameOpen => exact ends_of_ite h fun _ => keeps_tp ..
  case frameAbandoned => exact ends_frameAbandoned h
  case unknownOrderCode => exact ends_of_ite h fun _ => keeps_tp ..
  case assemblyComplete => exact ends_assemblyComplete h
  case renderComplete => exact ends_renderComplete h
  case alarmTimerExpiry => exact ends_of_ite h fun _ => {}
  case resetnReleased => exact ends_resetnReleased h
  case supplySteady => exact ends_supplySteady h
  case startUpComplete => exact ends_of_ite h fun _ => keeps_startUp s
  case characterReceived => exact ends_characterReceived h
  case breakDetected => exact ends_of_ite h fun _ => {}
  case lineHighAfterBreak => exact ends_of_ite h fun _ => {}
  case receiveListenComplete => exact ends_of_ite h fun _ => {}
  case startBit => exact ends_of_ite h fun _ => {}
  case gapTimerExpiry => exact ends_gapTimerExpiry h
  case frameAssemblerCharacter => exact ends_frameAssemblerCharacter h
  case greet => exact keeps_applyFrame h keeps_greetEffect
  case tally => exact keeps_applyFrame h keeps_tallyEffect
  case retract => exact keeps_applyFrame h keeps_retractEffect
  case banner => exact keeps_applyFrame h fun _ => keeps_setBanner _
  case pass => exact keeps_applyFrame h fun _ => keeps_deliver _
  case pause => exact keeps_applyFrame h keeps_pauseEffect
  case resume => exact keeps_applyFrame (show execResume s = .next t from h) fun _ _ => {}
  case joinListenComplete => exact ends_of_ite h fun _ => {}
  case accessGapReached => exact ends_accessGapReached h
  case frameSent => exact ends_of_ite h fun _ => keeps_enterYield s
  case collision => exact ends_collision h
  case backoffComplete => exact ends_of_ite h fun _ => {}
  case yieldComplete => exact ends_of_ite h fun _ => keeps_askArbiter s
  case deskTick => exact ends_of_ite h fun _ => keeps_tick s
  case contributionAgeOut => exact ends_of_ite h fun _ => keeps_retable ..
  case refresh => exact ends_of_ite h fun _ => keeps_refreshAll s
  case holdTimerExpiry => exact ends_of_ite h fun _ => {}
  case bannerExpiry => exact ends_of_ite h fun _ => keeps_dropBanner s
  all_goals simp [frameOf, keyRowOf] at hf hk

theorem ends_exec {i : Instr} (h : exec i s = .next t) : Ends s t := by
  by_cases hf : frameOf i = none
  · by_cases hk : keyRowOf i = none
    · exact ends_event h hf hk
    · exact ends_keyRow hk h
  · exact ends_order hf h

theorem keeps_pending (rest : List Instr) (s : State) : Keeps s { s with pending := rest } := {}

/-- A step runs one command on the queue's rest, or idles. -/
theorem ends_step (h : step s = .next t) : Ends s t := by
  unfold step at h
  split at h
  · cases h
    exact .refl s
  · next rest _ =>
    have hend : Ends { s with pending := rest } t := ends_exec h
    exact ⟨(keeps_pending rest s).trans hend.keeps, hend.render⟩

end KeepsEvents

end Sys2Proof.Machine

namespace Sys2Proof.Proofs

open Machine

/-- Settles O54: every step keeps each queue and buffer within its size. -/
theorem queuesStayBounded : Obligations.QueuesStayBounded :=
  fun _ _ hs h => (ends_step h).keeps.queuesBounded hs

/-- Settles O55: every step keeps the lock, and ends with a render begun while the repaint list is not empty. -/
theorem lockAndRepaintListStaySound : Obligations.LockAndRepaintListStaySound :=
  ⟨fun _ _ hs h => (ends_step h).keeps.lockAgrees hs, fun _ _ hs h => (ends_step h).repaintSound hs⟩

end Sys2Proof.Proofs

/-! ## Keys are offered, and taken from the head of the queue (R68, R70, R88) -/
namespace Sys2Proof.Machine

section OfferedCodes

variable (b : Byte) (bs : List Byte) (s : State)

/-- The keyboard after codes were offered to the queue: those beyond 16 are lost (R68). -/
def offeredKeys (offered : List Byte) (k : KeyEngine) : KeyEngine := { k with
  queue := offered.take keyQueueSize
  typeaheadLost := k.typeaheadLost || decide (keyQueueSize < offered.length)
  alarm := k.alarm || decide (keyQueueSize < offered.length) }

/-- Offers in two parts are one offer. -/
theorem offeredKeys_append (xs ys : List Byte) (k : KeyEngine) :
    offeredKeys ((offeredKeys xs k).queue ++ ys) (offeredKeys xs k) = offeredKeys (xs ++ ys) k := by
  have hqueue : (xs.take keyQueueSize ++ ys).take keyQueueSize = (xs ++ ys).take keyQueueSize := by
    rw [List.take_append, List.take_append, List.take_take, Nat.min_self, List.length_take]
    congr 2
    omega
  have hlost : (decide (keyQueueSize < xs.length) || decide (keyQueueSize < (xs.take keyQueueSize ++ ys).length))
      = decide (keyQueueSize < (xs ++ ys).length) := by
    rw [← Bool.decide_or, decide_eq_decide, List.length_append, List.length_append, List.length_take]
    omega
  unfold offeredKeys
  dsimp only
  rw [Bool.or_assoc, Bool.or_assoc, hqueue, hlost]

theorem offeredKeys_of_room {xs : List Byte} {k : KeyEngine} (h : xs.length ≤ keyQueueSize) :
    offeredKeys xs k = { k with queue := xs } := by
  simp [offeredKeys, h]

theorem offerKey_eq (h : s.key.queue.length ≤ keyQueueSize) :
    offerKey b s = { s with key := offeredKeys (s.key.queue ++ [b].filter (fun b => (keyOf b).isSome)) s.key } := by
  unfold offerKey
  split
  · next hnone => simp [hnone, offeredKeys_of_room h]
  · next hsome =>
    have hdefined : [b].filter (fun b => (keyOf b).isSome) = [b] := by simp [Option.isSome_iff_ne_none, hsome]
    rw [hdefined]
    split
    · next hroom => rw [offeredKeys_of_room (by simpa using hroom), setQueue]
    · next hfull =>
      have hlen : s.key.queue.length = keyQueueSize := Nat.le_antisymm h (Nat.not_lt.1 hfull)
      simp [pulseAlarm, offeredKeys, ← hlen]

theorem offerKeys_eq (h : s.key.queue.length ≤ keyQueueSize) :
    offerKeys bs s = { s with key := offeredKeys (s.key.queue ++ bs.filter (fun b => (keyOf b).isSome)) s.key } := by
  induction bs generalizing s with
  | nil => rw [List.filter_nil, List.append_nil, offeredKeys_of_room h, offerKeys]
  | cons b bs ih =>
    rw [offerKeys, ih _ (length_offerKey_queue b h), offerKey_eq b s h, offeredKeys_append, List.append_assoc,
      ← List.filter_append, List.singleton_append]

end OfferedCodes

section KeyRows

variable {i : Instr} {k : Key} {b : Byte} {q : List Byte} {s : State}

/-- What a key does in FREE, of every key but RESET. -/
def keyAct (k : Key) (b : Byte) (s : State) : State :=
  match k with
  | .data => dataKey b s
  | .backspace => backspaceKey s
  | .delete => deleteKey s
  | .insert => insertKey s
  | .clearToEnd => clearToEndKey s
  | .clearAll => clearAllKey s
  | .repeatAbove => repeatAboveKey s
  | .lineInsert => lineKey insertLine s
  | .lineDelete => lineKey deleteLine s
  | .send => afterCompletion sendChecked s
  | .signal => beginAssembly b (abandonEdit s)
  | k => match moveOf k with
    | some m => doMove (m s) s
    | none => s

theorem exec_keyRow (hi : keyRowOf i = some k) (hk : k ≠ .reset) (s : State) : exec i s = takeKey k (keyAct k) s := by
  cases i <;> cases hi
  case reset => exact absurd rfl hk
  all_goals rfl

theorem eq_reset_of_keyRowOf (hi : keyRowOf i = some .reset) : i = .reset := by
  cases i <;> cases hi
  rfl

theorem sendChecked_queue (s : State) : (sendChecked s).key.queue = s.key.queue := by
  rcases sendChecked_cases s with h | h
  · exact h.queue
  · rw [h]
    rfl

/-- No key puts a code in the queue or takes another out of it. -/
theorem keyAct_queue (k : Key) (b : Byte) (s : State) : (keyAct k b s).key.queue = s.key.queue := by
  cases k
  case data => exact (dataKey_frame b s).queue
  case backspace => exact (backspaceKey_frame s).queue
  case delete => exact (deleteKey_frame s).queue
  case insert => exact (insertKey_frame s).queue
  case clearToEnd => exact (clearToEndKey_frame s).queue
  case clearAll => exact (clearAllKey_frame s).queue
  case repeatAbove => exact (repeatAboveKey_frame s).queue
  case lineInsert => exact (lineKey_frame insertLine_frame s).queue
  case lineDelete => exact (lineKey_frame deleteLine_frame s).queue
  case send =>
    rcases afterCompletion_cases sendChecked s with ⟨x, -, h⟩ | ⟨t, ht, h⟩
    · exact (congrArg (·.key.queue) h).trans (raiseError_frame x s).queue
    · exact (congrArg (·.key.queue) h).trans ((sendChecked_queue t).trans (complete_frame ht).queue)
  case signal => exact (abandonEdit_frame s).queue
  case reset => rfl
  all_goals exact (doMove_frame _ s).queue

/-- The head of the queue is the key, and it may be taken now (R70). -/
def KeyReady (k : Key) (s : State) : Prop := canTake s = true ∧ s.key.queue.head?.bind keyOf = some k

/-- A key that is not at the head of the queue, or may not be taken, is none of the machine's events. -/
theorem takeKey_not_ready {act : Byte → State → State} (h : ¬KeyReady k s) : takeKey k act s = .next s := by
  unfold takeKey
  split
  · rfl
  · next b q hq =>
    rw [if_neg fun hc => h ⟨hc.1, by simpa [hq] using hc.2⟩]
    rfl

theorem execReset_not_ready (h : ¬KeyReady .reset s) : execReset s = .next s := by
  unfold execReset
  split
  · rfl
  · next b q hq =>
    rw [if_neg fun hc => h ⟨hc.1, by simpa [hq] using hc.2⟩]
    rfl

theorem exec_keyRow_not_ready (hi : keyRowOf i = some k) (h : ¬KeyReady k s) : exec i s = .next s := by
  by_cases hk : k = .reset
  · subst hk
    exact eq_reset_of_keyRowOf hi ▸ execReset_not_ready h
  · rw [exec_keyRow hi hk]
    exact takeKey_not_ready h

theorem execReset_error (hq : s.key.queue = b :: q) (hc : canTake s = true) (hb : keyOf b = some .reset)
    (he : s.key.keyboard = .error) : execReset s = .next (settle (clearError (setQueue q s))) := by
  simp [execReset, hq, hc, hb, he, ok]

theorem execReset_free (hq : s.key.queue = b :: q) (hc : canTake s = true) (hb : keyOf b = some .reset)
    (hf : s.key.keyboard = .free) : execReset s = .next (settle (setQueue q s)) := by
  simp [execReset, hq, hc, hb, hf, ok]

/-- A key that is taken leaves the queue (R70). -/
theorem exec_keyRow_queue (hi : keyRowOf i = some k) (hq : s.key.queue = b :: q) (hb : keyOf b = some k)
    (hc : canTake s = true) (hf : s.key.keyboard = .free ∨ s.key.keyboard = .error) :
    ∃ t, exec i s = .next t ∧ t.key.queue = q := by
  by_cases hk : k = .reset
  · subst hk
    obtain rfl := eq_reset_of_keyRowOf hi
    rcases hf with hf | he
    · exact ⟨_, execReset_free hq hc hb hf, by simp [setQueue]⟩
    · exact ⟨_, execReset_error hq hc hb he, by simp [setQueue]⟩
  · rw [exec_keyRow hi hk]
    rcases hf with hf | he
    · exact ⟨_, takeKey_free hq hc hb hf, by simp [keyAct_queue, setQueue]⟩
    · exact ⟨_, takeKey_error hq hc hb he, by simp [discardKey, pulseAlarm, setQueue]⟩

/-- In ERROR a standing key may be taken too (R70). -/
theorem KeyStands.canTake_error (h : KeyStands k b q s) (he : s.key.keyboard = .error) : Machine.canTake s = true :=
  (canTake_iff s).2 ⟨h.active, .inr he, h.send, h.items, h.idle⟩

/-- With nothing to repaint, the error cleared leaves STATUS alone to repaint (R111). -/
theorem clearError_eq (hidle : s.comp.rendering = false) (hitems : s.comp.items = []) :
    clearError s = { s with
      key := { s.key with keyboard := .free, lastError := none }, comp := { s.comp with items := [.status] } } := by
  unfold clearError setKeyboard
  rw [request_eq_of_idle (by exact hidle)]
  simp [requestIn, hitems]

end KeyRows

end Sys2Proof.Machine

namespace Sys2Proof.Proofs

open Machine

/-- Settles O15: the codes are offered one by one, by induction on them. -/
theorem keyOrderOffersCodes : Obligations.KeyOrderOffersCodes := by
  intro codes s hready hlen offered
  have hbody := offerKeys_eq codes (inFrame (1 + codes.length) s) hlen
  exact order_taken (body := fun t => .ok (offerKeys codes t)) rfl hready (congrArg Except.ok hbody)

/-- Settles O29: a key row acts exactly while its key stands ready at the head of the queue. -/
theorem keysAreTakenFromHead : Obligations.KeysAreTakenFromHead := by
  intro i k s hi hsound
  refine ⟨fun b q hq hb hactive hkeyboard hsend hitems => ?_, fun hwaits => exec_keyRow_not_ready hi fun hready => ?_⟩
  · have hidle : s.comp.rendering = false := by
      rw [← Bool.not_eq_true]
      exact fun hr => hsound.rendering.1 hr hitems
    exact exec_keyRow_queue hi hq hb ((canTake_iff s).2 ⟨hactive, hkeyboard, hsend, hitems, hidle⟩) hkeyboard
  · obtain ⟨hactive, hkeyboard, hsend, hitems, -⟩ := (canTake_iff s).1 hready.1
    rcases hwaits with h | ⟨hfree, herror⟩ | h | h | h
    · exact h hactive
    · exact hkeyboard.elim hfree herror
    · exact h hsend
    · exact h hitems
    · exact h hready.2

/-- Settles O30: in ERROR the key rows discard, and RESET frees. -/
theorem errorDiscardsKeysUntilReset : Obligations.ErrorDiscardsKeysUntilReset := by
  refine ⟨fun s hwaits => execReset_not_ready fun hready => ?_, fun i k b q s hi hstands => ⟨?_, ?_, ?_⟩⟩
  · obtain ⟨-, hkeyboard, -⟩ := (canTake_iff s).1 hready.1
    rcases hwaits with h | h <;> simp [h] at hkeyboard
  · intro he hk
    rw [exec_keyRow hi hk]
    exact takeKey_error hstands.head (hstands.canTake_error he) hstands.key he
  · rintro he rfl
    obtain rfl := eq_reset_of_keyRowOf hi
    rw [show exec .reset s = _ from execReset_error hstands.head (hstands.canTake_error he) hstands.key he,
      clearError_eq (s := setQueue q s) hstands.idle hstands.items]
    rfl
  · rintro hf rfl
    obtain rfl := eq_reset_of_keyRowOf hi
    exact execReset_free hstands.head (hstands.canTake hf) hstands.key hf

end Sys2Proof.Proofs

/-! ## Data keys (R71 to R78) -/
namespace Sys2Proof.Machine

section EditBuffer

variable {i : Inst} {sh : Shape} {c0 r0 col : Nat} {buf : Text} {k : Key} {b : Byte} {q : List Byte} {s u : State}

/-! ### The buffer of an edit and its cells -/

theorem currentEntry_shape (h : currentEntry s = some (i, sh, c0)) : instShape s.form i = some sh := by
  unfold currentEntry at h
  split at h
  · cases h
  · split at h
    · next hsh _ =>
      split at h
      · cases h
        exact hsh
      · cases h
    · cases h

theorem currentEntry_kind {c0 : Nat} (h : currentEntry s = some (i, sh, c0)) : isEntryKind sh.kind = true := by
  unfold currentEntry at h
  split at h
  · cases h
  · split at h
    · split at h
      · next hk =>
        cases h
        exact hk
      · cases h
    · cases h

/-- A drawn instance changes nothing but the image (R113). -/
theorem drawInst_eq (i : Inst) (s : State) :
    drawInst i s = { s with comp := { s.comp with image := (drawInst i s).comp.image } } := by
  unfold drawInst
  split <;> rfl

theorem setBuffer_eq (i : Inst) (buf : Text) (s : State) : setBuffer i buf s = { s with
    key := { s.key with edit := some ⟨i, buf⟩ }, comp := { s.comp with image := (setBuffer i buf s).comp.image } } :=
  drawInst_eq i _

theorem getD_padRight {n j : Nat} (h : j < n) (x : Byte) (t : Text) : (padRight n x t).getD j x = t.getD j x := by
  have htake : ∀ l : Text, (l.take n)[j]? = l[j]? := fun l => List.getElem?_take_of_lt h
  rw [padRight, List.getD_eq_getElem?_getD, List.getD_eq_getElem?_getD, htake]
  rcases Nat.lt_or_ge j t.length with hj | hj
  · rw [List.getElem?_append_left hj]
  · rw [List.getElem?_append_right hj, List.getElem?_eq_none hj, List.getElem?_replicate_of_lt (by omega)]
    rfl

/-- The text that an instance with a pending edit shows (R72, R115). -/
theorem shownText_edit (k : KeyEngine) (hk : k.edit = some ⟨i, buf⟩) (sh : Shape) (stored : Text) :
    shownText k i sh stored = if sh.attrs.hidden then List.replicate sh.length blank else padRight sh.length blank buf := by
  simp [shownText, hk]

theorem instCells_edit (hk : s.key.edit = some ⟨i, buf⟩) (sh : Shape) :
    instCells s i sh = (if sh.attrs.hidden then List.replicate sh.length blank else padRight sh.length blank buf).map
      (fun b => ⟨b, cellAttrs sh.attrs⟩) := by
  rw [instCells, cellsOf, shownText_edit s.key hk]

theorem length_instCells_edit (hk : s.key.edit = some ⟨i, buf⟩) (sh : Shape) : (instCells s i sh).length = sh.length := by
  rw [instCells_edit hk, List.length_map]
  split <;> simp [padRight]

theorem getD_instCells_edit (hk : s.key.edit = some ⟨i, buf⟩) {j : Nat} (hj : j < sh.length) (d : Cell) :
    (instCells s i sh).getD j d = ⟨if sh.attrs.hidden then blank else buf.getD j blank, cellAttrs sh.attrs⟩ := by
  have hlen := length_instCells_edit hk sh
  rw [List.getD_eq_getElem _ _ (hlen.symm ▸ hj)]
  simp only [instCells_edit hk, List.getElem_map]
  congr 1
  by_cases hh : sh.attrs.hidden = true
  · simp [hh]
  · simp only [hh, Bool.false_eq_true, if_false]
    rw [← getD_padRight hj blank buf, List.getD_eq_getElem]

/-- The cells of an instance of the form lie in one row of the screen (R7, R9). -/
theorem instFirst_onScreen (hr : recordsOnScreen s.form = true) (hsh : instShape s.form i = some sh)
    (hfirst : instFirst s.form s.cur.top i = some (r0, c0)) : c0 + sh.length ≤ screenCols := by
  obtain ⟨hfields, hcols⟩ := (recordsOnScreen_iff _).1 hr
  cases i with
  | field n =>
    obtain ⟨fd, hfd, rfl⟩ := Option.map_eq_some_iff.1 hsh
    simp only [instFirst, hfd, Option.map_some, Option.some.injEq, Prod.mk.injEq] at hfirst
    exact hfirst.2 ▸ (hfields fd (mem_of_findField hfd)).2.2
  | cell l c =>
    obtain ⟨cd, hcd, rfl⟩ := Option.map_eq_some_iff.1 hsh
    simp only [instFirst, hcd] at hfirst
    split at hfirst
    · next heq =>
      cases heq
      cases hfirst
      exact (hcols cd (mem_of_findCol hcd)).2
    · cases hfirst

/-- An instance with a pending edit, once drawn, shows its buffer in its cells and no other cell changes (R72). -/
theorem echoes_drawInst (hm : cellWf blankCell s.comp.image = true) (hr : recordsOnScreen s.form = true)
    (hsh : instShape s.form i = some sh) (hfirst : instFirst s.form s.cur.top i = some (r0, c0))
    (hk : s.key.edit = some ⟨i, buf⟩) : echoes r0 c0 sh buf s (drawInst i s) := by
  have hcols := instFirst_onScreen hr hsh hfirst
  have himage : (drawInst i s).comp.image = cellWriteRun blankCell s.comp.image (cellKey r0 c0) (instCells s i sh) := by
    simp only [drawInst, hsh, hfirst, drawRun]
  intro r c hc
  have hread : imageCell (drawInst i s) r c = if cellKey r0 c0 ≤ cellKey r c ∧ cellKey r c < cellKey r0 c0 + sh.length
      then (instCells s i sh).getD (cellKey r c - cellKey r0 c0) blankCell else imageCell s r c := by
    rw [imageCell, himage, cellRead_writeRun hm, length_instCells_edit hk]
    rfl
  have hinside : (cellKey r0 c0 ≤ cellKey r c ∧ cellKey r c < cellKey r0 c0 + sh.length) ↔
      r = r0 ∧ c0 ≤ c ∧ c < c0 + sh.length := by
    simp only [cellKey, screenCols] at *
    omega
  refine ⟨fun hin => ?_, fun hout => by rw [hread, if_neg (hout ∘ hinside.1)]⟩
  obtain ⟨rfl, hlo, hhi⟩ := hin
  have hpos : cellKey r c - cellKey r c0 = c - c0 := by
    simp only [cellKey]
    omega
  rw [hread, if_pos (hinside.2 ⟨rfl, hlo, hhi⟩), hpos, getD_instCells_edit hk (by omega)]
  rfl

/-! ### A key that leaves a pending edit -/

/-- The key leaves the queue, and an edit is pending on the instance, its buffer shown in its cells, the cursor in a column
of its row; nothing else changes (R72). -/
def Written (q : List Byte) (i : Inst) (sh : Shape) (c0 col : Nat) (buf : Text) (s u : State) : Prop :=
  u = { s with
    cur := { s.cur with col := col }
    key := { s.key with queue := q, edit := some ⟨i, buf⟩ }
    comp := { s.comp with image := u.comp.image } } ∧
  (MemoriesSound s → recordsOnScreen s.form = true → ∀ r0, instFirst s.form s.cur.top i = some (r0, c0) →
    echoes r0 c0 sh buf s u)

theorem written_setBuffer (hsh : instShape s.form i = some sh) :
    Written q i sh c0 s.cur.col buf s (setBuffer i buf (setQueue q s)) :=
  ⟨setBuffer_eq i buf (setQueue q s), fun hm hr _ hfirst =>
    echoes_drawInst (s := { setQueue q s with key := { (setQueue q s).key with edit := some ⟨i, buf⟩ } })
      hm.image hr hsh hfirst rfl⟩

theorem Written.setCursorCol (h : Written q i sh c0 col buf s u) (c : Nat) :
    Written q i sh c0 c buf s (setCursorCol c u) := by
  obtain ⟨hu, hechoes⟩ := h
  refine ⟨?_, hechoes⟩
  rw [hu]
  rfl

theorem Written.idle (h : Written q i sh c0 col buf s u) : u.comp.rendering = s.comp.rendering :=
  (congrArg (·.comp.rendering) h.1 :)

theorem Written.queue (h : Written q i sh c0 col buf s u) : u.key.queue = q := (congrArg (·.key.queue) h.1 :)

/-- The error of a key that leaves an edit pending (R87). -/
theorem Written.raiseError (h : Written q i sh c0 col buf s u) (hidle : s.comp.rendering = false) (x : OpError) :
    raiseError x u = errs x q u := by
  rw [raiseError_eq_errs x u (h.idle.trans hidle), h.queue]

/-- TAB at the head of the queue acts on what the key left. -/
theorem Written.exec_tab (h : Written q i sh c0 col buf s u) (hs : KeyStands k b q s) (hf : s.key.keyboard = .free)
    {tab : Byte} (ht : keyOf tab = some .tab) : exec .tab (setQueue (tab :: q) u) = .next (settle (actTab u)) := by
  have hstands : KeyStands .tab tab q (setQueue (tab :: q) u) := {
    head := rfl
    key := ht
    active := (congrArg (·.form.state) h.1 :).trans hs.active
    send := (congrArg (·.send.state) h.1 :).trans hs.send
    items := (congrArg (·.comp.items) h.1 :).trans hs.items
    idle := h.idle.trans hs.idle }
  have hfree : (setQueue (tab :: q) u).key.keyboard = .free := (congrArg (·.key.keyboard) h.1 :).trans hf
  rw [exec_moveKey (i := .tab) rfl rfl hstands hfree, move_setQueue (k := .tab) rfl]
  obtain rfl := h.queue
  rfl

end EditBuffer

section DataKeys

variable {i : Inst} {sh : Shape} {c0 : Nat} {buf : Text} {b : Byte} {s : State}

theorem foldChar_eq (sh : Shape) (b : Byte) : foldChar sh b =
    if sh.kind = .text ∧ sh.opts.upperFold = true ∧ 0x61 ≤ b.toNat ∧ b.toNat ≤ 0x7A then b - 0x20 else b := by
  unfold foldChar upper
  by_cases hfold : sh.kind = .text ∧ sh.opts.upperFold = true
  · simp [hfold]
  · rw [if_neg hfold, if_neg fun h => hfold ⟨h.1, h.2.1⟩]

theorem bufferFor_edit (h : s.key.edit = some ⟨i, buf⟩) (sh : Shape) : bufferFor s i sh = buf := by
  simp [bufferFor, h]

theorem bufferFor_number (h : s.key.edit = none) (hn : sh.kind = .number) : bufferFor s i sh = [] := by
  simp [bufferFor, h, hn]

theorem bufferFor_text (h : s.key.edit = none) (hn : sh.kind ≠ .number) {t : Text}
    (ht : instValue s.form i = some (.text t)) : bufferFor s i sh = t := by
  simp [bufferFor, h, hn, ht, storedText]

theorem dataKey_protected (h : currentEntry s = none) : dataKey b s = raiseError .protectedCell s := by
  simp [dataKey, h]

theorem dataKey_text (h : currentEntry s = some (i, sh, c0)) (hn : sh.kind ≠ .number) :
    dataKey b s = textKey i sh c0 b s := by
  simp [dataKey, h, hn]

theorem dataKey_number (h : currentEntry s = some (i, sh, c0)) (hn : sh.kind = .number) :
    dataKey b s = numberKey i sh c0 b s := by
  simp [dataKey, h, hn]

/-- A character that a DIGITS instance does not take (R74). -/
def BadDigit (sh : Shape) (ch : Byte) : Prop := sh.kind = .digits ∧ isDigit ch = false ∧ ch ≠ blank

/-- With insert mode on, a buffer whose last position is not blank has no room (R75). -/
def TextFull (sh : Shape) (buf : Text) (s : State) : Prop :=
  s.key.insertMode = true ∧ buf.getD (sh.length - 1) blank ≠ blank

/-- The buffer with a character written at `p`, inserted in insert mode (R75). -/
def typed (p : Nat) (ch : Byte) (buf : Text) (s : State) : Text :=
  if s.key.insertMode then insertAt p ch buf else buf.set p ch

theorem textKey_bad (h : BadDigit sh (foldChar sh b)) :
    textKey i sh c0 b s = raiseError .notValidHere (setBuffer i (bufferFor s i sh) s) := by
  obtain ⟨hkind, hdigit, hblank⟩ := h
  simp [textKey, digitsAllowed, hkind, hdigit, hblank]

theorem not_digits_refused (h : ¬BadDigit sh (foldChar sh b)) :
    ¬(sh.kind = .digits ∧ digitsAllowed (foldChar sh b) = false) := by
  rintro ⟨hkind, hrefused⟩
  simp only [digitsAllowed, Bool.or_eq_false_iff, decide_eq_false_iff_not] at hrefused
  exact h ⟨hkind, hrefused.1, hrefused.2⟩

theorem textKey_full (hbad : ¬BadDigit sh (foldChar sh b)) (h : TextFull sh (bufferFor s i sh) s) :
    textKey i sh c0 b s = raiseError .fieldFull (setBuffer i (bufferFor s i sh) s) := by
  unfold textKey
  dsimp only
  rw [if_neg (not_digits_refused hbad), if_pos h.1, if_pos h.2]

theorem textKey_typed (hbad : ¬BadDigit sh (foldChar sh b)) (hfull : ¬TextFull sh (bufferFor s i sh) s) :
    textKey i sh c0 b s = advance sh c0 (s.cur.col - c0)
      (setBuffer i (typed (s.cur.col - c0) (foldChar sh b) (bufferFor s i sh) s) s) := by
  unfold textKey typed
  dsimp only
  rw [if_neg (not_digits_refused hbad)]
  split
  · next hins => rw [if_neg fun h => hfull ⟨hins, h⟩]
  · rfl

/-- A character with a place in a NUMBER buffer: a digit, the first minus of a signed one, or the one point (R77). -/
def NumberFits (sh : Shape) (buf : Text) (b : Byte) : Prop :=
  isDigit b = true ∨ (b = minus ∧ sh.signed = true ∧ buf = []) ∨ (b = point ∧ 0 < sh.decimals ∧ point ∉ buf)

/-- A NUMBER buffer with room for a character: neither its positions nor its decimals are used up (R77). -/
def NumberRoom (sh : Shape) (buf : Text) (b : Byte) : Prop :=
  buf.length < sh.length ∧
    (isDigit b = true → ∀ ip fp, buf = ip ++ point :: fp → point ∉ ip → fp.length < sh.decimals)

theorem fractionDigits_eq {ip fp : Text} (h : point ∉ ip) : fractionDigits (ip ++ point :: fp) = fp.length := by
  have hdrop : (ip ++ point :: fp).dropWhile (fun b => b ≠ point) = point :: fp := by
    rw [List.dropWhile_append_of_pos fun b hb => by simpa using ne_of_mem_of_not_mem hb h]
    simp
  rw [fractionDigits, hdrop]
  rfl

/-- The fraction is full exactly when the digits after the first point use up the decimals. -/
theorem fraction_room_iff (sh : Shape) (buf : Text) : ¬(point ∈ buf ∧ sh.decimals ≤ fractionDigits buf) ↔
    ∀ ip fp, buf = ip ++ point :: fp → point ∉ ip → fp.length < sh.decimals := by
  refine ⟨fun h ip fp hbuf hip => ?_, fun h hfull => ?_⟩
  · subst hbuf
    rw [fractionDigits_eq hip] at h
    exact Nat.lt_of_not_le fun hle => h ⟨by simp, hle⟩
  · obtain ⟨hmem, hle⟩ := hfull
    obtain ⟨ip, fp, rfl, hip⟩ := List.eq_append_cons_of_mem hmem
    rw [fractionDigits_eq hip] at hle
    exact absurd (h ip fp rfl hip) (Nat.not_lt.2 hle)

theorem numberCheck_misfit (h : ¬NumberFits sh buf b) : numberCheck sh buf b = some .notValidHere := by
  simp only [NumberFits, not_or] at h
  obtain ⟨hdigit, hminus, hpoint⟩ := h
  unfold numberCheck
  split
  · rfl
  · next hchar =>
    have hsign : b = minus ∨ b = point := or_iff_not_imp_left.2 (by simpa [hdigit] using hchar)
    rcases hsign with rfl | rfl
    · rw [if_pos ⟨rfl, fun hf => hminus ⟨rfl, hf⟩⟩]
    · rw [if_neg fun hf => absurd hf.1 (by decide), if_pos ⟨rfl, fun hf => hpoint ⟨rfl, hf⟩⟩]

/-- The checks that a character of the right kind still meets (R77). -/
theorem numberCheck_fits (h : NumberFits sh buf b) : numberCheck sh buf b =
    if sh.length ≤ buf.length then some .fieldFull
    else if isDigit b = true ∧ point ∈ buf ∧ sh.decimals ≤ fractionDigits buf then some .fieldFull else none := by
  have hdigit : isDigit b = true → b ≠ minus ∧ b ≠ point := fun hd =>
    ⟨fun e => absurd (e ▸ hd) (by decide), fun e => absurd (e ▸ hd) (by decide)⟩
  unfold numberCheck
  rcases h with hd | ⟨rfl, hsigned, hnil⟩ | ⟨rfl, hdec, hnone⟩
  · rw [if_neg (by simp [hd]), if_neg fun hf => (hdigit hd).1 hf.1, if_neg fun hf => (hdigit hd).2 hf.1]
  · rw [if_neg (by simp), if_neg fun hf => hf.2 ⟨hsigned, hnil⟩, if_neg fun hf => absurd hf.1 (by decide)]
  · rw [if_neg (by simp), if_neg fun hf => absurd hf.1 (by decide), if_neg fun hf => hf.2 ⟨hdec, hnone⟩]

theorem numberCheck_room (h : NumberFits sh buf b) (hroom : NumberRoom sh buf b) : numberCheck sh buf b = none := by
  rw [numberCheck_fits h, if_neg (Nat.not_le.2 hroom.1), if_neg fun hf => (fraction_room_iff sh buf).2 (hroom.2 hf.1) hf.2]

theorem numberCheck_full (h : NumberFits sh buf b) (hroom : ¬NumberRoom sh buf b) :
    numberCheck sh buf b = some .fieldFull := by
  rw [numberCheck_fits h]
  split
  · rfl
  · next hlen =>
    rw [if_pos (Classical.not_not.1 fun hf => hroom ⟨Nat.not_le.1 hlen, fun hd =>
      (fraction_room_iff sh buf).1 fun hfull => hf ⟨hd, hfull⟩⟩)]

theorem numberKey_refused {x : OpError} (h : numberCheck sh (bufferFor s i sh) b = some x) :
    numberKey i sh c0 b s = raiseError x (setBuffer i (bufferFor s i sh) s) := by
  simp [numberKey, h]

/-- The column after a character joined a NUMBER buffer (R78). -/
theorem numberCol_append (sh : Shape) (c0 : Nat) (buf : Text) (b : Byte) :
    numberCol sh c0 (buf ++ [b]) = c0 + min (buf.length + 1) (sh.length - 1) := by
  simp [numberCol]

theorem numberKey_typed (h : numberCheck sh (bufferFor s i sh) b = none) :
    numberKey i sh c0 b s =
      let t := setCursorCol (numberCol sh c0 (bufferFor s i sh ++ [b])) (setBuffer i (bufferFor s i sh ++ [b]) s)
      if sh.opts.autoAdvance = true ∧ (bufferFor s i sh).length + 1 = sh.length then actTab t else t := by
  simp [numberKey, h]

end DataKeys

section KeyedEdits

variable {i : Inst} {sh : Shape} {c0 col : Nat} {buf : Text} {k : Key} {b : Byte} {q : List Byte} {s u : State}

/-- The data key ends with an edit pending. -/
def Keyed (q : List Byte) (i : Inst) (sh : Shape) (c0 col : Nat) (buf : Text) (s : State) : Prop :=
  ∃ u, exec .dataKey s = .next (settle u) ∧ Written q i sh c0 col buf s u

/-- The data key leaves an edit pending and then acts as TAB does. -/
def Tabbed (q : List Byte) (i : Inst) (sh : Shape) (c0 col : Nat) (buf : Text) (s : State) : Prop :=
  ∃ u, Written q i sh c0 col buf s u ∧ ∀ tab, keyOf tab = some .tab → exec .dataKey s = exec .tab (setQueue (tab :: q) u)

/-- The data key begins an edit and raises an error. -/
def Refused (q : List Byte) (x : OpError) (i : Inst) (sh : Shape) (c0 : Nat) (buf : Text) (s : State) : Prop :=
  ∃ u, exec .dataKey s = .next (settle (errs x q u)) ∧ Written q i sh c0 s.cur.col buf s u

theorem keyed_of_written (h : KeyStands .data b q s) (hf : s.key.keyboard = .free) (hu : dataKey b (setQueue q s) = u)
    (hw : Written q i sh c0 col buf s u) : Keyed q i sh c0 col buf s :=
  ⟨u, hu ▸ h.takes hf dataKey, hw⟩

theorem tabbed_of_written (h : KeyStands .data b q s) (hf : s.key.keyboard = .free)
    (hu : dataKey b (setQueue q s) = actTab u) (hw : Written q i sh c0 col buf s u) : Tabbed q i sh c0 col buf s :=
  ⟨u, hw, fun _ ht => (h.takes hf dataKey).trans (hu ▸ (hw.exec_tab h hf ht).symm)⟩

theorem refused_of_written (h : KeyStands .data b q s) (hf : s.key.keyboard = .free) {x : OpError}
    (hu : dataKey b (setQueue q s) = raiseError x u) (hw : Written q i sh c0 s.cur.col buf s u) :
    Refused q x i sh c0 buf s :=
  ⟨u, by rw [← hw.raiseError h.idle x, ← hu]; exact h.takes hf dataKey, hw⟩

/-- A key outside an entry instance (R73, R79, R80). -/
theorem errs_protected (hs : KeyStands k b q s) : raiseError .protectedCell (setQueue q s) = { s with
    tp := { s.tp with edge := { s.tp.edge with keyError := true } }
    key := { s.key with queue := q, keyboard := .error, lastError := some (.op .protectedCell), alarm := true }
    comp := { s.comp with items := [.status] } } := by
  rw [raiseError_setQueue hs.idle, errs, hs.items, plusStatus_nil]

/-- A data key in a TEXT or DIGITS instance (R74, R75, R76). -/
theorem dataKey_in_text (h : KeyStands .data b q s) (hf : s.key.keyboard = .free)
    (he : currentEntry s = some (i, sh, c0)) (hn : sh.kind ≠ .number) :
    let buf := bufferFor s i sh
    let p := s.cur.col - c0
    let ch := foldChar sh b
    (BadDigit sh ch → Refused q .notValidHere i sh c0 buf s) ∧
    (¬BadDigit sh ch → TextFull sh buf s → Refused q .fieldFull i sh c0 buf s) ∧
    (¬BadDigit sh ch → ¬TextFull sh buf s → p + 1 < sh.length → Keyed q i sh c0 (c0 + p + 1) (typed p ch buf s) s) ∧
    (¬BadDigit sh ch → ¬TextFull sh buf s → sh.length ≤ p + 1 → sh.opts.autoAdvance = false →
      Keyed q i sh c0 s.cur.col (typed p ch buf s) s) ∧
    (¬BadDigit sh ch → ¬TextFull sh buf s → sh.length ≤ p + 1 → sh.opts.autoAdvance = true →
      Tabbed q i sh c0 s.cur.col (typed p ch buf s) s) := by
  intro buf p ch
  have hdata : dataKey b (setQueue q s) = textKey i sh c0 b (setQueue q s) := dataKey_text he hn
  have hw : ∀ t, Written q i sh c0 s.cur.col t s (setBuffer i t (setQueue q s)) :=
    fun t => written_setBuffer (currentEntry_shape he)
  have htyped (hbad : ¬BadDigit sh ch) (hfull : ¬TextFull sh buf s) :
      dataKey b (setQueue q s) = advance sh c0 p (setBuffer i (typed p ch buf s) (setQueue q s)) :=
    hdata.trans (textKey_typed (s := setQueue q s) hbad hfull)
  refine ⟨fun hbad => ?_, fun hbad hfull => ?_, fun hbad hfull hp => ?_, fun hbad hfull hp ha => ?_,
    fun hbad hfull hp ha => ?_⟩
  · exact refused_of_written h hf (hdata.trans (textKey_bad hbad)) (hw _)
  · exact refused_of_written h hf (hdata.trans (textKey_full hbad hfull)) (hw _)
  · refine keyed_of_written h hf ?_ ((hw (typed p ch buf s)).setCursorCol (c0 + p + 1))
    rw [htyped hbad hfull, advance, if_pos hp]
  · refine keyed_of_written h hf ?_ (hw (typed p ch buf s))
    rw [htyped hbad hfull, advance, if_neg (Nat.not_lt.2 hp), if_neg (by simp [ha])]
  · refine tabbed_of_written h hf ?_ (hw (typed p ch buf s))
    rw [htyped hbad hfull, advance, if_neg (Nat.not_lt.2 hp), if_pos ha]

/-- A data key in a NUMBER instance (R77, R78). -/
theorem dataKey_in_number (h : KeyStands .data b q s) (hf : s.key.keyboard = .free)
    (he : currentEntry s = some (i, sh, c0)) (hn : sh.kind = .number) :
    let buf := bufferFor s i sh
    let col := c0 + min (buf.length + 1) (sh.length - 1)
    (¬NumberFits sh buf b → Refused q .notValidHere i sh c0 buf s) ∧
    (NumberFits sh buf b → ¬NumberRoom sh buf b → Refused q .fieldFull i sh c0 buf s) ∧
    (NumberFits sh buf b → NumberRoom sh buf b → sh.opts.autoAdvance = false ∨ buf.length + 1 < sh.length →
      Keyed q i sh c0 col (buf ++ [b]) s) ∧
    (NumberFits sh buf b → NumberRoom sh buf b → sh.opts.autoAdvance = true → buf.length + 1 = sh.length →
      Tabbed q i sh c0 col (buf ++ [b]) s) := by
  intro buf col
  have hdata : dataKey b (setQueue q s) = numberKey i sh c0 b (setQueue q s) := dataKey_number he hn
  have hw : ∀ t, Written q i sh c0 s.cur.col t s (setBuffer i t (setQueue q s)) :=
    fun t => written_setBuffer (currentEntry_shape he)
  have hcol : Written q i sh c0 col (buf ++ [b]) s
      (setCursorCol (numberCol sh c0 (buf ++ [b])) (setBuffer i (buf ++ [b]) (setQueue q s))) :=
    numberCol_append sh c0 buf b ▸ (hw _).setCursorCol _
  refine ⟨fun hfit => ?_, fun hfit hroom => ?_, fun hfit hroom hstay => ?_, fun hfit hroom ha hlast => ?_⟩
  · exact refused_of_written h hf (hdata.trans (numberKey_refused (numberCheck_misfit hfit))) (hw _)
  · exact refused_of_written h hf (hdata.trans (numberKey_refused (numberCheck_full hfit hroom))) (hw _)
  · refine keyed_of_written h hf ?_ hcol
    rw [hdata, numberKey_typed (s := setQueue q s) (numberCheck_room hfit hroom)]
    refine if_neg fun hadv => ?_
    rcases hstay with ha | hlen
    · simp [ha] at hadv
    · exact absurd hadv.2 (Nat.ne_of_lt hlen)
  · refine tabbed_of_written h hf ?_ hcol
    rw [hdata, numberKey_typed (s := setQueue q s) (numberCheck_room hfit hroom)]
    exact if_pos ⟨ha, hlast⟩

end KeyedEdits

end Sys2Proof.Machine

namespace Sys2Proof.Proofs

open Machine

/-- Settles O34: the data keys, by the kind of the entry instance under the cursor. -/
theorem dataKeyWritesBuffer : Obligations.DataKeyWritesBuffer := by
  refine ⟨foldChar_eq, fun i sh s => ⟨fun _ h => bufferFor_edit h sh, bufferFor_number, fun h hn _ => bufferFor_text h hn⟩,
    fun b q s hs hf => ⟨fun hnone => ?_, fun i sh c0 he hn => dataKey_in_text hs hf he hn,
      fun i sh c0 he hn => dataKey_in_number hs hf he hn⟩⟩
  rw [← errs_protected hs, ← dataKey_protected (b := b) (s := setQueue q s) hnone]
  exact hs.takes hf dataKey

end Sys2Proof.Proofs

/-! ## Editing keys (R79 to R81) -/
namespace Sys2Proof.Machine

section EditingKeys

variable {i : Instr} {x : Inst} {sh : Shape} {c0 col : Nat} {buf : Text} {k : Key} {b : Byte} {q : List Byte} {s u : State}

/-- BACKSPACE, DELETE and CLEAR TO END. -/
def IsErasing (k : Key) : Prop := k = .backspace ∨ k = .delete ∨ k = .clearToEnd

theorem IsErasing.ne_reset (h : IsErasing k) : k ≠ .reset := by
  rcases h with rfl | rfl | rfl <;> nofun

/-- An erasing key in an entry instance. -/
theorem keyAct_entry (he : currentEntry s = some (x, sh, c0)) :
    (sh.kind = .number → keyAct .backspace b s = numberBackspace x sh c0 s ∧
      keyAct .delete b s = numberBackspace x sh c0 s ∧
      keyAct .clearToEnd b s = setCursorCol c0 (setBuffer x [] s)) ∧
    (sh.kind ≠ .number →
      keyAct .delete b s = setBuffer x (removeAt (s.cur.col - c0) (bufferFor s x sh)) s ∧
      keyAct .clearToEnd b s =
        setBuffer x (padRight sh.length blank ((bufferFor s x sh).take (s.cur.col - c0))) s) := by
  refine ⟨fun hn => ⟨?_, ?_, ?_⟩, fun hn => ⟨?_, ?_⟩⟩
  · simp [keyAct, backspaceKey, he, hn]
  · simp [keyAct, deleteKey, he, hn]
  · simp [keyAct, clearToEndKey, he, hn]
  · simp [keyAct, deleteKey, he, hn]
  · simp [keyAct, clearToEndKey, he, hn]

/-- An erasing key outside an entry instance (R79, R80). -/
theorem keyAct_protected (hk : IsErasing k) (he : currentEntry s = none) : keyAct k b s = raiseError .protectedCell s := by
  rcases hk with rfl | rfl | rfl
  · simp [keyAct, backspaceKey, he]
  · simp [keyAct, deleteKey, he]
  · simp [keyAct, clearToEndKey, he]

/-- BACKSPACE in a TEXT or DIGITS instance at its first position (R79). -/
theorem backspaceKey_first (he : currentEntry s = some (x, sh, c0)) (hn : sh.kind ≠ .number) (hp : s.cur.col - c0 = 0) :
    backspaceKey s = pulseAlarm s := by
  simp [backspaceKey, he, hn, hp]

/-- BACKSPACE in a TEXT or DIGITS instance with a position to the left (R79). -/
theorem backspaceKey_text (he : currentEntry s = some (x, sh, c0)) (hn : sh.kind ≠ .number) (hp : 0 < s.cur.col - c0) :
    backspaceKey s = setCursorCol (c0 + (s.cur.col - c0) - 1) (setBuffer x
      (if s.key.insertMode then removeAt (s.cur.col - c0 - 1) (bufferFor s x sh)
        else (bufferFor s x sh).set (s.cur.col - c0 - 1) blank) s) := by
  simp [backspaceKey, he, hn, Nat.pos_iff_ne_zero.1 hp]

theorem numberBackspace_empty (hbuf : bufferFor s x sh = []) (he : s.key.edit ≠ none) :
    numberBackspace x sh c0 s = pulseAlarm s := by
  simp [numberBackspace, hbuf, Option.isSome_iff_ne_none, he]

theorem numberBackspace_last (h : bufferFor s x sh ≠ [] ∨ s.key.edit = none) : numberBackspace x sh c0 s =
    setCursorCol (c0 + min ((bufferFor s x sh).length - 1) (sh.length - 1))
      (setBuffer x (bufferFor s x sh).dropLast s) := by
  unfold numberBackspace
  dsimp only
  rw [if_neg, numberCol, List.length_dropLast]
  rintro ⟨hedit, hbuf⟩
  rcases h with h | h
  · exact h hbuf
  · simp [h] at hedit

/-- The key ends with an edit pending on the instance, its buffer shown, the cursor in a column of its row. -/
def Edited (i : Instr) (q : List Byte) (x : Inst) (sh : Shape) (c0 : Nat) (buf : Text) (col : Nat) (s : State) : Prop :=
  ∃ u, exec i s = .next (settle u) ∧ Written q x sh c0 col buf s u

/-- The key sounds ALARM and does nothing else. -/
def Alarmed (i : Instr) (q : List Byte) (s : State) : Prop :=
  exec i s = .next (settle { s with key := { s.key with queue := q, alarm := true } })

theorem exec_keyAct (hi : keyRowOf i = some k) (hk : k ≠ .reset) (h : KeyStands k b q s) (hf : s.key.keyboard = .free) :
    exec i s = .next (settle (keyAct k b (setQueue q s))) := by
  rw [exec_keyRow hi hk]
  exact h.takes hf (keyAct k)

theorem alarmed_of_keyAct (hi : keyRowOf i = some k) (hk : IsErasing k) (h : KeyStands k b q s)
    (hf : s.key.keyboard = .free) (ha : keyAct k b (setQueue q s) = pulseAlarm (setQueue q s)) : Alarmed i q s := by
  rw [Alarmed, exec_keyAct hi hk.ne_reset h hf, ha]
  rfl

theorem edited_of_keyAct (hi : keyRowOf i = some k) (hk : IsErasing k) (h : KeyStands k b q s)
    (hf : s.key.keyboard = .free) (hu : keyAct k b (setQueue q s) = u) (hw : Written q x sh c0 col buf s u) :
    Edited i q x sh c0 buf col s :=
  ⟨u, by rw [exec_keyAct hi hk.ne_reset h hf, hu], hw⟩

/-- INSERT turns the insert mode over (R81). -/
theorem insertKey_eq (h : KeyStands .insert b q s) : insertKey (setQueue q s) = { s with
    key := { s.key with queue := q, insertMode := !s.key.insertMode }, comp := { s.comp with items := [.status] } } := by
  unfold insertKey
  rw [request_eq_of_idle (by exact h.idle)]
  simp [requestIn, setQueue, h.items]

/-- The erasing keys in a TEXT or DIGITS instance (R79, R80). -/
theorem erasing_in_text (hi : keyRowOf i = some k) (h : KeyStands k b q s) (hf : s.key.keyboard = .free)
    (he : currentEntry s = some (x, sh, c0)) (hn : sh.kind ≠ .number) :
    let buf := bufferFor s x sh
    let p := s.cur.col - c0
    (k = .delete → Edited i q x sh c0 (buf.take p ++ buf.drop (p + 1) ++ [blank]) s.cur.col s) ∧
    (k = .clearToEnd → Edited i q x sh c0 ((buf.take p ++ List.replicate sh.length blank).take sh.length) s.cur.col s) ∧
    (k = .backspace → 0 < p → s.key.insertMode = false → Edited i q x sh c0 (buf.set (p - 1) blank) (c0 + p - 1) s) ∧
    (k = .backspace → 0 < p → s.key.insertMode = true →
      Edited i q x sh c0 (buf.take (p - 1) ++ buf.drop p ++ [blank]) (c0 + p - 1) s) ∧
    (k = .backspace → p = 0 → Alarmed i q s) := by
  intro buf p
  have hw : ∀ t, Written q x sh c0 s.cur.col t s (setBuffer x t (setQueue q s)) :=
    fun t => written_setBuffer (currentEntry_shape he)
  obtain ⟨-, htext⟩ := keyAct_entry (b := b) (s := setQueue q s) he
  obtain ⟨hdelete, hclear⟩ := htext hn
  refine ⟨?_, ?_, ?_, ?_, ?_⟩
  · rintro rfl
    exact edited_of_keyAct hi (.inr (.inl rfl)) h hf hdelete (hw _)
  · rintro rfl
    exact edited_of_keyAct hi (.inr (.inr rfl)) h hf hclear (hw _)
  · rintro rfl hp hins
    refine edited_of_keyAct hi (.inl rfl) h hf ?_ ((hw _).setCursorCol _)
    exact (backspaceKey_text (s := setQueue q s) he hn hp).trans (by rw [if_neg (by simpa [setQueue] using hins)]; rfl)
  · rintro rfl hp hins
    refine edited_of_keyAct hi (.inl rfl) h hf ?_ ((hw _).setCursorCol _)
    have hremoved : removeAt (p - 1) buf = buf.take (p - 1) ++ buf.drop p ++ [blank] := by
      rw [removeAt, Nat.sub_add_cancel hp]
    rw [← hremoved]
    exact (backspaceKey_text (s := setQueue q s) he hn hp).trans (by rw [if_pos (by simpa [setQueue] using hins)]; rfl)
  · rintro rfl hp
    exact alarmed_of_keyAct hi (.inl rfl) h hf (backspaceKey_first (s := setQueue q s) he hn hp)

/-- The erasing keys in a NUMBER instance (R79, R80). -/
theorem erasing_in_number (hi : keyRowOf i = some k) (h : KeyStands k b q s) (hf : s.key.keyboard = .free)
    (he : currentEntry s = some (x, sh, c0)) (hn : sh.kind = .number) :
    let buf := bufferFor s x sh
    (k = .clearToEnd → Edited i q x sh c0 [] c0 s) ∧
    (k = .delete ∨ k = .backspace → buf ≠ [] →
      Edited i q x sh c0 buf.dropLast (c0 + min (buf.length - 1) (sh.length - 1)) s) ∧
    (k = .delete ∨ k = .backspace → buf = [] → s.key.edit ≠ none → Alarmed i q s) ∧
    (k = .delete ∨ k = .backspace → buf = [] → s.key.edit = none → Edited i q x sh c0 [] c0 s) := by
  intro buf
  have hw : ∀ t c, Written q x sh c0 c t s (setCursorCol c (setBuffer x t (setQueue q s))) :=
    fun t c => (written_setBuffer (currentEntry_shape he)).setCursorCol c
  obtain ⟨hnumber, -⟩ := keyAct_entry (b := b) (s := setQueue q s) he
  obtain ⟨hbackspace, hdelete, hclear⟩ := hnumber hn
  have hlast (hk : k = .delete ∨ k = .backspace) :
      IsErasing k ∧ keyAct k b (setQueue q s) = numberBackspace x sh c0 (setQueue q s) := by
    rcases hk with rfl | rfl
    · exact ⟨.inr (.inl rfl), hdelete⟩
    · exact ⟨.inl rfl, hbackspace⟩
  refine ⟨?_, fun hk hbuf => ?_, fun hk hbuf hedit => ?_, fun hk hbuf hedit => ?_⟩
  · rintro rfl
    exact edited_of_keyAct hi (.inr (.inr rfl)) h hf hclear (hw _ _)
  · obtain ⟨herase, hact⟩ := hlast hk
    exact edited_of_keyAct hi herase h hf (hact.trans (numberBackspace_last (s := setQueue q s) (.inl hbuf))) (hw _ _)
  · obtain ⟨herase, hact⟩ := hlast hk
    exact alarmed_of_keyAct hi herase h hf (hact.trans (numberBackspace_empty (s := setQueue q s) hbuf hedit))
  · obtain ⟨herase, hact⟩ := hlast hk
    have hempty : numberBackspace x sh c0 (setQueue q s) = setCursorCol c0 (setBuffer x [] (setQueue q s)) := by
      rw [numberBackspace_last (s := setQueue q s) (.inr hedit), show bufferFor (setQueue q s) x sh = [] from hbuf]
      simp
    exact edited_of_keyAct hi herase h hf (hact.trans hempty) (hw _ _)

end EditingKeys

end Sys2Proof.Machine

namespace Sys2Proof.Proofs

open Machine

/-- Settles O35: INSERT, and the erasing keys by the kind of the entry instance under the cursor. -/
theorem editingKeysChangeBuffer : Obligations.EditingKeysChangeBuffer := by
  intro i k b q s hi hs hf
  refine ⟨?_, fun hk hnone => ?_, fun x sh c0 he hn => erasing_in_text hi hs hf he hn,
    fun x sh c0 he hn => erasing_in_number hi hs hf he hn⟩
  · rintro rfl
    rw [exec_keyAct hi nofun hs hf, ← insertKey_eq hs]
    rfl
  · rw [exec_keyAct hi (IsErasing.ne_reset hk) hs hf, keyAct_protected (s := setQueue q s) hk hnone, errs_protected hs]

end Sys2Proof.Proofs

/-! ## CLEAR ALL and REPEAT ABOVE (R82, R83) -/
namespace Sys2Proof.Machine

section MarkedClear

variable {s : State} {q : List Byte} {i : Inst} {n : Nat}

/-! ### CLEAR ALL sets the flags of what it clears (R82) -/

theorem handedOn_of_setQueue {u : State} (h : HandedOn (setQueue q s) u) : HandedOn s u :=
  ⟨h.tags, h.tallies, h.sums, h.products⟩

theorem flag_clearVals_marked {shapes : Nat → Option Shape} {sh : Shape} (hs : shapes n = some sh) (vs : List InstVal) :
    (valFind (clearVals true shapes vs) n).map (·.modified) =
      (valFind vs n).map (fun v => v.modified || (isEntryKind sh.kind && !valueAbsent v.value)) := by
  rw [valFind_clearVals, hs, Option.map_map]
  rfl

/-- The flag of an entry field is set where it had content. -/
theorem flag_clearEntries_marked {fd : FieldDef} (hf : findField s.form n = some fd) :
    (valFind (clearEntries true s).form.vals n).map (·.modified) =
      (valFind s.form.vals n).map (fun v => v.modified || (isEntryKind fd.shape.kind && !valueAbsent v.value)) := by
  rw [clearEntries_form, clearedState, flag_valFind_recompute]
  have hshape : instShape s.form (.field n) = some fd.shape := by simp [instShape, hf]
  exact flag_clearVals_marked (shapes := fun k => instShape s.form (.field k)) hshape _

/-- A line that is cleared keeps its flags, and gets those of its contents (R82). -/
structure LineMarked (f : FormStore) (ln ln' : LineRec) : Prop where
  modified : ln'.modified = (ln.modified || lineEntered f ln)
  cells : ∀ c cd, findCol f c = some cd → (valFind ln'.cells c).map (·.modified) =
    (valFind ln.cells c).map (fun v => v.modified || (isEntryKind cd.shape.kind && !valueAbsent v.value))

theorem lineMarked_clearLine (f : FormStore) (ln : LineRec) : LineMarked f ln (clearLine true f ln) := by
  refine ⟨rfl, fun c cd hc => ?_⟩
  have hshape : instShape f (.cell 0 c) = some cd.shape := by simp [instShape, hc]
  exact flag_clearVals_marked (shapes := fun k => instShape f (.cell 0 k)) hshape _

theorem LineMarked.lineProducts {f : FormStore} {ln ln' : LineRec} (h : LineMarked f ln ln') (g : FormStore) :
    LineMarked f ln (lineProducts g ln') :=
  ⟨h.modified, fun c cd hc => (flag_valFind_lineProducts g ln' c).trans (h.cells c cd hc)⟩

theorem lineMarked_clearEntries {l : Nat} {ln ln' : LineRec} (hln : s.form.lines[l]? = some ln)
    (hln' : (clearEntries true s).form.lines[l]? = some ln') : LineMarked s.form ln ln' := by
  rw [clearEntries_form, clearedState, getElem?_recompute_lines] at hln'
  simp only [clearedForm, List.getElem?_map, hln, Option.map_some, Option.some.injEq] at hln'
  subst hln'
  split
  · exact (lineMarked_clearLine s.form ln).lineProducts _
  · exact lineMarked_clearLine s.form ln

/-- An entry value is empty after the clearing, a DISPLAY value stands. -/
theorem value_clearEntries {m : Bool} {sh : Shape} {v : Value} (hi : instShape s.form i = some sh)
    (hv : instValue (clearEntries m s).form i = some v) :
    (isEntryKind sh.kind = true → valueAbsent v = true) ∧ (sh.kind = .display → instValue s.form i = some v) := by
  refine ⟨fun hk => ?_, fun hk => ?_⟩
  · rw [instValue_clearEntries hi (by simp [storesOwn, hk])] at hv
    obtain ⟨w, -, rfl⟩ := Option.map_eq_some_iff.1 hv
    rw [if_pos hk]
    exact valueAbsent_initialValue sh
  · rw [instValue_clearEntries hi (by simp [storesOwn, hk])] at hv
    obtain ⟨w, hw, rfl⟩ := Option.map_eq_some_iff.1 hv
    rw [hw, if_neg (by simp [hk, isEntryKind])]

theorem homeCell_clearEntries (m : Bool) (s : State) : homeCell (clearEntries m s).form = homeCell s.form := by
  rw [(clearEntries_frame m s).form_eq]
  rfl

theorem clearAllKey_eq (s : State) : clearAllKey s =
    placeCursor (homeCell s.form).1 (homeCell s.form).2 s.cur.top (clearEntries true s) := by
  rw [← homeCell_clearEntries true s, ← clearEntries_cur true s]
  rfl

end MarkedClear

section RepeatAbove

variable {s : State} {q : List Byte} {i j : Inst} {v : Value} {sh : Shape} {l c : Nat}

/-! ### A value stored with its flags set, whatever it replaces (R83) -/

/-- The state after an instance was written with its flags set, and the recomputation. -/
def rewritten (i : Inst) (v : Value) (s : State) : State :=
  recompute (instLines i).1 (instLines i).2 (writeForm true i v s)

theorem rewritten_form_eq (i : Inst) (v : Value) (s : State) : (rewritten i v s).form =
    { s.form with vals := (rewritten i v s).form.vals, lines := (rewritten i v s).form.lines } :=
  ((writeForm_frame true i v s).trans (recompute_frame ..)).form_eq

theorem instValue_rewritten_same (hi : instShape s.form i = some sh) (hk : storesOwn sh.kind = true)
    (h : instValue s.form i ≠ none) : instValue (rewritten i v s).form i = some v := by
  have hshape : instShape (writeForm true i v s).form i = some sh := by rw [writeForm_form, instShape_storedForm, hi]
  rw [rewritten, instValue_recompute_of_storesOwn _ _ hshape hk, writeForm_form, instValue_storedForm_same _ _ h]

theorem instValue_rewritten_ne (hj : instShape s.form j = some sh) (hk : storesOwn sh.kind = true) (hne : j ≠ i) :
    instValue (rewritten i v s).form j = instValue s.form j := by
  have hshape : instShape (writeForm true i v s).form j = some sh := by rw [writeForm_form, instShape_storedForm, hj]
  rw [rewritten, instValue_recompute_of_storesOwn _ _ hshape hk, writeForm_form, instValue_storedForm_ne _ _ _ hne]

/-- The line of a rewritten cell: the cell stored, the flags set, the products computed. -/
theorem getElem?_rewritten_line (l c : Nat) (v : Value) (s : State) : (rewritten (.cell l c) v s).form.lines[l]? =
    (s.form.lines[l]?).map (fun ln => lineProducts (writeForm true (.cell l c) v s).form (storedLine true c v ln)) := by
  simp [rewritten, getElem?_recompute_lines, writeForm_form, getElem?_storedForm_lines, instLines, Function.comp_def]

/-- Every other line stands. -/
theorem getElem?_rewritten_line_ne {k : Nat} (hk : k ≠ l) (c : Nat) (v : Value) (s : State) :
    (rewritten (.cell l c) v s).form.lines[k]? = s.form.lines[k]? := by
  have hout : ¬((instLines (.cell l c)).1 ≤ k ∧ k < (instLines (.cell l c)).1 + (instLines (.cell l c)).2) := by
    simp only [instLines]
    omega
  have hstored : (writeForm true (.cell l c) v s).form.lines[k]? = s.form.lines[k]? := by
    rw [writeForm_form, getElem?_storedForm_lines_ne fun n e => hk (Inst.cell.inj e).1.symm]
  rw [rewritten, getElem?_recompute_lines, hstored]
  simp only [if_neg hout]
  exact Option.map_id' ..

theorem flags_rewritten {ln ln' : LineRec} (hln : s.form.lines[l]? = some ln)
    (hln' : (rewritten (.cell l c) v s).form.lines[l]? = some ln') : ln'.modified = true ∧
      ∀ n, (valFind ln'.cells n).map (·.modified) =
        (valFind ln.cells n).map (fun x => x.modified || decide (n = c)) := by
  rw [getElem?_rewritten_line, hln, Option.map_some, Option.some.injEq] at hln'
  subst hln'
  exact ⟨by simp [lineProducts, storedLine], fun n => by simp [flag_valFind_lineProducts, flag_storedLine]⟩

/-- What REPEAT ABOVE does before its TAB: the value stored over a pending edit, what follows handed on, the cursor's row
requested. -/
def repeated (i : Inst) (v : Value) (s : State) : State :=
  request (.bodyRow s.cur.row) (handOn s (rewritten i v (dropEdit s)))

theorem repeated_form (i : Inst) (v : Value) (s : State) : (repeated i v s).form = (rewritten i v (dropEdit s)).form := by
  simp [repeated]

theorem repeated_key (i : Inst) (v : Value) (s : State) : (repeated i v s).key = { s.key with edit := none } := by
  simp [repeated, rewritten, dropEdit]

theorem repeated_frame (i : Inst) (v : Value) (s : State) : KeyFrame s (repeated i v s) :=
  (dropEdit_frame s).trans ((writeForm_frame ..).trans ((recompute_frame ..).trans
    ((handOn_frame s _).trans (request_frame ..))))

theorem repeated_tp_eq (i : Inst) (v : Value) (s : State) : (repeated i v s).tp =
    { s.tp with edge := { s.tp.edge with deskChange := (repeated i v s).tp.edge.deskChange } } := by
  rw [repeated, request_tp, handOn_tp_eq]
  rfl

theorem deskChangeRight_repeated (i : Inst) (v : Value) (s : State) : deskChangeRight s (repeated i v s) := by
  have hiff := handOn_deskChange_iff s (rewritten i v (dropEdit s))
  rw [rewritten_form_eq] at hiff
  rw [deskChangeRight, repeated_form, repeated, request_tp, rewritten_form_eq]
  exact hiff

theorem sumsFollow_repeated (i : Inst) (v : Value) (s : State) : sumsFollow (repeated i v s) :=
  sumsFollow_congr (t := rewritten i v (dropEdit s)) (repeated_form i v s) (by simp [repeated]) (by simp [repeated])
    (sumsFollow_recompute ..)

theorem productsFollow_repeated (l c : Nat) (v : Value) (s : State) :
    productsFollow (repeated (.cell l c) v s).form l := by
  rw [repeated_form]
  exact productsFollow_recompute _ _ _ ⟨Nat.le_refl l, Nat.lt_succ_self l⟩

theorem handedOn_repeated (i : Inst) (v : Value) (s : State) : HandedOn s (repeated i v s) := by
  have hreckon : HandedOn s (reckon s (instLines i).1 (instLines i).2 (writeForm true i v (dropEdit s))) := by
    refine handedOn_reckon _ _ ?_ (lineKeys_writeForm true i v (dropEdit s)) rfl rfl
    rw [writeForm_form, dropEdit_form, ← storedForm_eq]
  exact hreckon.of_keyFrame (request_frame ..) (request_form ..) (request_desk ..)

theorem repeatAboveKey_eq {c0 : Nat} (he : currentEntry s = some (.cell (l + 1) c, sh, c0))
    (hv : instValue s.form (.cell l c) = some v) (hne : v ≠ .overflow) :
    repeatAboveKey s = actTab (repeated (.cell (l + 1) c) v s) := by
  cases v with
  | overflow => exact absurd rfl hne
  | _ => simp [repeatAboveKey, he, hv, repeated, rewritten, reckonIf, reckon]

/-! ### TAB without a pending edit -/

/-- A TAB that leaves no edit sounds ALARM or places the cursor, so it keeps every block but these (R52). -/
structure TabFrame (s t : State) : Prop where
  tp : t.tp = s.tp
  form : t.form = s.form
  key : t.key = { s.key with alarm := t.key.alarm }
  send : t.send = s.send
  desk : t.desk = s.desk
  frame : KeyFrame s t

theorem tabFrame_actTab (h : s.key.edit = none) : TabFrame s (actTab s) := by
  have hframe := actTab_frame s
  have hstays : ∀ {r c n}, afterCompletion (placeCursor r c n) s = placeCursor r c n s :=
    fun {r c n} => afterCompletion_none h _
  rcases doMove_cases (tabMove s) s with ⟨-, e⟩ | ⟨r, c, n, -, e | e⟩
  · rw [actTab, e] at hframe ⊢
    exact ⟨rfl, rfl, rfl, rfl, rfl, hframe⟩
  · rw [actTab, e, hstays] at hframe ⊢
    exact ⟨by simp, by simp, by simp, by simp, by simp, hframe⟩
  · rw [actTab, e] at hframe ⊢
    exact ⟨by simp, by simp, by simp, by simp, by simp, hframe⟩

end RepeatAbove

end Sys2Proof.Machine

namespace Sys2Proof.Proofs

open Machine

theorem tabFrame_repeated (i : Inst) (v : Value) (s : State) : TabFrame (repeated i v s) (actTab (repeated i v s)) :=
  tabFrame_actTab (by rw [repeated_key])

/-- Settles O36: CLEAR ALL is the marked clearing with the cursor then put Home; REPEAT ABOVE stores over its edit, and the
TAB in which it ends changes nothing of what follows from that. -/
theorem clearAllAndRepeatAbove : Obligations.ClearAllAndRepeatAbove := by
  intro k b q s hs hf
  refine ⟨?_, ?_⟩
  · rintro rfl
    have hhome := (clearEntries_frame true (setQueue q s)).trans
      (placeCursor_frame (homeCell s.form).1 (homeCell s.form).2 s.cur.top _)
    refine ⟨clearAllKey (setQueue q s), exec_keyAct (k := .clearAll) rfl nofun hs hf, ?_⟩
    rw [clearAllKey_eq]
    refine ⟨?_, hhome.send_eq, placeCursor_cur .., ?_, ?_, hhome.line_eq, hhome.desk_eq, hhome.form_eq, ?_⟩
    · rw [placeCursor_key, clearEntries_key, abandonEdit_key]
      rfl
    · rw [placeCursor_tp]
      exact clearEntries_tp_eq true (setQueue q s)
    · exact deskChangeRight_congr (s := setQueue q s) (placeCursor_tp ..) (placeCursor_form ..)
        (deskChangeRight_clearEntries true (setQueue q s))
    rw [placeCursor_form]
    refine ⟨fun i sh v hi hv => value_clearEntries (s := setQueue q s) hi hv,
      fun fd v w hfd hv hw => flag_of_map_eq (flag_clearEntries_marked (s := setQueue q s) hfd) hv hw,
      fun l ln ln' hln hln' => ?_, fun l hl => productsFollow_clearEntries (s := setQueue q s) hl, ?_, ?_⟩
    · have hmarked := lineMarked_clearEntries (s := setQueue q s) hln hln'
      exact ⟨hmarked.modified, fun c cd v w hc hv hw => flag_of_map_eq (hmarked.cells c cd hc) hv hw⟩
    · exact sumsFollow_congr (placeCursor_form ..) (by rw [placeCursor_desk]) (by rw [placeCursor_desk])
        (sumsFollow_clearEntries true (setQueue q s))
    · exact handedOn_of_setQueue ((handedOn_clearEntries true (setQueue q s)).of_keyFrame (placeCursor_frame ..)
        (placeCursor_form ..) (placeCursor_desk ..))
  · rintro rfl l c sh c0 v he hv hne hold
    have hshape := currentEntry_shape he
    have hown : storesOwn sh.kind = true := by simp [storesOwn, currentEntry_kind he]
    have htab := tabFrame_repeated (.cell (l + 1) c) v (setQueue q s)
    have hframe := (repeated_frame (.cell (l + 1) c) v (setQueue q s)).trans htab.frame
    refine ⟨repeatAboveKey (setQueue q s), exec_keyAct (k := .repeatAbove) rfl nofun hs hf, ?_⟩
    rw [repeatAboveKey_eq (s := setQueue q s) he hv hne]
    refine ⟨?_, ?_, hframe.send_eq, ?_, ?_, hframe.desk_eq, hframe.form_eq, ?_⟩
    · rw [htab.form, repeated_form]
      exact instValue_rewritten_same (s := dropEdit (setQueue q s)) hshape hown hold
    · rw [htab.key, repeated_key]
      rfl
    · rw [htab.tp]
      exact repeated_tp_eq _ v (setQueue q s)
    · exact deskChangeRight_congr (s := setQueue q s) htab.tp htab.form (deskChangeRight_repeated _ v (setQueue q s))
    rw [htab.form, repeated_form]
    refine ⟨fun i sh' hi hsh hk => instValue_rewritten_ne (s := dropEdit (setQueue q s)) hsh hk hi,
      fun j hj => getElem?_rewritten_line_ne hj c v (dropEdit (setQueue q s)), fun ln ln' hln hln' => ?_, ?_, ?_, ?_⟩
    · obtain ⟨hmodified, hcells⟩ := flags_rewritten (s := dropEdit (setQueue q s)) hln hln'
      exact ⟨hmodified, fun n w w' hw hw' => flag_of_map_eq (hcells n) hw hw'⟩
    · exact repeated_form (.cell (l + 1) c) v (setQueue q s) ▸ productsFollow_repeated (l + 1) c v (setQueue q s)
    · exact sumsFollow_congr htab.form (by rw [htab.desk]) (by rw [htab.desk])
        (sumsFollow_repeated (.cell (l + 1) c) v (setQueue q s))
    · exact handedOn_of_setQueue ((handedOn_repeated _ v (setQueue q s)).of_keyFrame htab.frame htab.form htab.desk)

end Sys2Proof.Proofs

/-! ## Rounding (R93) -/
namespace Sys2Proof.Proofs

open Machine

section Rounding

/-- The magnitude that a rounding by 10^k leaves: the nearest number of units, the greater one at a tie (R93). -/
def roundMag (n k : Nat) : Nat := (2 * n + 10 ^ k) / (2 * 10 ^ k)

/-- The quotient, one more where the remainder is half the divisor or above, is a single division. -/
theorem div_half_up (n : Nat) {p : Nat} (hp : 0 < p) :
    (if p ≤ 2 * (n % p) then n / p + 1 else n / p) = (2 * n + p) / (2 * p) := by
  have hlt := Nat.mod_lt n hp
  have hdiv := Nat.div_add_mod n p
  have hmul (m : Nat) : m * (2 * p) = 2 * (p * m) := by rw [Nat.mul_left_comm, Nat.mul_comm m]
  split
  · refine (Nat.div_eq_of_lt_le ?_ ?_).symm <;> simp only [hmul, Nat.mul_add] <;> omega
  · refine (Nat.div_eq_of_lt_le ?_ ?_).symm <;> simp only [hmul, Nat.mul_add] <;> omega

/-- A rounding by 10^k keeps the sign and rounds the magnitude. -/
theorem roundDiv_eq (v : Int) (k : Nat) :
    roundDiv v k = if v < 0 then -(roundMag v.natAbs k : Int) else (roundMag v.natAbs k : Int) := by
  simp only [roundDiv, div_half_up v.natAbs (Nat.pow_pos (by decide : 0 < 10)), roundMag]

/-- The rounded magnitude is within half a unit, and a tie is above it. -/
theorem roundMag_bounds (n k : Nat) :
    2 * (roundMag n k * 10 ^ k) ≤ 2 * n + 10 ^ k ∧ 2 * n < 2 * (roundMag n k * 10 ^ k) + 10 ^ k := by
  have hp : 0 < 2 * 10 ^ k := Nat.mul_pos (by decide) (Nat.pow_pos (by decide))
  have hle := Nat.div_mul_le_self (2 * n + 10 ^ k) (2 * 10 ^ k)
  have hlt := Nat.lt_div_mul_add (a := 2 * n + 10 ^ k) hp
  rw [← roundMag, Nat.mul_left_comm] at hle hlt
  exact ⟨hle, by omega⟩

theorem roundDiv_neg (v : Int) (k : Nat) : roundDiv (-v) k = -roundDiv v k := by
  rcases lt_trichotomy v 0 with h | rfl | h
  · simp [roundDiv_eq, h, not_lt.2 h.le]
  · simp [roundDiv]
  · simp [roundDiv_eq, h, not_lt.2 h.le]

theorem natAbs_roundDiv (v : Int) (k : Nat) : (roundDiv v k).natAbs = roundMag v.natAbs k := by
  rw [roundDiv_eq]
  split <;> simp

/-- What a rounding takes away has the magnitude of the difference of the magnitudes: value and result have one sign. -/
theorem natAbs_sub_roundDiv (v : Int) (k : Nat) :
    (v - roundDiv v k * ((10 ^ k : Nat) : Int)).natAbs =
      ((v.natAbs : Int) - ((roundMag v.natAbs k * 10 ^ k : Nat) : Int)).natAbs := by
  rw [roundDiv_eq, Nat.cast_mul]
  split
  · rw [neg_mul]
    omega
  · omega

end Rounding

/-- Settles O50: the quotient with the remainder's test is the quotient of `2 * v + 10^k`, and both bounds of that
division are the claims about the distance and the tie. -/
theorem roundingIsHalfAwayFromZero : Obligations.RoundingIsHalfAwayFromZero := by
  unfold Obligations.RoundingIsHalfAwayFromZero
  intro v k _
  dsimp only
  obtain ⟨hle, hlt⟩ := roundMag_bounds v.natAbs k
  refine ⟨fun h => ?_, roundDiv_neg v k, ?_, ?_⟩
  · rw [roundDiv_eq, if_neg (not_lt.2 h), roundMag]
  · rw [natAbs_sub_roundDiv]
    omega
  · rw [natAbs_sub_roundDiv, natAbs_roundDiv]
    omega

end Sys2Proof.Proofs

/-! ## Numerals out and in again (R95, R97) -/
namespace Sys2Proof.Proofs

open Machine

section Canonical

variable {sh : Shape} {v : Int} {n d fuel : Nat}

/-! ### Digits -/

theorem toNat_digitChar (h : n < 10) : (digitChar n).toNat = 0x30 + n := by
  rw [digitChar, BitVec.toNat_ofNat]
  omega

theorem isDigit_digitChar (h : n < 10) : isDigit (digitChar n) = true := by
  simp only [isDigit, toNat_digitChar h, Bool.and_eq_true, decide_eq_true_eq]
  omega

theorem digitsNat_concat (t : Text) (h : n < 10) : digitsNat (t ++ [digitChar n]) = 10 * digitsNat t + n := by
  rw [digitsNat, List.foldl_append, List.foldl_cons, List.foldl_nil, toNat_digitChar h]
  omega

/-- The digits made so far stand behind those still to come. -/
theorem decDigits_append (fuel n : Nat) (acc : Text) : decDigits fuel n acc = decDigits fuel n [] ++ acc := by
  induction fuel generalizing n acc with
  | zero => rfl
  | succ fuel ih =>
    unfold decDigits
    split
    · rfl
    · rw [ih, ih _ [_], List.append_assoc]
      rfl

/-- One step of `decDigits`, the last digit last. -/
theorem decDigits_succ (fuel n : Nat) :
    decDigits (fuel + 1) n [] = (if n < 10 then [] else decDigits fuel (n / 10) []) ++ [digitChar (n % 10)] := by
  rw [decDigits]
  split
  · next h => rw [Nat.mod_eq_of_lt h, List.nil_append]
  · exact decDigits_append ..

theorem isDigit_of_mem_decDigits (fuel n : Nat) : ∀ b ∈ decDigits fuel n [], isDigit b = true := by
  induction fuel generalizing n with
  | zero => exact nofun
  | succ fuel ih =>
    rw [decDigits_succ]
    intro b hb
    rcases List.mem_append.1 hb with hb | hb
    · split at hb
      · cases hb
      · exact ih _ b hb
    · rw [List.mem_singleton.1 hb]
      exact isDigit_digitChar (Nat.mod_lt n (by decide))

/-- A number with no more digits than the fuel allows is spelt whole. -/
theorem digitsNat_decDigits (h : n < 10 ^ fuel) : digitsNat (decDigits fuel n []) = n := by
  induction fuel generalizing n with
  | zero =>
    rw [Nat.lt_one_iff.1 h]
    rfl
  | succ fuel ih =>
    rw [decDigits_succ, digitsNat_concat _ (Nat.mod_lt n (by decide))]
    split
    · next hlt =>
      show 10 * 0 + n % 10 = n
      omega
    · rw [ih (by rw [Nat.pow_succ] at h; omega)]
      omega

theorem length_fixedDigits (d n : Nat) : (fixedDigits d n).length = d := by
  induction d generalizing n with
  | zero => rfl
  | succ d ih => rw [fixedDigits, List.length_append, ih, List.length_singleton]

theorem isDigit_of_mem_fixedDigits (d n : Nat) : ∀ b ∈ fixedDigits d n, isDigit b = true := by
  induction d generalizing n with
  | zero => exact nofun
  | succ d ih =>
    intro b hb
    rcases List.mem_append.1 hb with hb | hb
    · exact ih _ b hb
    · rw [List.mem_singleton.1 hb]
      exact isDigit_digitChar (Nat.mod_lt n (by decide))

/-- The last digits of a number behind the digits of what is before them spell the number. -/
theorem digitsNat_append_fixedDigits (d n : Nat) {t : Text} (ht : digitsNat t = n / 10 ^ d) :
    digitsNat (t ++ fixedDigits d n) = n := by
  induction d generalizing n with
  | zero => simpa [fixedDigits] using ht
  | succ d ih =>
    have hdiv : digitsNat t = n / 10 / 10 ^ d := by rw [ht, Nat.div_div_eq_div_mul, Nat.pow_succ, Nat.mul_comm]
    rw [fixedDigits, ← List.append_assoc, digitsNat_concat _ (Nat.mod_lt n (by decide)), ih _ hdiv]
    omega

/-! ### The canonical text -/

/-- The point of a canonical text, where there are decimals. -/
def pointText (d : Nat) : Text := if d > 0 then [point] else []

theorem pointText_cases (d n : Nat) : (pointText d = [] ∧ fixedDigits d n = []) ∨ pointText d = [point] := by
  cases d with
  | zero => exact .inl ⟨rfl, rfl⟩
  | succ d => exact .inr rfl

/-- The canonical text of a number as sign, integer digits, point and fraction digits (R95). -/
theorem numeral_eq (d : Nat) (v : Int) : numeral d v =
    signText (decide (v < 0)) ++ decText (v.natAbs / 10 ^ d) ++ pointText d ++ fixedDigits d v.natAbs := by
  rw [numeral]
  cases d <;> simp [signText, pointText, fixedDigits]

/-- A numeric field holds at most 15 digits (R8), far fewer than `decText` can spell. -/
theorem capacity_le_of_number (hk : sh.kind = .number) (h : shapeLegal sh = true) : capacity sh ≤ 15 := by
  simp only [shapeLegal, hk, Bool.and_eq_true, decide_eq_true_eq] at h
  obtain ⟨⟨⟨⟨-, hlen⟩, -⟩, -⟩, -⟩ := h
  exact (Nat.sub_le ..).trans ((Nat.sub_le ..).trans hlen)

/-- The two runs of digits of a canonical text make the scaled value again (R91). -/
theorem numeralValue_numeral (h : v.natAbs < 10 ^ 40) :
    numeralValue (decide (v < 0)) (decText (v.natAbs / 10 ^ d)) (fixedDigits d v.natAbs) d = v := by
  have hint : digitsNat (decText (v.natAbs / 10 ^ d)) = v.natAbs / 10 ^ d :=
    digitsNat_decDigits ((Nat.div_le_self ..).trans_lt h)
  rw [numeralValue_exact _ _ _ (length_fixedDigits ..).le, digitsNat_append_fixedDigits d v.natAbs hint, length_fixedDigits,
    Nat.sub_self, Nat.pow_zero, Nat.mul_one]
  simp only [decide_eq_true_eq]
  split <;> omega

end Canonical

/-- Settles O51: the canonical text is a numeral that R97 takes, whose digits spell the value's magnitude at its own
scale, so that nothing is rounded and the value fits. -/
theorem canonicalTextParsesBack : Obligations.CanonicalTextParsesBack := by
  unfold Obligations.CanonicalTextParsesBack
  intro sh v hk hlegal hfits hsigned
  have hsmall : v.natAbs < 10 ^ 40 :=
    hfits.trans_le (Nat.pow_le_pow_right (by decide) ((capacity_le_of_number hk hlegal).trans (by decide)))
  have hdigits : ∀ b ∈ decText (v.natAbs / 10 ^ sh.decimals) ++ fixedDigits sh.decimals v.natAbs, isDigit b = true :=
    List.forall_mem_append.2 ⟨isDigit_of_mem_decDigits 40 _, isDigit_of_mem_fixedDigits _ _⟩
  have hne : decText (v.natAbs / 10 ^ sh.decimals) ++ fixedDigits sh.decimals v.natAbs ≠ [] := by
    simp [decText, decDigits_succ]
  have hparse := parseSystem_numeral (sh := sh) (before := []) (after := []) (neg := decide (v < 0)) (by simp)
    (pointText_cases ..) hdigits hne
  have hcap : fitsCap (capacity sh) v = true := decide_eq_true hfits
  have hsign : ¬(decide (v < 0) = true ∧ sh.signed = false) := by
    rintro ⟨hneg, hunsigned⟩
    simp [hsigned (of_decide_eq_true hneg)] at hunsigned
  rw [List.nil_append, List.append_nil, ← numeral_eq, if_neg hsign, numeralValue_numeral hsmall, fitValue,
    if_pos hcap] at hparse
  exact hparse

end Sys2Proof.Proofs

/-! ## LINE INSERT on a line past the group

`RecordsSound` holds every ACTIVE form to one record for each line of the group, but not the window to the lines of the
group: that is `CursorSound` (R48), which is no premise of `ComputedValuesFollowInputs`. With the window past the group
LINE INSERT finds no last record behind the cursor's line to discard. -/
namespace Sys2Proof.Proofs

open Machine

section PastTheGroup

variable {f : FormStore} {s : State} {l : Nat}

theorem length_insertLineAt_past (hl : f.lines.length ≤ l) : (insertLineAt f l).length = f.lines.length + 1 := by
  simp [insertLineAt, markLines, List.take_of_length_le hl, List.drop_of_length_le hl]

/-- Past the group LINE INSERT adds a record and discards none, so that R16 no longer holds. -/
theorem length_insertLine_past (hfree : lineEnteredAt s.form (s.form.d - 1) = false) (hl : s.form.lines.length ≤ l) :
    (insertLine l s).form.lines.length = s.form.lines.length + 1 := by
  rw [insertLine, hfree, if_neg Bool.false_ne_true, length_linesMoved, length_insertLineAt_past hl]

/-- An ACTIVE form of one EMPTY line and no record, its window of one row on line 1, which it has not, and LINE INSERT at
the head of the key queue. -/
def windowPastGroup : State :=
  { State.reset with
    pending := [.lineInsert]
    form := { FormStore.afterReset with state := .active, w := 1, d := 1, lines := [{ cells := [], modified := false }] }
    cur := { row := 0, col := 0, top := 1 }
    key := { KeyEngine.afterReset with queue := [0x90], keyboard := .free } }

theorem recordsSound_windowPastGroup : RecordsSound windowPastGroup where
  fields := .nil
  cols := .nil
  vals _ := rfl
  lines _ := ⟨rfl, by decide⟩
  sums _ _ hfd := absurd hfd List.not_mem_nil
  operands _ _ hcd := absurd hcd List.not_mem_nil
  tags _ := ⟨.nil, fun _ => iff_of_false Bool.false_ne_true List.not_mem_nil⟩
  stream _ hst := nomatch hst

/-- `windowPastGroup` with its command taken. -/
def lineInsertPastGroup : State := { windowPastGroup with pending := [] }

theorem keyStands_lineInsertPastGroup : KeyStands .lineInsert 0x90 [] lineInsertPastGroup :=
  ⟨rfl, rfl, rfl, rfl, rfl, rfl⟩

/-- The line under the cursor is line 1, so that this is where the key inserts a record. -/
theorem step_windowPastGroup :
    step windowPastGroup = .next (settle (insertLine 1 (setQueue [] lineInsertPastGroup))) := by
  have hstep : step windowPastGroup = exec .lineInsert lineInsertPastGroup := rfl
  have hline : cursorLine lineInsertPastGroup = some 1 := rfl
  rw [hstep, exec_lineKey_on rfl rfl keyStands_lineInsertPastGroup rfl hline, afterCompletion_none rfl]

end PastTheGroup

/-- Refutes O58: `windowPastGroup` meets `RecordsSound`, and the step by LINE INSERT leaves its group of one line with two
records. The premise that is missing is the window's (`CursorSound`, R48), under which `length_insertLineAt` keeps the
count. -/
theorem not_computedValuesFollowInputs : ¬ Obligations.ComputedValuesFollowInputs := by
  unfold Obligations.ComputedValuesFollowInputs
  intro h
  obtain ⟨hsound, -⟩ := h _ _ recordsSound_windowPastGroup step_windowPastGroup
  have htwo : (settle (insertLine 1 (setQueue [] lineInsertPastGroup))).form.lines.length = 2 := by
    rw [settle_form, length_insertLine_past rfl (Nat.le_refl 1)]
    rfl
  have hone : (settle (insertLine 1 (setQueue [] lineInsertPastGroup))).form.lines.length = 1 := (hsound.lines rfl).1
  omega

end Sys2Proof.Proofs

/-! ## The end of a command (R110, R149) -/
namespace Sys2Proof.Machine

section CommandEnd

variable {s : State}

theorem mayAsk_iff (s : State) : mayAsk s = true ↔
    s.tp.phase = .ready ∧ s.line.joined = true ∧ s.line.listenOnly = false ∧ s.line.tx = .idle := by
  simp only [mayAsk, Bool.and_eq_true, decide_eq_true_eq, Bool.not_eq_true', and_assoc]

theorem settle_of_mayAsk (h : mayAsk s = true) : settle s = askArbiter (startRender s) := by
  rcases settle_cases s with ⟨-, e⟩ | ⟨hask, -⟩
  · exact e
  · exact absurd h (Bool.eq_false_iff.1 hask)

theorem askArbiter_some {p : Place} (h : arbiter s.desk = some p) : askArbiter s = { s with line := { s.line with
    tx := .defer, need := accessGap s.line.station.toNat, selection := some p, taken := false } } := by
  simp only [askArbiter, h]

theorem askArbiter_none (h : arbiter s.desk = none) : askArbiter s = { s with line := { s.line with
    tx := .idle, need := 0, selection := none, taken := false } } := by
  simp only [askArbiter, h]

end CommandEnd

end Sys2Proof.Machine

namespace Sys2Proof.Proofs

open Machine

/-- Settles O6: a transmitter that may not ask is left alone, and one that may takes what the arbiter hands over. -/
theorem commandEndsWithRenderAndRequest : Obligations.CommandEndsWithRenderAndRequest := by
  intro s
  dsimp only
  rw [← mayAsk_iff]
  refine ⟨fun hnot => settle_of_quiet s (Bool.eq_false_iff.2 hnot), fun hask p hp => ?_, fun hask hnone => ?_⟩
  · rw [settle_of_mayAsk hask]
    exact askArbiter_some hp
  · rw [settle_of_mayAsk hask]
    exact askArbiter_none hnone

end Sys2Proof.Proofs

/-! ## What a render draws, and what the video port presents of it (R110, R112 to R120) -/
namespace Sys2Proof.Machine

section Drawing

variable {s u : State} {cells : List Cell} {r c r0 c0 : Nat}

/-! ### Cells written into the image -/

/-- A cell that listed cells all give one content takes it, where they reach it or the image holds it already. -/
theorem cellRead_writeCells {img cs : List (Nat × Cell)} {k : Nat} {x : Cell} (hm : cellWf blankCell img = true)
    (hx : ∀ p ∈ cs, p.1 = k → p.2 = x) (hk : k ∈ cs.map (·.1) ∨ cellRead blankCell img k = x) :
    cellRead blankCell (writeCells img cs) k = x := by
  induction cs generalizing img with
  | nil => exact hk.resolve_left List.not_mem_nil
  | cons p cs ih =>
    obtain ⟨hp, hcs⟩ := List.forall_mem_cons.1 hx
    refine ih (cellWf_write hm p.1 p.2) hcs ?_
    by_cases hpk : p.1 = k
    · exact .inr (by rw [hpk, cellRead_write_same (cellWf_assoc hm), hp hpk])
    · rw [cellRead_write_ne _ _ (Ne.symm hpk)]
      exact hk.imp_left fun hmem => (List.mem_cons.1 hmem).resolve_left (Ne.symm hpk)

/-- Listed cells leave every cell alone that they do not reach. -/
theorem cellRead_writeCells_of_not_mem {img cs : List (Nat × Cell)} {k : Nat} (hm : cellWf blankCell img = true)
    (hk : k ∉ cs.map (·.1)) : cellRead blankCell (writeCells img cs) k = cellRead blankCell img k :=
  cellRead_writeCells hm (fun _ hp he => absurd (he ▸ List.mem_map_of_mem hp) hk) (.inr rfl)

/-- A run that stays in its row is read in its columns, and no other cell of the screen changes. -/
theorem imageCell_drawRun (hm : cellWf blankCell s.comp.image = true) (hfit : c0 + cells.length ≤ 80) (hc : c < 80) :
    imageCell (drawRun r0 c0 cells s) r c =
      if r = r0 ∧ c0 ≤ c ∧ c < c0 + cells.length then cells.getD (c - c0) blankCell else imageCell s r c := by
  have hread : imageCell (drawRun r0 c0 cells s) r c =
      if cellKey r0 c0 ≤ cellKey r c ∧ cellKey r c < cellKey r0 c0 + cells.length
      then cells.getD (cellKey r c - cellKey r0 c0) blankCell else imageCell s r c := cellRead_writeRun hm ..
  have hinside : (cellKey r0 c0 ≤ cellKey r c ∧ cellKey r c < cellKey r0 c0 + cells.length) ↔
      r = r0 ∧ c0 ≤ c ∧ c < c0 + cells.length := by
    simp only [cellKey, screenCols]
    omega
  rw [hread]
  by_cases hin : r = r0 ∧ c0 ≤ c ∧ c < c0 + cells.length
  · have hpos : cellKey r c - cellKey r0 c0 = c - c0 := by
      simp only [cellKey, hin.1]
      omega
    rw [if_pos (hinside.2 hin), if_pos hin, hpos]
  · rw [if_neg (hin ∘ hinside.1), if_neg hin]

/-! ### The cells of an instance (R113 to R115) -/

theorem length_padRight (n : Nat) (x : Byte) (t : Text) : (padRight n x t).length = n := by
  simp [padRight]

theorem length_padLeft (n : Nat) (x : Byte) (t : Text) : (padLeft n x t).length = n := by
  simp only [padLeft, List.length_append, List.length_replicate, List.length_drop]
  omega

theorem length_displayText (sh : Shape) (v : Value) : (displayText sh v).length = sh.length := by
  cases v with
  | text t => exact length_padRight ..
  | absent => exact List.length_replicate
  | overflow => exact List.length_replicate
  | number v => exact length_padLeft ..

theorem length_storedShown (f : FormStore) (i : Inst) (sh : Shape) : (storedShown f i sh).length = sh.length := by
  unfold storedShown
  split
  · exact length_padLeft ..
  · exact length_displayText ..

theorem length_shownText (k : KeyEngine) (i : Inst) {sh : Shape} {stored : Text} (h : stored.length = sh.length) :
    (shownText k i sh stored).length = sh.length := by
  unfold shownText
  split
  · exact List.length_replicate
  · split
    · split
      · exact length_padRight ..
      · exact h
    · exact h

theorem length_instCells (s : State) (i : Inst) (sh : Shape) : (instCells s i sh).length = sh.length := by
  rw [instCells, cellsOf, List.length_map]
  exact length_shownText _ _ (length_storedShown ..)

theorem getD_shownText {j : Nat} {sh : Shape} (hj : j < sh.length) (s : State) (i : Inst) :
    (shownText s.key i sh (storedShown s.form i sh)).getD j blank = (shownCell s i sh j).code := by
  unfold shownText shownCell
  by_cases hhidden : sh.attrs.hidden = true
  · simp [hhidden, hj]
  · simp only [hhidden, Bool.false_eq_true, if_false]
    cases s.key.edit with
    | none => rfl
    | some e =>
      by_cases he : e.inst = i
      · simp only [he, if_true]
        exact getD_padRight hj ..
      · simp only [he, if_false]

theorem getElem?_cellsOf (a : CellAttrs) {t : Text} {j : Nat} (hj : j < t.length) :
    (cellsOf a t)[j]? = some ⟨t.getD j blank, a⟩ := by
  rw [cellsOf, List.getElem?_map, List.getElem?_eq_getElem hj, List.getD_eq_getElem _ _ hj, Option.map_some]

theorem getElem?_instCells {j : Nat} {sh : Shape} (hj : j < sh.length) (s : State) (i : Inst) :
    (instCells s i sh)[j]? = some (shownCell s i sh j) := by
  rw [instCells, getElem?_cellsOf _ (by rwa [length_shownText _ _ (length_storedShown ..)]), getD_shownText hj]
  rfl

/-! ### CLEAR and LABELS (R112) -/

theorem imageCell_clear (hm : cellWf blankCell s.comp.image = true) (hc : c < 80) :
    imageCell (render .clear s) r c = if r < 24 then blankCell else imageCell s r c := by
  have hread : imageCell (render .clear s) r c =
      ((assocGet s.comp.image (cellKey r c)).bind fun v =>
        if decide (cellKey statusRowNo 0 ≤ cellKey r c) then some v else none).getD blankCell := by
    rw [← assocGet_filter (cellWf_assoc hm) (fun p => cellKey statusRowNo 0 ≤ p.1)]
    rfl
  have habove : cellKey statusRowNo 0 ≤ cellKey r c ↔ ¬r < 24 := by
    simp only [cellKey, statusRowNo, screenCols]
    omega
  rw [hread]
  simp only [habove]
  by_cases hr : r < 24
  · simp [hr]
  · simp [hr, imageCell, cellRead]

/-- The cells that LABELS writes: those of header and footer outside the fields (R112). -/
def Labelled (f : FormStore) (r c : Nat) : Prop :=
  r < 24 ∧ ¬(f.h ≤ r ∧ r < f.h + f.w) ∧ ∀ fd ∈ f.fields, ¬(fd.row = r ∧ fd.col ≤ c ∧ c < fd.col + fd.shape.length)

theorem labelled_iff {f : FormStore} : Labelled f r c ↔ r < 24 ∧ isFixedRow f r = true ∧ fieldCovers f r c = false := by
  simp only [Labelled, isFixedRow, isWindowRow, fieldCovers, inRun, List.any_eq_false, Bool.and_eq_true,
    Bool.not_eq_true', Bool.and_eq_false_imp, decide_eq_true_eq, decide_eq_false_iff_not]
  exact ⟨fun ⟨hr, hwindow, hfields⟩ => ⟨hr, ⟨hr, not_and.1 hwindow⟩, hfields⟩,
    fun ⟨hr, ⟨_, hwindow⟩, hfields⟩ => ⟨hr, not_and.2 hwindow, hfields⟩⟩

theorem mem_labelCells {f : FormStore} {p : Nat × Cell} : p ∈ labelCells f ↔
    ∃ r c, c < 80 ∧ Labelled f r c ∧ (cellKey r c, ⟨cellRead blank f.screenPlane (cellKey r c), noAttrs⟩) = p := by
  simp only [labelCells, List.mem_flatMap, List.mem_filter, List.mem_map, List.mem_range, Bool.not_eq_true', labelled_iff,
    formRows, screenCols]
  constructor
  · rintro ⟨r, ⟨hr, hfixed⟩, c, ⟨hc, hcovers⟩, hp⟩
    exact ⟨r, c, hc, ⟨hr, hfixed, hcovers⟩, hp⟩
  · rintro ⟨r, c, hc, ⟨hr, hfixed, hcovers⟩, hp⟩
    exact ⟨r, ⟨hr, hfixed⟩, c, ⟨hc, hcovers⟩, hp⟩

theorem imageCell_labels (hm : cellWf blankCell s.comp.image = true) (hc : c < 80) (h : Labelled s.form r c) :
    imageCell (render .labels s) r c = ⟨cellRead blank s.form.screenPlane (80 * r + c), noAttrs⟩ := by
  have hmem := mem_labelCells.2 ⟨r, c, hc, h, rfl⟩
  refine cellRead_writeCells hm (fun p hp hkey => ?_) (.inl (List.mem_map_of_mem (f := (·.1)) hmem))
  obtain ⟨r', c', hc', -, rfl⟩ := mem_labelCells.1 hp
  obtain ⟨rfl, rfl⟩ := Proofs.cellKey_inj hc' hc hkey
  rfl

theorem imageCell_labels_of_not (hm : cellWf blankCell s.comp.image = true) (hc : c < 80) (h : ¬Labelled s.form r c) :
    imageCell (render .labels s) r c = imageCell s r c := by
  refine cellRead_writeCells_of_not_mem hm fun hmem => ?_
  obtain ⟨p, hp, hkey⟩ := List.mem_map.1 hmem
  obtain ⟨r', c', hc', hlab, rfl⟩ := mem_labelCells.1 hp
  obtain ⟨rfl, rfl⟩ := Proofs.cellKey_inj hc' hc hkey
  exact h hlab

/-! ### FIELD (R113) -/

theorem render_field {n : Nat} {fd : FieldDef} (hf : findField s.form n = some fd) :
    render (.field n) s = drawRun fd.row fd.col (instCells s (.field n) fd.shape) s := by
  simp only [render, drawInst, instShape, instFirst, hf, Option.map_some]

theorem render_field_none {n : Nat} (hf : findField s.form n = none) : render (.field n) s = s := by
  simp only [render, drawInst, instShape, hf, Option.map_none]

/-! ### BODY ROW (R114) -/

theorem length_overlay {α : Type} {base xs : List α} {pos : Nat} (h : pos + xs.length ≤ base.length) :
    (overlay base pos xs).length = base.length := by
  simp only [overlay, List.length_append, List.length_take, List.length_drop]
  omega

theorem getElem?_overlay {α : Type} {base xs : List α} {pos : Nat} (h : pos + xs.length ≤ base.length) (j : Nat) :
    (overlay base pos xs)[j]? = if pos ≤ j ∧ j < pos + xs.length then xs[j - pos]? else base[j]? := by
  have htake : (base.take pos).length = pos := List.length_take_of_le (by omega)
  rw [overlay, List.append_assoc]
  rcases Nat.lt_or_ge j pos with hlo | hlo
  · rw [if_neg (by omega), List.getElem?_append_left (by omega), List.getElem?_take_of_lt hlo]
  · rw [List.getElem?_append_right (by omega), htake]
    rcases Nat.lt_or_ge j (pos + xs.length) with hhi | hhi
    · rw [if_pos ⟨hlo, hhi⟩, List.getElem?_append_left (by omega)]
    · rw [if_neg (by omega), List.getElem?_append_right (by omega), List.getElem?_drop]
      congr 1
      omega

/-- The row of a window with the cells of some columns laid over it. -/
def overlaid (s : State) (l : Nat) (cols : List ColumnDef) (row : List Cell) : List Cell :=
  cols.foldl (fun row cd => overlay row cd.col (instCells s (.cell l cd.number) cd.shape)) row

theorem bodyRowCells_eq (s : State) (l : Nat) : bodyRowCells s l = overlaid s l s.form.cols (linePlaneCells s.form) := rfl

variable {l : Nat} {cols : List ColumnDef} {row : List Cell}

theorem length_overlaid (hfit : ∀ cd ∈ cols, cd.col + cd.shape.length ≤ row.length) :
    (overlaid s l cols row).length = row.length := by
  induction cols generalizing row with
  | nil => rfl
  | cons cd cols ih =>
    obtain ⟨hcd, hcols⟩ := List.forall_mem_cons.1 hfit
    have hroom : cd.col + (instCells s (.cell l cd.number) cd.shape).length ≤ row.length := by rwa [length_instCells]
    have hlen := length_overlay hroom
    exact (ih fun g hg => by rw [hlen]; exact hcols g hg).trans hlen

/-- A cell that the columns over it all give one content takes it, where one is over it or the row shows it already. -/
theorem getElem?_overlaid {x : Cell} (hfit : ∀ cd ∈ cols, cd.col + cd.shape.length ≤ row.length)
    (hx : ∀ cd ∈ cols, cd.col ≤ c ∧ c < cd.col + cd.shape.length →
      shownCell s (.cell l cd.number) cd.shape (c - cd.col) = x)
    (hc : (∃ cd ∈ cols, cd.col ≤ c ∧ c < cd.col + cd.shape.length) ∨ row[c]? = some x) :
    (overlaid s l cols row)[c]? = some x := by
  induction cols generalizing row with
  | nil => exact hc.resolve_left (by simp)
  | cons cd cols ih =>
    obtain ⟨hcd, hcols⟩ := List.forall_mem_cons.1 hfit
    obtain ⟨hxcd, hxcols⟩ := List.forall_mem_cons.1 hx
    have hroom : cd.col + (instCells s (.cell l cd.number) cd.shape).length ≤ row.length := by rwa [length_instCells]
    refine ih (fun g hg => by rw [length_overlay hroom]; exact hcols g hg) hxcols ?_
    rw [getElem?_overlay hroom, length_instCells]
    by_cases hin : cd.col ≤ c ∧ c < cd.col + cd.shape.length
    · rw [if_pos hin, getElem?_instCells (by omega), hxcd hin]
      exact .inr rfl
    · rw [if_neg hin]
      exact hc.imp_left fun h => ((List.exists_mem_cons_iff ..).1 h).resolve_left hin

theorem length_linePlaneCells (f : FormStore) : (linePlaneCells f).length = 80 := by
  simp [linePlaneCells, screenCols]

theorem getElem?_linePlaneCells {f : FormStore} (hc : c < 80) :
    (linePlaneCells f)[c]? = some ⟨cellRead blank f.linePlane c, noAttrs⟩ := by
  simp [linePlaneCells, screenCols, hc]

section BodyRow

variable (hr : recordsOnScreen s.form = true)
include hr

theorem columns_fit : ∀ cd ∈ s.form.cols, cd.col + cd.shape.length ≤ (linePlaneCells s.form).length := by
  rw [length_linePlaneCells]
  exact fun cd hcd => (((recordsOnScreen_iff _).1 hr).2 cd hcd).2

theorem length_bodyRowCells : (bodyRowCells s l).length = 80 := by
  rw [bodyRowCells_eq, length_overlaid (columns_fit hr), length_linePlaneCells]

theorem getElem?_bodyRowCells_label (hc : c < 80)
    (hout : ∀ cd ∈ s.form.cols, ¬(cd.col ≤ c ∧ c < cd.col + cd.shape.length)) :
    (bodyRowCells s l)[c]? = some ⟨cellRead blank s.form.linePlane c, noAttrs⟩ :=
  getElem?_overlaid (columns_fit hr) (fun cd hcd hin => absurd hin (hout cd hcd)) (.inr (getElem?_linePlaneCells hc))

theorem getElem?_bodyRowCells_column {cd : ColumnDef} (hcd : cd ∈ s.form.cols)
    (hin : cd.col ≤ c ∧ c < cd.col + cd.shape.length)
    (honly : ∀ g ∈ s.form.cols, g.col ≤ c ∧ c < g.col + g.shape.length → g = cd) :
    (bodyRowCells s l)[c]? = some (shownCell s (.cell l cd.number) cd.shape (c - cd.col)) :=
  getElem?_overlaid (columns_fit hr) (fun g hg hing => by rw [honly g hg hing]) (.inl ⟨cd, hcd, hin⟩)

end BodyRow

theorem render_bodyRow {n : Nat} (hl : lineAt s.form s.cur.top n = some l) :
    render (.bodyRow n) s = drawRun n 0 (bodyRowCells s l) s := by
  simp only [render, hl]

theorem render_bodyRow_none {n : Nat} (hl : lineAt s.form s.cur.top n = none) : render (.bodyRow n) s = s := by
  simp only [render, hl]

/-! ### STATUS (R116) -/

theorem fixedDigits_two (n : Nat) :
    fixedDigits 2 n = [0x30 + BitVec.ofNat 8 (n / 10 % 10), 0x30 + BitVec.ofNat 8 (n % 10)] := by
  simp only [fixedDigits, digitChar, List.nil_append, List.cons_append, BitVec.ofNat_add]
  rfl

theorem fixedDigits_three (n : Nat) : fixedDigits 3 n =
    [0x30 + BitVec.ofNat 8 (n / 10 / 10 % 10), 0x30 + BitVec.ofNat 8 (n / 10 % 10), 0x30 + BitVec.ofNat 8 (n % 10)] := by
  rw [fixedDigits, fixedDigits_two, digitChar, BitVec.ofNat_add]
  rfl

/-- The parts of the status row from column 0 on, each with its width (R116). -/
def statusParts (s : State) : List (Nat × Text) :=
  [(6, keyboardWord s.key), (1, []), (3, if s.key.insertMode then chars ['I', 'N', 'S'] else []), (1, []),
    (9, linePart s), (19, if s.key.keyboard = .error then errorText s.key.lastError else []), (1, []),
    (40, bannerText s.desk)]

/-- Parts in their widths, one behind the other. -/
def partsText (ps : List (Nat × Text)) : Text := ps.flatMap (fun p => padRight p.1 blank p.2)

theorem statusText_eq (s : State) : statusText s = partsText (statusParts s) := by
  simp only [statusText, statusParts, partsText, List.flatMap_cons, List.flatMap_nil, List.append_assoc, List.append_nil]
  rfl

theorem length_partsText (ps : List (Nat × Text)) : (partsText ps).length = (ps.map (·.1)).sum := by
  simp only [partsText, List.length_flatMap, length_padRight]

/-- A part stands behind the widths of those before it. -/
theorem getD_partsText (ps qs : List (Nat × Text)) {n j : Nat} (hj : j < n) (t : Text) :
    (partsText (ps ++ (n, t) :: qs)).getD ((ps.map (·.1)).sum + j) blank = t.getD j blank := by
  have hsplit : partsText (ps ++ (n, t) :: qs) = partsText ps ++ (padRight n blank t ++ partsText qs) := by
    simp only [partsText, List.flatMap_append, List.flatMap_cons]
  rw [hsplit, ← length_partsText, List.getD_append_right _ _ _ _ (Nat.le_add_right ..), Nat.add_sub_cancel_left,
    List.getD_append _ _ _ _ (by rwa [length_padRight]), getD_padRight hj]

theorem length_statusText (s : State) : (statusText s).length = 80 := by
  rw [statusText_eq, length_partsText]
  rfl

/-- The cell of the status row in column `c` (R116). -/
def statusCell (s : State) (c : Nat) : Cell :=
  ⟨(statusText s).getD c blank, if s.key.keyboard = .error ∧ c < 5 then alertAttrs else noAttrs⟩

theorem length_statusCells (s : State) : (statusCells s).length = 80 := by
  simp only [statusCells, cellsOf, List.length_append, List.length_map, List.length_take, List.length_drop,
    length_statusText]
  split <;> rfl

/-- A text as cells that look one way up to position `n` and another way from there on. -/
theorem getElem?_cellsOf_append (a a' : CellAttrs) {t : Text} {n : Nat} (hn : n ≤ t.length) (hc : c < t.length) :
    (cellsOf a (t.take n) ++ cellsOf a' (t.drop n))[c]? = some ⟨t.getD c blank, if c < n then a else a'⟩ := by
  have hlen : (cellsOf a (t.take n)).length = n := by rw [cellsOf, List.length_map, List.length_take_of_le hn]
  rw [List.getD_eq_getElem _ _ hc]
  rcases Nat.lt_or_ge c n with h | h
  · rw [List.getElem?_append_left (by omega), if_pos h, cellsOf, List.getElem?_map, List.getElem?_take_of_lt h,
      List.getElem?_eq_getElem hc, Option.map_some]
  · rw [List.getElem?_append_right (by omega), hlen, if_neg (by omega), cellsOf, List.getElem?_map, List.getElem?_drop,
      Nat.add_sub_cancel' h, List.getElem?_eq_getElem hc, Option.map_some]

theorem getElem?_statusCells (hc : c < 80) (s : State) : (statusCells s)[c]? = some (statusCell s c) := by
  have hlen := length_statusText s
  unfold statusCells statusCell
  by_cases herr : s.key.keyboard = .error
  · simp only [herr, if_true, true_and]
    exact getElem?_cellsOf_append _ _ (by omega) (by omega)
  · simp only [herr, if_false, false_and]
    exact getElem?_cellsOf_append _ _ (by omega) (by omega)

/-- The columns from `c` on of row 24 show a text, blanks after it (R116). -/
def ShowsIn (u : State) (c n : Nat) (t : Text) : Prop := ∀ j < n, (imageCell u 24 (c + j)).code = t.getD j blank

theorem ShowsIn.of_eq {n : Nat} {t t' : Text} (h : ShowsIn u c n t) (e : t = t') : ShowsIn u c n t' := e ▸ h

/-- Row 24 of `u` holds the status row of `s`. -/
def StatusShown (s u : State) : Prop := ∀ c < 80, imageCell u 24 c = statusCell s c

theorem StatusShown.showsIn (h : StatusShown s u) {n : Nat} {ps qs : List (Nat × Text)} {t : Text}
    (hparts : statusParts s = ps ++ (n, t) :: qs) (hc : (ps.map (·.1)).sum = c) (hn : c + n ≤ 80) : ShowsIn u c n t := by
  intro j hj
  rw [h (c + j) (by omega), statusCell, statusText_eq, hparts, ← hc]
  exact getD_partsText ps qs hj t

section StatusRow

variable (h : StatusShown s u)
include h

theorem StatusShown.keyboardWord : ShowsIn u 0 6 (keyboardWord s.key) :=
  h.showsIn (ps := []) rfl rfl (by decide)

theorem StatusShown.insertMark : ShowsIn u 7 3 (if s.key.insertMode then chars ['I', 'N', 'S'] else []) :=
  h.showsIn (ps := (statusParts s).take 2) rfl rfl (by decide)

theorem StatusShown.linePart : ShowsIn u 11 9 (linePart s) :=
  h.showsIn (ps := (statusParts s).take 4) rfl rfl (by decide)

theorem StatusShown.errorText : ShowsIn u 20 19 (if s.key.keyboard = .error then errorText s.key.lastError else []) :=
  h.showsIn (ps := (statusParts s).take 5) rfl rfl (by decide)

theorem StatusShown.banner : ShowsIn u 40 40 (bannerText s.desk) :=
  h.showsIn (ps := (statusParts s).take 7) rfl rfl (by decide)

/-- The columns between the parts are blank. -/
theorem StatusShown.gaps : (imageCell u 24 6).code = blank ∧ (imageCell u 24 10).code = blank ∧
    (imageCell u 24 39).code = blank :=
  ⟨h.showsIn (c := 6) (n := 1) (ps := (statusParts s).take 1) rfl rfl (by decide) 0 (by decide),
    h.showsIn (c := 10) (n := 1) (ps := (statusParts s).take 3) rfl rfl (by decide) 0 (by decide),
    h.showsIn (c := 39) (n := 1) (ps := (statusParts s).take 6) rfl rfl (by decide) 0 (by decide)⟩

theorem StatusShown.attrs (hc : c < 80) : (imageCell u 24 c).attrs =
    if s.key.keyboard = .error ∧ c < 5 then ⟨true, true, false, false⟩ else noAttrs := by
  rw [h c hc]
  rfl

/-- In ERROR the code and the text of the error stand (R87, R116). -/
theorem StatusShown.coded (herr : s.key.keyboard = .error) :
    ShowsIn u 0 6 (chars ['E', 'R', 'R'] ++ [0x30 + BitVec.ofNat 8 (errorCode s.key.lastError / 10 % 10),
      0x30 + BitVec.ofNat 8 (errorCode s.key.lastError % 10)]) ∧ ShowsIn u 20 19 (Machine.errorText s.key.lastError) := by
  have hword := h.keyboardWord
  have htext := h.errorText
  rw [if_pos herr] at htext
  simp only [Machine.keyboardWord, herr, fixedDigits_two] at hword
  exact ⟨hword, htext⟩

end StatusRow

theorem linePart_none (h : s.form.state ≠ .active ∨ lineAt s.form s.cur.top s.cur.row = none) : linePart s = [] := by
  rcases h with hstate | hline
  · simp only [linePart, hstate, decide_false]
  · simp only [linePart, cursorLine, hline]
    cases decide (s.form.state = .active) <;> rfl

theorem linePart_some {l : Nat} (ha : s.form.state = .active) (hl : lineAt s.form s.cur.top s.cur.row = some l)
    (hlt : l < 999) (hd : s.form.d < 100) : linePart s = chars ['L', 'N', ' '] ++
      [(l + 1) / 100, (l + 1) / 10 % 10, (l + 1) % 10].map (fun n => 0x30 + BitVec.ofNat 8 n) ++ chars ['/'] ++
      [s.form.d / 10, s.form.d % 10].map (fun n => 0x30 + BitVec.ofNat 8 n) := by
  have h100 : (l + 1) / 10 / 10 % 10 = (l + 1) / 100 := by omega
  have h10 : s.form.d / 10 % 10 = s.form.d / 10 := by omega
  simp only [linePart, cursorLine, ha, hl, decide_true, fixedDigits_two, fixedDigits_three, h100, h10, List.map]

/-! ### The completion of a render (R110) -/

/-- A render changes nothing but the image. -/
theorem render_eq (i : Item) (s : State) :
    render i s = { s with comp := { s.comp with image := (render i s).comp.image } } := by
  cases i with
  | clear => rfl
  | labels => rfl
  | field n => exact drawInst_eq ..
  | bodyRow n =>
    cases hl : lineAt s.form s.cur.top n with
    | none => rw [render_bodyRow_none hl]
    | some l => rw [render_bodyRow hl]; rfl
  | status => rfl

/-- The state in which a render ends: its item drawn and taken from the list. -/
def rendered (i : Item) (s : State) : State := { render i s with comp := popItem (render i s).comp }

theorem exec_renderComplete {i : Item} {is : List Item} (hi : s.comp.items = i :: is) (hr : s.comp.rendering = true) :
    exec .renderComplete s = .next (settle (rendered i s)) := by
  show execRenderComplete s = _
  simp only [execRenderComplete, hi, hr]
  rfl

theorem rendered_image (i : Item) (s : State) : (rendered i s).comp.image = (render i s).comp.image := by
  unfold rendered popItem
  split <;> rfl

theorem imageCell_rendered (i : Item) (s : State) (r c : Nat) :
    imageCell (rendered i s) r c = imageCell (render i s) r c := by
  rw [imageCell, rendered_image, imageCell]

theorem popItem_render {i : Item} {is : List Item} (hi : s.comp.items = i :: is) :
    popItem (render i s).comp = { s.comp with
      image := (render i s).comp.image, items := if s.comp.remark then is ++ [i] else is
      rendering := false, remark := false } := by
  rw [render_eq]
  simp only [popItem, hi]

theorem rendered_eq {i : Item} {is : List Item} (hi : s.comp.items = i :: is) :
    rendered i s = { s with comp := { s.comp with
      image := (rendered i s).comp.image, items := if s.comp.remark then is ++ [i] else is
      rendering := false, remark := false } } := by
  rw [rendered_image, rendered, popItem_render hi, render_eq]

/-! ### What each item draws -/

theorem statusShown_render (hm : cellWf blankCell s.comp.image = true) : StatusShown s (render .status s) := by
  intro c hc
  have hlen := length_statusCells s
  refine (imageCell_drawRun hm (by omega) hc).trans ?_
  rw [if_pos ⟨rfl, Nat.zero_le c, by omega⟩, Nat.sub_zero, List.getD_eq_getElem?_getD, getElem?_statusCells hc]
  rfl

theorem imageCell_render_status_ne (hm : cellWf blankCell s.comp.image = true) (hr : r ≠ 24) (hc : c < 80) :
    imageCell (render .status s) r c = imageCell s r c :=
  (imageCell_drawRun hm (by rw [length_statusCells]) hc).trans (if_neg fun h => hr h.1)

theorem imageCell_render_field (hm : cellWf blankCell s.comp.image = true) (hscreen : recordsOnScreen s.form = true)
    {n : Nat} {fd : FieldDef} (hf : findField s.form n = some fd) (hc : c < 80) : imageCell (render (.field n) s) r c =
      if r = fd.row ∧ fd.col ≤ c ∧ c < fd.col + fd.shape.length then shownCell s (.field n) fd.shape (c - fd.col)
      else imageCell s r c := by
  have hfit := (((recordsOnScreen_iff _).1 hscreen).1 fd (mem_of_findField hf)).2.2
  rw [render_field hf, imageCell_drawRun hm (by rwa [length_instCells]) hc, length_instCells]
  by_cases hin : r = fd.row ∧ fd.col ≤ c ∧ c < fd.col + fd.shape.length
  · rw [if_pos hin, if_pos hin, List.getD_eq_getElem?_getD, getElem?_instCells (by omega)]
    rfl
  · rw [if_neg hin, if_neg hin]

theorem imageCell_render_bodyRow (hm : cellWf blankCell s.comp.image = true) (hscreen : recordsOnScreen s.form = true)
    {n l : Nat} (hl : lineAt s.form s.cur.top n = some l) (hc : c < 80) : imageCell (render (.bodyRow n) s) r c =
      if r = n then (bodyRowCells s l).getD c blankCell else imageCell s r c := by
  have hlen := length_bodyRowCells (l := l) hscreen
  rw [render_bodyRow hl, imageCell_drawRun hm (by omega) hc]
  exact if_congr ⟨fun h => h.1, fun h => ⟨h, Nat.zero_le c, by omega⟩⟩ rfl rfl

end Drawing

end Sys2Proof.Machine

namespace Sys2Proof.Proofs

open Machine

/-- Settles O40: the completed render leaves `rendered`, whose image is that of `render`, item by item. -/
theorem renderDrawsHeadItem : Obligations.RenderDrawsHeadItem := by
  intro it is s hitems hrendering hsound
  have hm := hsound.image
  have himage : ∀ r c, imageCell (rendered it s) r c = imageCell (render it s) r c := imageCell_rendered it s
  refine ⟨rendered it s, exec_renderComplete hitems hrendering, rendered_eq hitems, ?_⟩
  simp only [himage]
  refine ⟨?_, ?_, ?_, ?_, ?_, ?_, ?_⟩
  · rintro rfl
    exact ⟨fun c hc => by rw [getElem?_statusCells hc, statusShown_render hm c hc],
      fun r c hr hc => imageCell_render_status_ne hm (by omega) hc⟩
  · rintro rfl
    have h := statusShown_render hm
    obtain ⟨hgap6, hgap10, hgap39⟩ := h.gaps
    refine ⟨fun c hc => h.attrs hc, hgap6, hgap10, hgap39,
      fun hfree => h.keyboardWord.of_eq (by rw [keyboardWord, hfree]),
      fun hlocked => h.keyboardWord.of_eq (by rw [keyboardWord, hlocked]),
      fun hsystem => h.keyboardWord.of_eq (by rw [keyboardWord, hsystem]),
      fun hother => h.errorText.of_eq (if_neg hother), fun herr n m hlast => ?_, fun herr x hlast => ?_, h.insertMark,
      fun l ha hl hlt hd => h.linePart.of_eq (linePart_some ha hl hlt hd),
      fun hnone => h.linePart.of_eq (linePart_none hnone), h.banner⟩
    · have hcoded := h.coded herr
      rw [hlast] at hcoded
      exact hcoded
    · have hcoded := h.coded herr
      rw [hlast] at hcoded
      cases x <;> exact hcoded
  · rintro rfl
    exact ⟨fun r c hr hc => (imageCell_clear hm hc).trans (if_pos hr),
      fun c hc => (imageCell_clear hm hc).trans (if_neg (by decide))⟩
  · rintro rfl r c hc
    refine ⟨fun hr hwindow hfields => imageCell_labels hm hc ⟨hr, hwindow, hfields⟩,
      fun hout => imageCell_labels_of_not hm hc ?_⟩
    rintro ⟨hr, hwindow, hfields⟩
    rcases hout with h | h | ⟨fd, hfd, h⟩
    · omega
    · exact hwindow h
    · exact hfields fd hfd h
  · rintro n fd rfl hf hscreen r c hc
    rw [imageCell_render_field hm hscreen hf hc]
    exact ⟨fun ⟨hr, hin⟩ => if_pos ⟨hr.symm, hin⟩, fun hout => if_neg fun h => hout ⟨h.1.symm, h.2⟩⟩
  · rintro row l rfl hl hscreen r c hc
    rw [imageCell_render_bodyRow hm hscreen hl hc]
    refine ⟨fun hr => if_neg hr, fun hr hout => ?_, fun hr cd hcd hin honly => ?_⟩
    · rw [if_pos hr, List.getD_eq_getElem?_getD, getElem?_bodyRowCells_label hscreen hc hout]
      rfl
    · rw [if_pos hr, List.getD_eq_getElem?_getD, getElem?_bodyRowCells_column hscreen hcd hin honly]
      rfl
  · intro hfield hrow hstatus hclear hlabels
    rw [rendered_image]
    cases it with
    | clear => exact absurd rfl hclear
    | labels => exact absurd rfl hlabels
    | field n => rw [render_field_none (hfield n rfl)]
    | bodyRow n => rw [render_bodyRow_none (hrow n rfl)]
    | status => exact absurd rfl hstatus

end Sys2Proof.Proofs

/-! ## The video readout (R118 to R120) -/
namespace Sys2Proof.Machine

section Video

variable {s : State} {i : Item} {is : List Item} {ks : List Nat} {r c n : Nat}

theorem scan_iff (hr : r ≤ 24) (hc : c < 80) : scanRow n = r ∧ scanCol n = c ↔ n % 2000 = 80 * r + c := by
  simp only [scanRow, scanCol, screenCols, imageRows, statusRowNo]
  omega

/-! ### One cell -/

theorem videoCell_off (h : s.comp.displayOn = false) (r c : Nat) : videoCell s r c = blankCell := by
  simp only [videoCell, presentCell, h, Bool.false_eq_true, if_false]

theorem videoCell_plain (h : s.comp.displayOn = true) (hcur : r ≠ s.cur.row ∨ c ≠ s.cur.col) :
    videoCell s r c = imageCell s r c := by
  rw [videoCell, presentCell, if_pos h, if_neg (not_and_or.2 hcur)]

theorem videoCell_cursor (h : s.comp.displayOn = true) (hr : r = s.cur.row) (hc : c = s.cur.col) :
    videoCell s r c = markCell s.comp.cursorBlink (imageCell s r c) := by
  rw [videoCell, presentCell, if_pos h, if_pos ⟨hr, hc⟩]

/-! ### A moment of the scan -/

/-- The cells that a render has drawn anew, of those under some keys. -/
def drawnCells (i : Item) (ks : List Nat) (s : State) : List (Nat × Cell) :=
  ks.map (fun k => (k, cellRead blankCell (render i s).comp.image k))

theorem draw_rendering (hi : s.comp.items = i :: is) (hr : s.comp.rendering = true) :
    Moment.draw ks ⟨s, []⟩ = ⟨s, drawnCells i ks s⟩ := by
  simp only [Moment.draw, hi, hr, List.nil_append, drawnCells]

/-- What is drawn of a render in progress, if one is. -/
theorem draw_cases (ks : List Nat) (s : State) : Moment.draw ks ⟨s, []⟩ = ⟨s, []⟩ ∨
    ∃ i is, s.comp.items = i :: is ∧ s.comp.rendering = true ∧ Moment.draw ks ⟨s, []⟩ = ⟨s, drawnCells i ks s⟩ := by
  unfold Moment.draw
  split
  · next i is hi hr => exact .inr ⟨i, is, hi, hr, by simp only [List.nil_append, drawnCells]⟩
  · exact .inl rfl

theorem draw_state (ks : List Nat) (s : State) : (Moment.draw ks ⟨s, []⟩).state = s := by
  rcases draw_cases ks s with h | ⟨i, is, -, -, h⟩ <;> rw [h]

theorem present_undrawn (n : Nat) (s : State) :
    Moment.present n ⟨s, []⟩ = ⟨scanRow n, scanCol n, videoCell s (scanRow n) (scanCol n)⟩ := rfl

theorem present_drawn (n : Nat) (i : Item) (ks : List Nat) (hm : cellWf blankCell s.comp.image = true) :
    Moment.present n ⟨s, drawnCells i ks s⟩ = ⟨scanRow n, scanCol n,
      videoCell (if cellKey (scanRow n) (scanCol n) ∈ ks then render i s else s) (scanRow n) (scanCol n)⟩ := by
  have hkeys : (drawnCells i ks s).map (·.1) = ks := by
    rw [drawnCells, List.map_map]
    exact List.map_id ks
  have hdrawn : ∀ p ∈ drawnCells i ks s, p.2 = cellRead blankCell (render i s).comp.image p.1 := by
    intro p hp
    obtain ⟨k, -, rfl⟩ := List.mem_map.1 hp
    rfl
  simp only [Moment.present, Moment.image]
  split
  · next hk =>
    rw [cellRead_writeCells hm (fun p hp he => by rw [hdrawn p hp, he]) (.inl (by rwa [hkeys])), render_eq]
    rfl
  · next hk =>
    rw [cellRead_writeCells_of_not_mem hm (by rwa [hkeys])]
    rfl

theorem scanFrom_getElem? (n k : Nat) (ms : List Moment) :
    (scanFrom n ms)[k]? = ms[k]?.map (fun m => m.present (n + k)) := by
  induction ms generalizing n k with
  | nil => rfl
  | cons m ms ih =>
    cases k with
    | zero => rfl
    | succ k =>
      rw [scanFrom, List.getElem?_cons_succ, List.getElem?_cons_succ, ih, Nat.add_right_comm, Nat.add_assoc]

end Video

end Sys2Proof.Machine

namespace Sys2Proof.Proofs

open Machine

/-- Settles O60: a moment of the scan presents the cells that the render has drawn from `render`, and every other from the
state's own image. -/
theorem videoReadoutPresentsScreen : Obligations.VideoReadoutPresentsScreen := by
  refine ⟨fun n r c => scan_iff, fun s r c => ⟨fun h => videoCell_off h r c, videoCell_plain, fun h hr hc => ?_⟩,
    fun ks n s hsound => ⟨draw_state ks s, present_undrawn n s, fun h => ?_, fun i is hi hr hk => ?_⟩, scanFrom_getElem?⟩
  · rw [videoCell_cursor h hr hc]
    exact ⟨rfl, rfl⟩
  · rcases draw_cases ks s with hdraw | ⟨i, is, -, hr, hdraw⟩
    · rw [hdraw, present_undrawn]
    · have hk : cellKey (scanRow n) (scanCol n) ∉ ks := h.resolve_left (by simp [hr])
      rw [hdraw, present_drawn n i ks hsound.image, if_neg hk]
  · have hk : cellKey (scanRow n) (scanCol n) ∈ ks := hk
    rw [draw_rendering hi hr, present_drawn n i ks hsound.image, if_pos hk]

end Sys2Proof.Proofs


/-! ## BLOCK READ (R133, R134) -/
namespace Sys2Proof.Proofs

open Machine

section BlockRead

variable {s : State} {n k : Nat}

/-! ### Replies clocked in pieces -/

theorem take_append_zeros {r : List Byte} (h : n ≤ r.length + k) : (r ++ zeros k).take n = replyBytes n r := by
  simp only [replyBytes, zeros, List.take_append, List.take_replicate]
  congr 2
  omega

theorem drop_append_zeros (m : Nat) (r : List Byte) :
    (r ++ zeros k).drop m = r.drop m ++ zeros (k - (m - r.length)) := by
  simp only [zeros, List.drop_append, List.drop_replicate]

/-- The bytes of a reply clocked in one frame are those of its first part, then those of what follows it. -/
theorem replyBytes_add (m n : Nat) (r : List Byte) : replyBytes (m + n) r = replyBytes m r ++ replyBytes n (r.drop m) := by
  rw [replyBytes, List.take_add, take_append_zeros (by omega), drop_append_zeros, take_append_zeros]
  rw [List.length_drop]
  omega

/-! ### One read of a block in READY -/

/-- The state in which a BLOCK READ of `n` bytes of a READY block ends. -/
def blockReadBy (n : Nat) (s : State) : State :=
  record .done (advanceRead n (endStream (closeFrame (zeros 1 ++ replyBytes n (s.send.block.drop s.send.readPos)) s)))

theorem exec_blockRead (hp : s.tp.phase = .ready) (hs : s.send.state = .ready) (n : Nat) :
    exec (.blockRead n) s = .next (settle (blockReadBy n s)) :=
  runRead_ok (reply := blockReply) hp (if_pos hs) rfl

theorem exec_blockRead_refused (hp : s.tp.phase = .ready) (hs : s.send.state ≠ .ready) (n : Nat) :
    exec (.blockRead n) s = .next (framed .refusedState (List.replicate (1 + n) 0) s) :=
  runRead_error (reply := blockReply) hp (if_neg hs) rfl

theorem blockReadBy_sdo (n : Nat) (s : State) :
    (blockReadBy n s).tp.sdo.tail = replyBytes n (s.send.block.drop s.send.readPos) := rfl

theorem blockReadBy_send (n : Nat) (s : State) : (blockReadBy n s).send =
    { s.send with readPos := min (s.send.readPos + n) s.send.block.length } := rfl

/-- A second read goes on where the first has stopped. -/
theorem blockReadBy_sdo_add (m n : Nat) (s : State) : (blockReadBy (m + n) s).tp.sdo.tail =
    (blockReadBy m s).tp.sdo.tail ++ (blockReadBy n (settle (blockReadBy m s))).tp.sdo.tail := by
  have hrest : s.send.block.drop (min (s.send.readPos + m) s.send.block.length) =
      (s.send.block.drop s.send.readPos).drop m := by
    rw [List.drop_drop, List.drop_eq_drop_iff, Nat.min_assoc, Nat.min_self]
  simp only [blockReadBy_sdo, settle_send, blockReadBy_send, hrest, replyBytes_add]

theorem blockReadBy_send_add (m n : Nat) (s : State) :
    (blockReadBy (m + n) s).send = (blockReadBy n (settle (blockReadBy m s))).send := by
  simp only [settle_send, blockReadBy_send]
  congr 1
  omega

/-- BLOCK READY stays pending until the last byte of the block is read (R134). -/
theorem blockReady_blockReadBy (hs : s.send.state = .ready) (n : Nat) :
    blockReady (settle (blockReadBy n s)) = true ↔ s.send.readPos + n < s.send.block.length := by
  simp only [blockReady, settle_send, blockReadBy_send, hs, decide_true, Bool.true_and, decide_eq_true_eq]
  omega

end BlockRead

/-- Settles O27: one read of the joint length drives the replies of both and stops where the second does. -/
theorem blockReadInPieces : Obligations.BlockReadInPieces := by
  refine ⟨fun m n s hp hs => ?_, fun n s hp hs => exec_blockRead_refused hp hs n⟩
  have hp' : (settle (blockReadBy m s)).tp.phase = .ready := by rw [settle_tp]; exact hp
  have hs' : (settle (blockReadBy m s)).send.state = .ready := by rw [settle_send]; exact hs
  refine ⟨_, _, _, exec_blockRead hp hs m, exec_blockRead hp' hs' n, exec_blockRead hp hs (m + n), ?_⟩
  rw [settle_tp, settle_tp, settle_tp, settle_form, settle_cur, settle_key, settle_desk, settle_send, settle_send,
    settle_send]
  refine ⟨blockReadBy_sdo_add m n s, blockReadBy_send_add m n s, rfl, blockReadBy_sdo m s, rfl, rfl, rfl, rfl,
    blockReadBy_send m s, blockReady_blockReadBy hs m⟩

end Sys2Proof.Proofs

/-! ## RELEASE and REJECT (R136, R137) -/
namespace Sys2Proof.Machine

section Seeking

variable {s : State} {n l c : Nat}

/-! ### The place of an instance (R44) -/

theorem seekInst_field {fd : FieldDef} (hf : findField s.form n = some fd) :
    seekInst s (.field n) = some (fd.row, fd.col, s.cur.top) := by
  simp [seekInst, hf]

theorem seekInst_visible {cd : ColumnDef} (hc : findCol s.form c = some cd) (hd : l < s.form.d) (hlo : s.cur.top ≤ l)
    (hhi : l < s.cur.top + s.form.w) :
    seekInst s (.cell l c) = some (s.form.h + (l - s.cur.top), cd.col, s.cur.top) := by
  simp [seekInst, lineVisible, hc, hd, hlo, hhi]

theorem seekInst_hidden {cd : ColumnDef} (hc : findCol s.form c = some cd) (hd : l < s.form.d)
    (hout : l < s.cur.top ∨ s.cur.top + s.form.w ≤ l) :
    seekInst s (.cell l c) =
      some (s.form.h + (l - min l (s.form.d - s.form.w)), cd.col, min l (s.form.d - s.form.w)) := by
  have hv : lineVisible s.form s.cur.top l = false := by
    simp only [lineVisible, Bool.and_eq_false_iff, decide_eq_false_iff_not]
    omega
  simp [seekInst, hc, hd, hv]

theorem placeOn_eq {i : Inst} {r top : Nat} (h : seekInst s i = some (r, c, top)) :
    placeOn i s = placeCursor r c top s := by
  rw [placeOn, h]

/-- A window that an instance moves repaints each of its rows (R50). -/
theorem mem_placeOn_of_top_ne {i : Inst} (htop : (placeOn i s).cur.top ≠ s.cur.top) {k : Nat} (hk : k < s.form.w) :
    Item.bodyRow (s.form.h + k) ∈ (placeOn i s).comp.items := by
  unfold placeOn at htop ⊢
  split at htop
  · rw [placeCursor_cur] at htop
    exact mem_placeCursor_row htop (bodyRow_mem_allBodyRows hk)
  · exact absurd rfl htop

end Seeking

section Answers

variable {s : State} {i : Option Inst} {opts code form a b : Byte} {msg : List Byte}

theorem setKeyboard_key (k : Keyboard) (s : State) : (setKeyboard k s).key = { s.key with keyboard := k } := rfl

theorem status_mem_setKeyboard (k : Keyboard) (s : State) : Item.status ∈ (setKeyboard k s).comp.items :=
  mem_requestIn ..

/-! ### RELEASE -/

/-- The send discarded and, where RELEASE asks it, the flags of the form cleared (R136). -/
def released (clear : Bool) (s : State) : State :=
  { dropSend s with form := if clear then unmarkForm s.form else s.form }

theorem releaseSend_eq (clear toHome : Bool) (s : State) : releaseSend clear toHome s = setKeyboard .free
    (if toHome then placeCursor (homeCell s.form).1 (homeCell s.form).2 s.cur.top (released clear s)
      else released clear s) := by
  cases clear <;> rfl

theorem releaseSend_key (clear toHome : Bool) (s : State) :
    (releaseSend clear toHome s).key = { s.key with keyboard := .free } := by
  rw [releaseSend_eq, setKeyboard_key]
  cases toHome <;> simp [released]

theorem releaseSend_send (clear toHome : Bool) (s : State) :
    (releaseSend clear toHome s).send = SendAssembler.afterReset := (releaseSend_frame clear toHome s).send_eq

theorem releaseSend_desk (clear toHome : Bool) (s : State) : (releaseSend clear toHome s).desk = s.desk := by
  rw [releaseSend_eq]
  cases toHome <;> simp [released]

theorem releaseSend_form (clear toHome : Bool) (s : State) :
    (releaseSend clear toHome s).form = if clear then unmarkForm s.form else s.form := by
  rw [releaseSend_eq]
  cases toHome <;> simp [released]

theorem releaseSend_cur (clear toHome : Bool) (s : State) : (releaseSend clear toHome s).cur =
    if toHome then ⟨(homeCell s.form).1, (homeCell s.form).2, s.cur.top⟩ else s.cur := by
  rw [releaseSend_eq]
  cases toHome <;> simp [released]

theorem status_mem_releaseSend (clear toHome : Bool) (s : State) :
    Item.status ∈ (releaseSend clear toHome s).comp.items := status_mem_setKeyboard ..

theorem releaseBody_not_locked (h : s.key.keyboard ≠ .locked) : releaseBody opts s = .error .refusedState := if_pos h

theorem releaseBody_bad (h : s.key.keyboard = .locked) (ho : 3 < opts.toNat) :
    releaseBody opts s = .error .badArgument := by
  simp [releaseBody, h, ho]

theorem releaseBody_ok (h : s.key.keyboard = .locked) (ho : opts.toNat ≤ 3) :
    releaseBody opts s = .ok (releaseSend (opts.getLsbD 0) (opts.getLsbD 1) s) := by
  simp [releaseBody, h, Nat.not_lt.2 ho]

/-! ### REJECT -/

/-- The send discarded and the cursor put on the instance that REJECT names, if any (R137). -/
def answered (i : Option Inst) (s : State) : State :=
  match i with
  | some x => placeOn x (dropSend s)
  | none => dropSend s

theorem rejectSend_eq (n : Nat) (i : Option Inst) (t : Text) (s : State) : rejectSend n i t s = setKeyboard .error
    { answered i s with key := { (answered i s).key with lastError := some (.reject n t) } } := by
  cases i <;> rfl

theorem rejectSend_key (n : Nat) (i : Option Inst) (t : Text) (s : State) :
    (rejectSend n i t s).key = { s.key with keyboard := .error, lastError := some (.reject n t) } := by
  rw [rejectSend_eq, setKeyboard_key]
  cases i <;> simp [answered]

@[simp] theorem rejectSend_form (n : Nat) (i : Option Inst) (t : Text) (s : State) :
    (rejectSend n i t s).form = s.form := by
  rw [rejectSend_eq, setKeyboard_form]
  cases i <;> simp [answered]

@[simp] theorem rejectSend_desk (n : Nat) (i : Option Inst) (t : Text) (s : State) :
    (rejectSend n i t s).desk = s.desk := by
  rw [rejectSend_eq, setKeyboard_desk]
  cases i <;> simp [answered]

@[simp] theorem rejectSend_line (n : Nat) (i : Option Inst) (t : Text) (s : State) :
    (rejectSend n i t s).line = s.line := by
  rw [rejectSend_eq, setKeyboard_line]
  cases i <;> simp [answered]

theorem rejectSend_send (n : Nat) (i : Option Inst) (t : Text) (s : State) :
    (rejectSend n i t s).send = SendAssembler.afterReset := (rejectSend_frame n i t s).send_eq

@[simp] theorem rejectSend_cur (n : Nat) (i : Option Inst) (t : Text) (s : State) :
    (rejectSend n i t s).cur = (answered i s).cur := by
  rw [rejectSend_eq, setKeyboard_cur]

theorem answered_cur {x : Inst} {r c top : Nat} (h : seekInst s x = some (r, c, top)) :
    (answered (some x) s).cur = ⟨r, c, top⟩ := by
  rw [answered, placeOn_eq (s := dropSend s) h, placeCursor_cur]

theorem status_mem_rejectSend (n : Nat) (i : Option Inst) (t : Text) (s : State) :
    Item.status ∈ (rejectSend n i t s).comp.items := by
  rw [rejectSend_eq]
  exact status_mem_setKeyboard ..

theorem mem_rejectSend_of_top_ne {n : Nat} {t : Text} (htop : (answered i s).cur.top ≠ s.cur.top) {k : Nat}
    (hk : k < s.form.w) : Item.bodyRow (s.form.h + k) ∈ (rejectSend n i t s).comp.items := by
  rw [rejectSend_eq]
  refine mem_requestIn_of_mem _ _ _ ?_
  cases i with
  | none => exact absurd rfl htop
  | some x => exact mem_placeOn_of_top_ne (s := dropSend s) htop hk

/-! ### The instance that REJECT names -/

theorem rejectInst_field (f : FormStore) : rejectInst 1 a b f =
    if (findField f a.toNat).isSome then some (some (.field a.toNat)) else none := rfl

theorem rejectInst_cell (f : FormStore) : rejectInst 2 a b f =
    if a.toNat < f.d && (findCol f b.toNat).isSome then some (some (.cell a.toNat b.toNat)) else none := rfl

theorem rejectInst_cell_some {f : FormStore} {cd : ColumnDef} (hc : findCol f b.toNat = some cd) (hd : a.toNat < f.d) :
    rejectInst 2 a b f = some (some (.cell a.toNat b.toNat)) := by
  rw [rejectInst_cell, hc, decide_eq_true hd]
  rfl

theorem rejectInst_cell_none {f : FormStore} (h : findCol f b.toNat = none ∨ f.d ≤ a.toNat) :
    rejectInst 2 a b f = none := by
  rw [rejectInst_cell, if_neg]
  rcases h with hc | hd
  · simp [hc]
  · simp [Nat.not_lt.2 hd]

theorem rejectInst_unlisted (h : 2 < form.toNat) (f : FormStore) : rejectInst form a b f = none := by
  have hne : form ≠ 0 := by rintro rfl; exact absurd h (by decide)
  have hnone : instOf form a b = none := by
    unfold instOf
    split <;> first | omega | rfl
  rw [rejectInst, if_neg hne, hnone]

theorem rejectBody_not_locked (h : s.key.keyboard ≠ .locked) :
    rejectBody code form a b msg s = .error .refusedState := if_pos h

theorem rejectBody_no_inst (h : s.key.keyboard = .locked) (hi : rejectInst form a b s.form = none) :
    rejectBody code form a b msg s = .error .badArgument := by
  simp [rejectBody, h, hi]

theorem rejectBody_bad (h : s.key.keyboard = .locked) (hb : code.toNat < 20 ∨ 99 < code.toNat ∨ 30 < msg.length) :
    rejectBody code form a b msg s = .error .badArgument := by
  cases hi : rejectInst form a b s.form with
  | none => exact rejectBody_no_inst h hi
  | some i => simp [rejectBody, h, hi, rejectMessageSize, hb]

theorem rejectBody_ok (h : s.key.keyboard = .locked) (hi : rejectInst form a b s.form = some i) (hlo : 20 ≤ code.toNat)
    (hhi : code.toNat ≤ 99) (hlen : msg.length ≤ 30) :
    rejectBody code form a b msg s = .ok (rejectSend code.toNat i (msg.map plainChar) s) := by
  have hok : ¬(code.toNat < 20 ∨ 99 < code.toNat ∨ rejectMessageSize < msg.length) := by
    unfold rejectMessageSize
    omega
  simp only [rejectBody, h, hi, ne_eq, not_true_eq_false, if_false, if_neg hok]

end Answers

end Sys2Proof.Machine

namespace Sys2Proof.Proofs

open Machine

/-- Settles O28: RELEASE and REJECT with their tests, and what `releaseSend` and `rejectSend` leave of each block. -/
theorem releaseAndRejectAnswerSend : Obligations.ReleaseAndRejectAnswerSend := by
  intro opts code form a b n msg s hp z rejected
  have hz : 1 + (1 + n) = 2 + n := by omega
  have hm : 1 + (4 + msg.length) = 5 + msg.length := by omega
  refine ⟨fun hfree => ⟨?_, ?_⟩, fun hlocked ho => ?_, fun hlocked ho => ?_, fun hlocked hlo hhi hlen => ?_,
    fun hlocked hnone => ?_, fun hlocked hnone => ?_, fun hlocked hbad => ?_⟩
  · exact order_refused hz hp (releaseBody_not_locked hfree)
  · exact order_refused hm hp (rejectBody_not_locked hfree)
  · exact order_refused hz hp (releaseBody_bad hlocked ho)
  · refine ⟨_, order_taken hz hp (releaseBody_ok (s := inFrame _ s) hlocked ho), rfl, releaseSend_key .., ?_, ?_,
      releaseSend_desk .., releaseSend_form .., releaseSend_cur .., status_mem_releaseSend ..⟩
    · exact congrArg SendAssembler.state (releaseSend_send _ _ (inFrame (2 + n) s))
    · exact congrArg SendAssembler.block (releaseSend_send _ _ (inFrame (2 + n) s))
  · have taken : ∀ {form i cur}, rejectInst form a b s.form = some i →
        (answered i (inFrame (5 + msg.length) s)).cur = cur → rejected (exec (.reject code form a b msg) s) cur := by
      rintro form i cur hi rfl
      have hbody := rejectBody_ok (s := inFrame (5 + msg.length) s) hlocked hi hlo hhi hlen
      have hsend := rejectSend_send code.toNat i (msg.map plainChar) (inFrame (5 + msg.length) s)
      exact ⟨_, order_taken hm hp hbody, rfl, congrArg SendAssembler.state hsend, congrArg SendAssembler.block hsend,
        by simp, by simp, by simp, by simp, status_mem_rejectSend ..,
        fun htop k hk => mem_rejectSend_of_top_ne htop hk, rejectSend_key ..⟩
    refine ⟨taken rfl rfl, fun fd hf => ?_, fun cd hc hd hbelow habove => ?_, fun cd hc hd hout => ?_⟩
    · exact taken (by rw [rejectInst_field, hf]; rfl) (answered_cur (seekInst_field hf))
    · exact taken (rejectInst_cell_some hc hd) (answered_cur (seekInst_visible hc hd hbelow habove))
    · exact taken (rejectInst_cell_some hc hd) (answered_cur (seekInst_hidden hc hd hout))
  · exact order_refused hm hp (rejectBody_no_inst hlocked (by rw [rejectInst_field, inFrame_form, hnone]; rfl))
  · exact order_refused hm hp (rejectBody_no_inst hlocked (rejectInst_cell_none hnone))
  · refine order_refused hm hp ?_
    rcases hbad with h | h | h | h
    · exact rejectBody_bad hlocked (.inl h)
    · exact rejectBody_bad hlocked (.inr (.inl h))
    · exact rejectBody_bad hlocked (.inr (.inr h))
    · exact rejectBody_no_inst hlocked (rejectInst_unlisted h _)

end Sys2Proof.Proofs

/-! ## SEND and the signal keys (R124 to R127) -/
namespace Sys2Proof.Machine

section Examined

variable {f : FormStore} {i : Inst} {l c : Nat}

/-! ### The order of examination (R125) -/

theorem offender_eq_some {pre post : List Inst} (h : examined f = pre ++ i :: post)
    (hfull : ∀ x ∈ pre, instEmpty f x = false) (hempty : instEmpty f i = true) : offender f = some i :=
  List.find?_eq_some_iff_append.2 ⟨hempty, pre, post, h, fun x hx => by simp [hfull x hx]⟩

theorem offender_eq_none (h : ∀ x ∈ examined f, instEmpty f x = false) : offender f = none :=
  List.find?_eq_none.2 fun x hx => by simp [h x hx]

/-- A body instance is examined on a line of the group alone. -/
theorem lt_of_offender_cell (h : offender f = some (.cell l c)) : l < f.d := by
  have hmem : Inst.cell l c ∈ examined f := List.mem_of_find?_eq_some h
  have hno (header : Bool) : Inst.cell l c ∉ mandatoryFields f header := by simp [mandatoryFields]
  obtain ⟨l', hl', hcell⟩ : ∃ l' ∈ List.range f.d, Inst.cell l c ∈ mandatoryCells f l' := by
    simpa only [examined, List.mem_append, hno, false_or, or_false, List.mem_flatMap] using hmem
  unfold mandatoryCells at hcell
  split at hcell
  · obtain ⟨cd, -, hcd⟩ := List.mem_map.1 hcell
    cases hcd
    exact List.mem_range.1 hl'
  · cases hcell

end Examined

section Begin

variable {s w : State} {q : List Byte} {i : Inst} {code : Byte} {r c top : Nat}

/-! ### The assembly begun (R126, R127) -/

/-- The record of a send: the key code, and the cursor where it stands (R126). -/
def sendRecord (code : Byte) (s : State) : SendRec :=
  ⟨code, s.cur.row, s.cur.col, lineAt s.form s.cur.top s.cur.row⟩

theorem beginAssembly_eq (hidle : s.comp.rendering = false) (hstatus : Item.status ∉ s.comp.items) (code : Byte) :
    beginAssembly code s = { s with
      key := { s.key with keyboard := .locked }
      send := ⟨.assembling, some (sendRecord code s), [], 0⟩
      comp := { s.comp with items := s.comp.items ++ [.status] } } := by
  have hrequest : requestIn s.comp .status = { s.comp with items := s.comp.items ++ [.status] } := by
    simp [requestIn, hidle, hstatus]
  rw [← hrequest]
  rfl

theorem requestInst_of_no_items (hitems : s.comp.items = []) (hidle : s.comp.rendering = false) (i : Inst) :
    requestInst i s = { s with comp := { s.comp with items := (instItem s.form s.cur.top i).toList } } := by
  unfold requestInst
  cases instItem s.form s.cur.top i with
  | none => rw [Option.toList_none, ← hitems]
  | some it =>
    dsimp only
    rw [request_eq_of_idle hidle]
    simp [requestIn, hitems]

/-- The edit abandoned before a signal key acts: with nothing else to repaint, its item alone is requested. -/
theorem abandonEdit_of_no_items (hitems : s.comp.items = []) (hidle : s.comp.rendering = false) :
    abandonEdit s = { s with
      key := { s.key with edit := none }
      comp := { s.comp with items := (s.key.edit.bind (fun e => instItem s.form s.cur.top e.inst)).toList } } := by
  unfold abandonEdit
  split
  · next e he => rw [requestInst_of_no_items (s := dropEdit s) hitems hidle, he]; rfl
  · next he => rw [he, Option.bind_none, Option.toList_none, ← hitems, ← he]

theorem status_not_mem_editItem (f : FormStore) (top : Nat) (o : Option Edit) :
    Item.status ∉ (o.bind (fun e => instItem f top e.inst)).toList := by
  rcases o with _ | ⟨n | ⟨l, c⟩, buf⟩ <;> simp [instItem]

theorem CompletionFrame.sendRecord_eq (h : CompletionFrame q s w) (code : Byte) :
    sendRecord code w = sendRecord code s := by
  rw [sendRecord, h.cur_eq, h.form_eq]
  rfl

/-- An assembly begun once the edit is completed, against the state before the key. -/
theorem CompletionFrame.beginAssembly_eq (h : CompletionFrame q s w) (hidle : w.comp.rendering = false)
    (hstatus : Item.status ∉ w.comp.items) (code : Byte) : beginAssembly code w = { w with
      key := { w.key with queue := q, keyboard := .locked, edit := none }
      send := ⟨.assembling, some (sendRecord code s), [], 0⟩
      comp := { w.comp with items := w.comp.items ++ [.status] } } := by
  have hkey : { w.key with keyboard := .locked } = { w.key with queue := q, keyboard := .locked, edit := none } := by
    rw [h.key_eq]
  rw [Machine.beginAssembly_eq hidle hstatus, h.sendRecord_eq, hkey]

/-! ### The check after the completion -/

theorem sendChecked_of_none (h : offender s.form = none) : sendChecked s = beginAssembly sendCode s := by
  rw [sendChecked, h]

/-- E06 with the cursor on the offender (R125). -/
theorem sendChecked_of_some (hidle : s.comp.rendering = false) (h : offender s.form = some i)
    (hplace : seekInst s i = some (r, c, top)) :
    sendChecked s = errs .mandatoryEmpty s.key.queue (placeCursor r c top s) := by
  rw [sendChecked, h]
  dsimp only
  rw [placeOn_eq hplace, raiseError_eq_errs _ _ (by simpa using hidle), placeCursor_key]

end Begin

end Sys2Proof.Machine

namespace Sys2Proof.Proofs

open Machine

/-- Settles O38: the key row acts on the completed state of `exists_editCompleted`, where the check of `sendChecked`
decides between E06 and the assembly; and the check is a search in the instances examined. -/
theorem sendAndSignalBeginAssembly : Obligations.SendAndSignalBeginAssembly := by
  refine ⟨?_, fun f => ⟨fun pre i post => offender_eq_some, offender_eq_none⟩⟩
  intro k b q s h hf begun
  refine ⟨?_, ?_, ?_, ?_⟩
  · rintro rfl
    have hquiet := abandonEdit_of_no_items (s := setQueue q s) h.items h.idle
    rw [exec_keyAct (k := .signal) rfl nofun h hf, keyAct, beginAssembly_eq (by rw [hquiet]; exact h.idle), hquiet]
    · rfl
    · rw [hquiet]
      exact status_not_mem_editItem s.form s.cur.top s.key.edit
  · rintro rfl e sh x he hsh hcheck
    rw [exec_keyAct (k := .send) rfl nofun h hf, keyAct, afterCompletion_error (s := setQueue q s) he hsh hcheck,
      raiseError_setQueue h.idle]
  · rintro rfl he hnone
    rw [exec_keyAct (k := .send) rfl nofun h hf, keyAct, afterCompletion_none (s := setQueue q s) he,
      sendChecked_of_none (s := setQueue q s) hnone,
      beginAssembly_eq (s := setQueue q s) h.idle (by simp [setQueue, h.items])]
    simp only [begun, ← he]
    rfl
  · rintro rfl hmay
    obtain ⟨w, hw, hnext⟩ := exists_editCompleted hmay h.idle q
    have hidle : w.comp.rendering = false := by rw [hw.frame.comp_eq]; exact h.idle
    have hstatus : Item.status ∉ w.comp.items := fun hm => by simpa [h.items] using hw.status hm
    have hqueue : w.key.queue = q := by rw [hw.frame.key_eq]
    have hexec := exec_keyAct (i := .send) (k := .send) rfl nofun h hf
    rw [keyAct, hnext] at hexec
    refine ⟨w, hw.readied, fun hnone => ?_, ?_⟩
    · rw [hexec, sendChecked_of_none hnone, hw.frame.beginAssembly_eq hidle hstatus]
      rfl
    have placed : ∀ {i r c top}, offender w.form = some i → seekInst w i = some (r, c, top) →
        ∃ u, exec .send s = .next (settle (errs .mandatoryEmpty q u)) ∧ movedTo q ⟨r, c, top⟩ w u := by
      intro i r c top hoff hplace
      have hsame : setQueue q w = w := by rw [← hqueue]; rfl
      have hmoved := movedTo_placeCursor hidle q r c top
      rw [hsame] at hmoved
      exact ⟨_, by rw [hexec, sendChecked_of_some hidle hoff hplace, hqueue], hmoved⟩
    have hcur := hw.frame.cur_eq
    have hform := hw.frame.form_eq
    have hfield : ∀ n, findField w.form n = findField s.form n := fun n => by rw [hform]; rfl
    have hcol : ∀ c, findCol w.form c = findCol s.form c := fun c => by rw [hform]; rfl
    rw [← hcur, show s.form.h = w.form.h by rw [hform], show s.form.w = w.form.w by rw [hform],
      show s.form.d = w.form.d by rw [hform]]
    simp only [← hfield, ← hcol]
    exact ⟨fun n fd hoff hf => placed hoff (seekInst_field hf), fun l c cd hoff hc =>
      ⟨fun hlo hhi => placed hoff (seekInst_visible hc (lt_of_offender_cell hoff) hlo hhi),
        fun hout => placed hoff (seekInst_hidden hc (lt_of_offender_cell hoff) hout)⟩⟩

end Sys2Proof.Proofs

/-! ## The send block (R129 to R132) -/
namespace Sys2Proof.Machine

section Block

variable {f : FormStore} {r : SendRec} {s : State} {cd : ColumnDef} {sh : Shape}

/-! ### The parts of the block -/

theorem sendBlock_take (f : FormStore) (r : SendRec) :
    (sendBlock f r).take 4 = [r.code, BitVec.ofNat 8 r.row, BitVec.ofNat 8 r.col, lineByte r.line] := rfl

/-- The block of a signal key holds no item (R127). -/
theorem sendBlock_of_signal (h : r.code ≠ sendCode) :
    sendBlock f r = [r.code, BitVec.ofNat 8 r.row, BitVec.ofNat 8 r.col, lineByte r.line, 0, 0] := by
  rw [sendBlock, blockItems, if_neg h]
  rfl

theorem sendBlock_of_send (h : r.code = sendCode) : sendBlock f r =
    [r.code, BitVec.ofNat 8 r.row, BitVec.ofNat 8 r.col, lineByte r.line] ++
      twoBytes ((fieldItemList f).length + (lineItemList f 0 f.lines).length) ++
      (fieldItemList f).flatten ++ (lineItemList f 0 f.lines).flatten := by
  rw [sendBlock, blockItems, if_pos h, List.length_append, List.flatten_append, List.append_assoc _ _ (List.flatten _)]

theorem length_sendBlock_pos (f : FormStore) (r : SendRec) : 0 < (sendBlock f r).length := Nat.zero_lt_succ _

/-! ### Entry columns in column-number order -/

/-- The entry column of a number, if there is one. -/
def entryColumnAt (f : FormStore) (n : Nat) : Option ColumnDef :=
  (findCol f n).filter (fun cd => isEntryKind cd.shape.kind)

theorem entryColumns_eq_filterMap (f : FormStore) : entryColumns f = (List.range 13).filterMap (entryColumnAt f) := by
  refine List.filterMap_congr fun n _ => ?_
  rw [entryColumnAt]
  cases findCol f n <;> rfl

theorem entryColumnAt_eq_some {n : Nat} :
    entryColumnAt f n = some cd ↔ findCol f n = some cd ∧ isEntryKind cd.shape.kind = true := Option.filter_eq_some_iff

theorem number_of_findCol {n : Nat} (h : findCol f n = some cd) : cd.number = n := by
  simpa using List.find?_some h

theorem mem_entryColumns :
    cd ∈ entryColumns f ↔ findCol f cd.number = some cd ∧ isEntryKind cd.shape.kind = true ∧ cd.number ≤ 12 := by
  simp only [entryColumns_eq_filterMap, List.mem_filterMap, List.mem_range, entryColumnAt_eq_some]
  constructor
  · rintro ⟨n, hn, hfind, hkind⟩
    obtain rfl := number_of_findCol hfind
    exact ⟨hfind, hkind, Nat.le_of_lt_succ hn⟩
  · rintro ⟨hfind, hkind, hle⟩
    exact ⟨cd.number, Nat.lt_succ_of_le hle, hfind, hkind⟩

theorem entryColumns_pairwise (f : FormStore) : (entryColumns f).Pairwise (fun a b => a.number < b.number) := by
  rw [entryColumns_eq_filterMap, List.pairwise_filterMap]
  refine List.pairwise_lt_range.imp fun {m n} hmn a ha b hb => ?_
  rwa [number_of_findCol (entryColumnAt_eq_some.1 ha).1, number_of_findCol (entryColumnAt_eq_some.1 hb).1]

/-- A list of the entry columns in rising order is the one of the block: its members fix it. -/
theorem entryColumns_eq {cols : List ColumnDef} (hrise : cols.Pairwise (fun a b => a.number < b.number))
    (hmem : ∀ cd, cd ∈ cols ↔ findCol f cd.number = some cd ∧ isEntryKind cd.shape.kind = true ∧ cd.number ≤ 12) :
    entryColumns f = cols := by
  have hirrefl : Std.Irrefl (fun a b : ColumnDef => a.number < b.number) := ⟨fun a => Nat.lt_irrefl _⟩
  have hantisymm : Std.Antisymm (fun a b : ColumnDef => a.number < b.number) :=
    ⟨fun a b hab hba => absurd hba (Nat.lt_asymm hab)⟩
  exact (entryColumns_pairwise f).eq_of_mem_iff hrise fun cd => mem_entryColumns.trans (hmem cd).symm

/-! ### Items -/

theorem fieldModified_eq (f : FormStore) (fd : FieldDef) :
    fieldModified f fd = (valFind f.vals fd.number).any (·.modified) := by
  rw [fieldModified]
  cases valFind f.vals fd.number <;> rfl

theorem lineItemList_eq (f : FormStore) (i : Nat) (lns : List LineRec) : lineItemList f i lns =
    ((lns.zipIdx i).filter (fun p => p.1.modified)).map (fun p => lineItem f p.2 p.1) := by
  induction lns generalizing i with
  | nil => rfl
  | cons ln lns ih =>
    rw [lineItemList, ih, List.zipIdx_cons, List.filter_cons]
    cases ln.modified <;> rfl

/-- The value of a line's record is that of the instance on the line. -/
theorem lineValue_eq {l : Nat} {ln : LineRec} (h : f.lines[l]? = some ln) (c : Nat) :
    lineValue ln c = (instValue f (.cell l c)).getD .absent := by
  rw [instValue, h]
  rfl

theorem ofNat_bit (b : Bool) : BitVec.ofNat 8 (bit b) = if b then 1 else 0 := by cases b <;> rfl

/-! ### Texts of values (R130) -/

theorem itemText_text (hk : sh.kind = .text) (t : Text) :
    itemText sh (.text t) = t.rdropWhile (fun b => decide (b = blank)) := by
  simp only [itemText, hk, List.rdropWhile]

theorem itemText_of_not_text (hk : sh.kind ≠ .text) (v : Value) : itemText sh v = canonicalText sh.decimals v := by
  unfold itemText
  split
  · next h => exact absurd h hk
  · rfl

/-- A TEXT value is its item's text and the blanks after it. -/
theorem eq_itemText_append_blanks (hk : sh.kind = .text) (t : Text) :
    ∃ n, t = itemText sh (.text t) ++ List.replicate n blank := by
  refine ⟨(t.rtakeWhile (fun b => decide (b = blank))).length, ?_⟩
  have hblank : t.rtakeWhile (fun b => decide (b = blank)) = List.replicate _ blank :=
    List.eq_replicate_of_mem fun b hb => of_decide_eq_true (List.mem_rtakeWhile_imp (p := fun b => decide (b = blank)) hb)
  rw [itemText_text hk, ← hblank, List.rdropWhile_append_rtakeWhile]

theorem getLast?_itemText (hk : sh.kind = .text) (t : Text) : (itemText sh (.text t)).getLast? ≠ some blank := by
  rw [itemText_text hk]
  intro hlast
  have hne : t.rdropWhile (fun b => decide (b = blank)) ≠ [] := by rintro e; simp [e] at hlast
  refine List.rdropWhile_last_not _ t hne ?_
  rw [List.getLast?_eq_some_getLast hne] at hlast
  simpa using hlast

/-! ### The end of an assembly (R131, R132) -/

variable (ha : s.send.state = .assembling) (hr : s.send.record = some r)
include ha hr

theorem exec_assemblyComplete_fits (hfit : (sendBlock s.form r).length ≤ 2048) : exec .assemblyComplete s =
    .next (settle { s with
      send := { s.send with state := .ready, block := sendBlock s.form r, readPos := 0 } }) := by
  show execAssemblyComplete s = _
  simp only [execAssemblyComplete, ha, hr, blockSize, if_neg (Nat.not_lt.2 hfit)]
  rfl

theorem exec_assemblyComplete_large (hlarge : 2048 < (sendBlock s.form r).length) :
    exec .assemblyComplete s = .next (settle (blockTooLarge s)) := by
  show execAssemblyComplete s = _
  simp only [execAssemblyComplete, ha, hr, blockSize, if_pos hlarge]
  rfl

end Block

end Sys2Proof.Machine

namespace Sys2Proof.Proofs

open Machine

/-- Settles O39: the ends of an assembly by the length of its block, and the block item by item. -/
theorem assemblyBuildsBlock : Obligations.AssemblyBuildsBlock := by
  refine ⟨fun r s ha hr => ⟨fun hfit => ⟨exec_assemblyComplete_fits ha hr hfit, ?_⟩, fun hlarge => ?_,
    sendBlock_take s.form r, sendBlock_of_signal⟩, ?_, fun sh t => ⟨fun hk => ?_, fun hk => ?_, fun hk => ?_⟩⟩
  · simp [blockReady, length_sendBlock_pos]
  · exact ⟨_, exec_assemblyComplete_large ha hr hlarge, rfl, rfl, rfl, rfl, rfl, rfl, status_mem_setKeyboard ..⟩
  · intro r f cols hcode hrise hmem part fields lines
    have hfields : fieldItemList f = fields :=
      congrArg (List.map _) (List.filter_congr fun fd _ => fieldModified_eq f fd)
    have hlines : lineItemList f 0 f.lines = lines := by
      rw [lineItemList_eq]
      refine List.map_congr_left fun p hp => ?_
      have hline := List.mem_zipIdx_iff_getElem?.1 (List.mem_of_mem_filter hp)
      simp only [lineItem, entryColumns_eq hrise hmem, lineValue_eq hline, ofNat_bit]
      rfl
    rw [sendBlock_of_send hcode, hfields, hlines]
    rfl
  · obtain ⟨n, hn⟩ := eq_itemText_append_blanks hk t
    exact ⟨n, hn, getLast?_itemText hk t⟩
  · exact itemText_of_not_text (by simp [hk]) (.text t)
  · have hno : sh.kind ≠ .text := by simp [hk]
    exact ⟨itemText_of_not_text hno .absent, itemText_of_not_text hno .overflow,
      fun v => itemText_of_not_text hno (.number v)⟩

end Sys2Proof.Proofs

/-! ## Events of the line (R141, R142, R147, R158) -/
namespace Sys2Proof.Machine

section LineEvents

variable {s : State}

/-- A station in SEND leaves the line to others in loopback only (R156). -/
theorem ownFrame_eq_false_iff (l : DeskLineUnit) : ownFrame l = false ↔ l.tx ≠ .send ∨ l.loopback = true := by
  simp only [ownFrame, Bool.and_eq_false_iff, decide_eq_false_iff_not, Bool.not_eq_false']

theorem watchesLine_iff (s : State) : watchesLine s = true ↔ s.tp.phase = .ready ∧ s.line.rxOpen = true ∧
    s.line.breakHold = false ∧ s.line.loopback = false ∧ s.line.tx ≠ .send := by
  simp only [watchesLine, Bool.and_eq_true, decide_eq_true_eq, Bool.not_eq_true', ownFrame_eq_false_iff]
  constructor
  · rintro ⟨⟨⟨⟨hp, hrx⟩, hbreak⟩, hloop⟩, hsend | hloop'⟩
    · exact ⟨hp, hrx, hbreak, hloop, hsend⟩
    · rw [hloop] at hloop'; cases hloop'
  · rintro ⟨hp, hrx, hbreak, hloop, hsend⟩
    exact ⟨⟨⟨⟨hp, hrx⟩, hbreak⟩, hloop⟩, .inl hsend⟩

/-- A falling edge on the line, in normal mode (R141). -/
theorem edgePossible_of_normal (hp : s.tp.phase = .ready) (hbreak : s.line.breakHold = false)
    (hloop : s.line.loopback = false) (hsend : s.line.tx ≠ .send) : edgePossible s = true := by
  have hown : ownFrame s.line = false := (ownFrame_eq_false_iff _).2 (.inl hsend)
  simp [edgePossible, hp, hbreak, hloop, hown]

theorem lineQuiet_iff (s : State) : lineQuiet s = true ↔
    s.tp.phase = .ready ∧ s.line.breakHold = false ∧ s.line.sampling = false := by
  simp only [lineQuiet, Bool.and_eq_true, decide_eq_true_eq, Bool.not_eq_true', and_assoc]

/-- The gap timer runs out over a frame in ACCEPT with nothing left in the FIFO (R147). -/
theorem execGapTimerExpiry_of_accept (hgap : s.line.gapRunning = true) (hrx : s.line.rxState = .accept)
    (hfifo : s.line.fifo = []) : execGapTimerExpiry s = .next (settle { s with
      line := { s.line with
        gapRunning := false, gapRecorded := true, rxState := .hunt, buffer := []
        flags := { s.line.flags with timeout := true } } }) := by
  rw [execGapTimerExpiry, if_pos hgap]
  dsimp only
  rw [if_pos ⟨hrx, hfifo⟩]
  rfl

theorem execGapTimerExpiry_of_not_accept (hgap : s.line.gapRunning = true)
    (hother : s.line.rxState ≠ .accept ∨ s.line.fifo ≠ []) : execGapTimerExpiry s = .next (settle { s with
      line := { s.line with gapRunning := false, gapRecorded := true } }) := by
  rw [execGapTimerExpiry, if_pos hgap]
  dsimp only
  rw [if_neg (not_and_or.2 hother)]
  rfl

end LineEvents

end Sys2Proof.Machine

namespace Sys2Proof.Proofs

open Machine

/-- Settles O42: each event in the states where it can come. -/
theorem lineEventsAct : Obligations.LineEventsAct := by
  intro s hp
  refine ⟨fun hrx hbreak hloop hsend => ?_, fun hbreak => ?_, fun hbreak hloop hsend => ?_, fun hrx => ?_,
    fun hbreak hsampling hjoined => ?_, fun hgap hrx hfifo => ?_, fun hgap hother => ?_⟩
  · show execBreakDetected s = _
    exact if_pos ((watchesLine_iff s).2 ⟨hp, hrx, hbreak, hloop, hsend⟩)
  · show execLineHighAfterBreak s = _
    exact if_pos hbreak
  · show execStartBit s = _
    exact if_pos (edgePossible_of_normal hp hbreak hloop hsend)
  · show execReceiveListenComplete s = _
    exact if_pos ⟨hp, hrx⟩
  · show execJoinListenComplete s = _
    exact if_pos ⟨(lineQuiet_iff s).2 ⟨hp, hbreak, hsampling⟩, hjoined⟩
  · exact execGapTimerExpiry_of_accept hgap hrx hfifo
  · exact execGapTimerExpiry_of_not_accept hgap hother

end Sys2Proof.Proofs

/-! ## Received characters (R141, R143, R156) -/
namespace Sys2Proof.Machine

section Characters

variable {data : Byte} {mark framing : Bool} {s : State}

theorem loopedChar_eq_some_iff (l : DeskLineUnit) (c : Byte × Bool) :
    loopedChar l = some c ↔ ∃ f, l.frame = some f ∧ (frameChars f)[l.looped]? = some c := Option.bind_eq_some_iff

theorem canReceive_of_normal (hp : s.tp.phase = .ready) (hrx : s.line.rxOpen = true) (hbreak : s.line.breakHold = false)
    (hloop : s.line.loopback = false) (hsend : s.line.tx ≠ .send) : canReceive s data mark framing = true := by
  have hown : ownFrame s.line = false := (ownFrame_eq_false_iff _).2 (.inl hsend)
  simp [canReceive, hp, hrx, hbreak, hown, hloop]

/-- In loopback the receiver takes the next character sent, and nothing else (R156). -/
theorem canReceive_of_loopback (hp : s.tp.phase = .ready) (hrx : s.line.rxOpen = true) (hbreak : s.line.breakHold = false)
    (hloop : s.line.loopback = true) : canReceive s data mark framing = true ↔
      s.line.tx = .send ∧ framing = false ∧ loopedChar s.line = some (data, mark) := by
  have hown : ownFrame s.line = false := (ownFrame_eq_false_iff _).2 (.inr hloop)
  simp [canReceive, hp, hrx, hbreak, hown, hloop, and_assoc]

variable {l : DeskLineUnit}

/-- A character that finds room joins the FIFO (R143). -/
theorem acceptChar_of_room (c : RxChar) (hroom : l.fifo.length < 16) :
    acceptChar c l = { l with fifo := l.fifo ++ [c] } := if_pos hroom

/-- At a full FIFO it is lost with everything that was being built (R143). -/
theorem acceptChar_of_full (c : RxChar) (hfull : 16 ≤ l.fifo.length) : acceptChar c l =
    { l with fifo := [], buffer := [], rxState := .hunt, flags := { l.flags with overrun := true } } :=
  if_neg (Nat.not_lt.2 hfull)

theorem exec_characterReceived (hcan : canReceive s data mark framing = true) :
    exec (.characterReceived data mark framing) s = .next (settle { s with
      line := acceptChar { data := data, mark := mark, framing := framing, late := s.line.gapRecorded }
        (endCharacter framing s.line) }) := if_pos hcan

theorem exec_characterReceived_room (hcan : canReceive s data mark framing = true)
    (hend : endCharacter framing s.line = l) (hroom : s.line.fifo.length < 16) :
    exec (.characterReceived data mark framing) s = .next (settle { s with
      line := { l with
        fifo := s.line.fifo ++ [{ data := data, mark := mark, framing := framing, late := s.line.gapRecorded }] } }) := by
  subst hend
  rw [exec_characterReceived hcan, acceptChar_of_room (l := endCharacter framing s.line) _ hroom]
  rfl

theorem exec_characterReceived_full (hcan : canReceive s data mark framing = true)
    (hend : endCharacter framing s.line = l) (hfull : 16 ≤ s.line.fifo.length) :
    exec (.characterReceived data mark framing) s = .next (settle { s with
      line := { l with fifo := [], buffer := [], rxState := .hunt, flags := { l.flags with overrun := true } } }) := by
  subst hend
  rw [exec_characterReceived hcan, acceptChar_of_full (l := endCharacter framing s.line) _ hfull]

/-- The end of a character in normal mode starts the gap timer (R147). -/
theorem endCharacter_of_normal (hloop : l.loopback = false) (hsend : l.tx ≠ .send) :
    endCharacter framing l = { l with
      sampling := false, gapRunning := true, gapRecorded := false
      flags := { l.flags with framing := l.flags.framing || framing } } := by
  cases framing <;> simp [endCharacter, hloop, hsend]

/-- The end of a looped character counts it and leaves the gap timer stopped (R147, R156). -/
theorem endCharacter_of_looped (hloop : l.loopback = true) (hsend : l.tx = .send) :
    endCharacter false l = { l with
      sampling := false, gapRunning := false, gapRecorded := false, looped := l.looped + 1 } := by
  simp [endCharacter, hloop, hsend]

end Characters

end Sys2Proof.Machine

namespace Sys2Proof.Proofs

open Machine

/-- Settles O41: a character that the receiver can take, by the room in the FIFO. -/
theorem receiverTakesCharacters : Obligations.ReceiverTakesCharacters := by
  intro data mark framing s hp hrx hbreak joins
  have joins_of {l : DeskLineUnit} (hcan : canReceive s data mark framing = true)
      (hend : endCharacter framing s.line = l) : joins l framing :=
    ⟨exec_characterReceived_room hcan hend, exec_characterReceived_full hcan hend⟩
  refine ⟨fun hloop hsend => ?_, fun hloop hsend hframing f hf hchar => ?_, fun hloop hother => ?_⟩
  · exact joins_of (canReceive_of_normal hp hrx hbreak hloop hsend) (endCharacter_of_normal hloop hsend)
  · have hcan := (canReceive_of_loopback hp hrx hbreak hloop).2
      ⟨hsend, hframing, (loopedChar_eq_some_iff _ _).2 ⟨f, hf, hchar⟩⟩
    subst hframing
    exact joins_of hcan (endCharacter_of_looped hloop hsend)
  · refine if_neg fun hcan => ?_
    obtain ⟨hsend, hframing, hchar⟩ := (canReceive_of_loopback hp hrx hbreak hloop).1 hcan
    obtain ⟨f, hf, hnext⟩ := (loopedChar_eq_some_iff _ _).1 hchar
    rcases hother with hidle | hlow | hother
    · exact hidle hsend
    · rw [hframing] at hlow; cases hlow
    · exact hother f hf hnext

end Sys2Proof.Proofs

/-! ## The transmitter (R149 to R153, R155, R172) -/
namespace Sys2Proof.Machine

section Transmitter

variable {s : State} {p : Place} {f : Frame}

/-! ### DEFER to SEND -/

theorem exec_accessGapReached (hquiet : lineQuiet s = true) (hdefer : s.line.tx = .defer)
    (hsel : s.line.selection = some p) (hsupply : supply s.desk (ownNumber s.line) p = some f) :
    exec .accessGapReached s = .next (settle { s with line := enterSend f s.line }) := by
  show execAccessGapReached s = _
  rw [execAccessGapReached, if_pos ⟨hquiet, hdefer⟩, hsel, Option.bind_some, hsupply]
  rfl

/-- In normal mode the entry to SEND abandons a frame in ACCEPT with LENGTH (R146). -/
theorem enterSend_of_accept {l : DeskLineUnit} (hrx : l.rxState = .accept) (hloop : l.loopback = false) :
    enterSend f l = { l with
      tx := .send, need := 0, taken := true, frame := some f, looped := 0, gapRunning := false, sampling := false
      rxState := .hunt, buffer := [], flags := { l.flags with length := true } } := if_pos ⟨hloop, hrx⟩

theorem enterSend_of_not_accept {l : DeskLineUnit} (hother : l.rxState ≠ .accept ∨ l.loopback = true) :
    enterSend f l = { l with
      tx := .send, need := 0, taken := true, frame := some f, looped := 0, gapRunning := false, sampling := false } :=
  if_neg (not_and_or.2 (hother.symm.imp_left fun h => by simp [h]))

/-! ### The selection retired (R170, R172) -/

/-- The Desk Exchange with the selected place emptied where it is still marked taken. -/
def deskRetired (s : State) (p : Place) : DeskExchange := if s.line.taken then emptyPlace s.desk p else s.desk

/-- Everything the retiring of a selection does: the place, the marks, and SPACE when the queue goes from 6 to 5. -/
theorem retire_eq (hsel : s.line.selection = some p) : retire s = { s with
    tp := { s.tp with
      edge := { s.tp.edge with
        space := s.tp.edge.space || decide (s.desk.messages.length = 6 ∧ (deskRetired s p).messages.length = 5) } }
    line := { s.line with selection := none, taken := false, frame := none }
    desk := deskRetired s p } := by
  unfold retire
  rw [hsel]
  dsimp only
  rw [show (if s.line.taken then emptyPlace s.desk p else s.desk) = deskRetired s p from rfl]
  simp only [messageQueueSize, Nat.reduceEqDiff]
  split
  · next h => simp [raiseSpace, h]
  · next h => simp [h]

/-! ### The end of SEND -/

/-- What the end of a frame leaves: a transmitter in YIELD with nothing selected, and the place retired (R151, R172). -/
theorem enterYield_line (hsel : s.line.selection = some p) : (enterYield s).line = leaveSend { s.line with
    tx := .yield, need := 32, attempts := 0, frame := none, selection := none, taken := false } := by
  rw [enterYield, retire_eq hsel]
  rfl

theorem enterYield_desk (hsel : s.line.selection = some p) : (enterYield s).desk = deskRetired s p :=
  congrArg State.desk (retire_eq hsel)

theorem enterYield_space (hsel : s.line.selection = some p) : (enterYield s).tp.edge.space = true ↔
    s.tp.edge.space = true ∨ (s.desk.messages.length = 6 ∧ (enterYield s).desk.messages.length = 5) := by
  have hspace : (enterYield s).tp.edge.space = (s.tp.edge.space ||
      decide (s.desk.messages.length = 6 ∧ (deskRetired s p).messages.length = 5)) :=
    congrArg (fun t => t.tp.edge.space) (retire_eq hsel)
  rw [hspace, enterYield_desk hsel, Bool.or_eq_true, decide_eq_true_eq]

/-- The sixth collision ends the frame as its completion does, and records it as dropped (R152). -/
theorem dropFrame_line (hsel : s.line.selection = some p) (hf : s.line.frame = some f) :
    (dropFrame s).line = leaveSend { s.line with
      tx := .yield, need := 32, attempts := 0, frame := none, selection := none, taken := false
      flags := { s.line.flags with dropped := true }, lastDropped := some f.kind } := by
  rw [dropFrame, hf]
  exact enterYield_line hsel

/-- In loopback a frame is complete when no character of it is left to come round (R156). -/
theorem charsDelivered_iff (l : DeskLineUnit) : charsDelivered l = true ↔
    (l.loopback = true → l.rxOpen = true → ∀ f, l.frame = some f → (frameChars f).length ≤ l.looped) := by
  have hnone : loopedChar l = none ↔ ∀ f, l.frame = some f → (frameChars f).length ≤ l.looped := by
    simp [loopedChar, Option.bind_eq_none_iff]
  rw [← hnone, charsDelivered]
  cases l.loopback <;> cases l.rxOpen <;> simp

theorem exec_frameSent (hsend : s.line.tx = .send) (hall : charsDelivered s.line = true) :
    exec .frameSent s = .next (settle (enterYield s)) := if_pos ⟨hsend, hall⟩

theorem exec_frameSent_of_looping (hall : charsDelivered s.line = false) : exec .frameSent s = .next s :=
  if_neg fun h => by simp [hall] at h

theorem exec_collision_backoff (hsend : s.line.tx = .send) (hloop : s.line.loopback = false)
    (hk : s.line.attempts < 5) : exec .collision s = .next (settle (enterBackoff s)) := by
  show execCollision s = _
  have hfewer : s.line.attempts + 1 < dropAttempts := Nat.succ_lt_succ hk
  rw [execCollision, if_pos ⟨hsend, hloop⟩, if_pos hfewer]
  rfl

theorem exec_collision_drop (hsend : s.line.tx = .send) (hloop : s.line.loopback = false)
    (hk : 5 ≤ s.line.attempts) : exec .collision s = .next (settle (dropFrame s)) := by
  show execCollision s = _
  have hsixth : ¬s.line.attempts + 1 < dropAttempts := Nat.not_lt.2 (Nat.succ_le_succ hk)
  rw [execCollision, if_pos ⟨hsend, hloop⟩, if_neg hsixth]
  rfl

theorem exec_yieldComplete (hquiet : lineQuiet s = true) (hyield : s.line.tx = .yield) :
    exec .yieldComplete s = .next (settle (askArbiter s)) := if_pos ⟨hquiet, hyield⟩

end Transmitter

end Sys2Proof.Machine

namespace Sys2Proof.Proofs

open Machine

/-- Settles O44: the transmitter's states in turn. -/
theorem transmitterSendsAndRetires : Obligations.TransmitterSendsAndRetires := by
  intro s hp left spaceRight
  have hleft (l : DeskLineUnit) (hheld : l.held = s.line.held) : leaveSend l = left l := by
    simp only [leaveSend, left, hheld]
    cases s.line.held <;> rfl
  refine ⟨fun hbreak hsampling hdefer p f hsel hsupply => ?_, fun hsend hall p hsel => ?_,
    fun hsend hloop hrx f c hf hc => ?_, fun hsend hloop hk => ?_, fun hsend hloop hk p f hsel hf => ?_,
    fun hbackoff hbreak => ?_, fun hbreak hsampling hyield => ?_⟩
  · have hexec := exec_accessGapReached ((lineQuiet_iff s).2 ⟨hp, hbreak, hsampling⟩) hdefer hsel hsupply
    exact ⟨fun hother => by rw [hexec, enterSend_of_not_accept hother],
      fun hrx hloop => by rw [hexec, enterSend_of_accept hrx hloop]⟩
  · exact ⟨_, exec_frameSent hsend ((charsDelivered_iff _).2 hall), (enterYield_line hsel).trans (hleft _ rfl),
      enterYield_desk hsel, enterYield_space hsel, retire_form s, retire_key s, retire_comp s, retire_send s, retire_cur s⟩
  · refine exec_frameSent_of_looping (Bool.eq_false_iff.2 fun hall => ?_)
    have hend := (charsDelivered_iff _).1 hall hloop hrx f hf
    rw [List.getElem?_eq_none hend] at hc
    cases hc
  · rw [exec_collision_backoff hsend hloop hk, enterBackoff, hleft] <;> rfl
  · exact ⟨_, exec_collision_drop hsend hloop hk, (dropFrame_line hsel hf).trans (hleft _ rfl), enterYield_desk hsel,
      enterYield_space hsel, retire_form _, retire_key _, retire_comp _, retire_send _, retire_cur _⟩
  · exact if_pos ⟨hp, hbackoff, hbreak⟩
  · refine ⟨_, exec_yieldComplete ((lineQuiet_iff s).2 ⟨hp, hbreak, hsampling⟩) hyield, ?_⟩
    rcases askArbiter_cases s with ⟨p, hoffer, hask⟩ | ⟨hnone, hask⟩
    · simp [hask, hoffer]
    · simp [hask, hnone]

end Sys2Proof.Proofs

/-! ## Bits and characters of a frame (R140, R141, R144) -/
namespace Sys2Proof.Machine

section Bits

/-! ### Blocks of one length -/

/-- Of parts of one length joined, the `k`th stands at `k` times that length. -/
theorem flatMap_part {α β : Type} {g : α → List β} {m : Nat} (hg : ∀ x, (g x).length = m) {xs : List α} {k : Nat} {c : α}
    (hc : xs[k]? = some c) : ((xs.flatMap g).drop (m * k)).take m = g c := by
  induction xs generalizing k with
  | nil => simp at hc
  | cons x xs ih =>
    cases k with
    | zero =>
      obtain rfl : x = c := by simpa using hc
      simpa using List.take_left' (hg x)
    | succ k =>
      have hskip : m * (k + 1) = (g x).length + m * k := by rw [hg x, Nat.mul_succ, Nat.add_comm]
      rw [List.flatMap_cons, hskip, List.drop_length_add_append]
      exact ih (by simpa using hc)

theorem length_flatMap_parts {α β : Type} {g : α → List β} {m : Nat} (hg : ∀ x, (g x).length = m) (xs : List α) :
    (xs.flatMap g).length = m * xs.length := by
  simp [List.length_flatMap, hg, Nat.mul_comm]

/-! ### One character -/

/-- The data bits of a character, least significant first, give its byte back. -/
theorem byteOfBits_getLsbD (d : Byte) : byteOfBits ((List.range 8).map d.getLsbD) = d := by
  revert d
  decide +kernel

theorem charBits_eq (d : Byte) (m : Bool) : charBits (d, m) = [false, d.getLsbD 0, d.getLsbD 1, d.getLsbD 2,
    d.getLsbD 3, d.getLsbD 4, d.getLsbD 5, d.getLsbD 6, d.getLsbD 7, m, true] := rfl

theorem getLast?_charBits (c : Byte × Bool) : (charBits c).getLast? = some true := rfl

/-- A character received with a stop sample of either level (R141). -/
theorem sampledChar_stop (d : Byte) (m stop : Bool) :
    sampledChar ((charBits (d, m)).set 10 stop) = some (d, m, !stop) :=
  congrArg (fun b => some (b, m, !stop)) (byteOfBits_getLsbD d)

/-! ### A whole frame -/

variable (f : Frame)

theorem length_frameBytes : (frameBytes f).length = 5 + f.payload.length := by
  simp only [frameBytes, frameBody, List.length_append, List.length_cons, List.length_nil]
  omega

/-- The characters of a frame: the head with its mark, the others without (R144). -/
theorem frameChars_eq : frameChars f = (f.dest, true) :: (frameBytes f).tail.map (fun b => (b, false)) := rfl

theorem length_frameChars : (frameChars f).length = 5 + f.payload.length := by
  rw [frameChars_eq, List.length_cons, List.length_map, List.length_tail, length_frameBytes]
  omega

theorem length_frameBits : (frameBits f).length = 11 * (5 + f.payload.length) := by
  rw [frameBits, length_flatMap_parts charBits_length, length_frameChars]

/-- A frame ends with the stop bit of its last character (R140). -/
theorem getLast?_frameBits : (frameBits f).getLast? = some true := by
  obtain ⟨cs, c, hlast⟩ := List.eq_nil_or_concat (frameChars f) |>.resolve_left (by rw [frameChars_eq]; simp)
  simp [frameBits, hlast, getLast?_charBits, List.getLast?_append]

theorem getElem?_frameBits {k j : Nat} {c : Byte × Bool} (hc : (frameChars f)[k]? = some c) (hj : j < 11) :
    (frameBits f)[11 * k + j]? = (charBits c)[j]? := by
  rw [← flatMap_part charBits_length hc, List.getElem?_take_of_lt hj, List.getElem?_drop, frameBits]

theorem sentLevel_of_send {l : DeskLineUnit} {n : Nat} {b : Bool} (hsend : l.tx = .send) (hf : l.frame = some f)
    (hb : (frameBits f)[n]? = some b) : sentLevel l n = b := by
  simp [sentLevel, hsend, hf, hb]

theorem sentLevel_of_not_send {l : DeskLineUnit} (n : Nat) (hsend : l.tx ≠ .send) : sentLevel l n = true := if_neg hsend

end Bits

end Sys2Proof.Machine

/-! ## The frame assembler (R144 to R148) -/
namespace Sys2Proof.Machine

section Assembler

variable {c : RxChar} {l : DeskLineUnit}

/-! ### What assembling leaves alone -/

/-- The frame assembler works on the receiver state, its buffer, the link flags and the holding place. -/
structure Assembles (l m : DeskLineUnit) : Prop where
  rest : m = { l with rxState := m.rxState, buffer := m.buffer, flags := m.flags, handoff := m.handoff }

theorem Assembles.trans {l m o : DeskLineUnit} (h : Assembles l m) (g : Assembles m o) : Assembles l o where
  rest := by rw [g.rest, h.rest]

theorem Assembles.fifo {m : DeskLineUnit} (h : Assembles l m) : m.fifo = l.fifo := congrArg (·.fifo) h.rest
theorem Assembles.tx {m : DeskLineUnit} (h : Assembles l m) : m.tx = l.tx := congrArg (·.tx) h.rest
theorem Assembles.selection {m : DeskLineUnit} (h : Assembles l m) : m.selection = l.selection :=
  congrArg (·.selection) h.rest

theorem assembles_abandonFrame (l : DeskLineUnit) : Assembles l (abandonFrame l) := ⟨rfl⟩

theorem assembles_flagLength (l : DeskLineUnit) : Assembles l (flagLength l) := ⟨rfl⟩

theorem assembles_judgeHead (c : RxChar) (l : DeskLineUnit) : Assembles l (judgeHead c l) := by
  unfold judgeHead
  repeat' split
  all_goals exact ⟨rfl⟩

theorem assembles_validate (bytes : List Byte) (l : DeskLineUnit) : Assembles l (validate bytes l) := by
  unfold validate
  dsimp only
  repeat' split
  all_goals exact ⟨rfl⟩

theorem assembles_checkFrame (l : DeskLineUnit) : Assembles l (checkFrame l) := by
  unfold checkFrame
  dsimp only
  split
  · exact (assembles_abandonFrame l).trans (assembles_validate ..)
  · exact ⟨rfl⟩

theorem assembles_appendChar (b : Byte) (l : DeskLineUnit) : Assembles l (appendChar b l) := by
  have happend : Assembles l { l with buffer := l.buffer ++ [b] } := ⟨rfl⟩
  unfold appendChar
  dsimp only
  repeat' split
  · exact happend
  · exact ⟨rfl⟩
  · exact happend.trans (assembles_checkFrame _)
  · exact happend

theorem assembles_assemble (c : RxChar) (l : DeskLineUnit) : Assembles l (assemble c l) := by
  unfold assemble
  repeat' split
  · exact assembles_judgeHead c l
  · exact assembles_judgeHead c l
  · exact Assembles.trans (m := abandonFrame { l with flags := { l.flags with timeout := true } }) ⟨rfl⟩
      (assembles_judgeHead c _)
  · exact assembles_abandonFrame l
  · exact (assembles_abandonFrame l).trans ((assembles_flagLength _).trans (assembles_judgeHead c _))
  · exact assembles_appendChar c.data l

/-- The head of the FIFO is taken while the holding place is empty (R143). -/
theorem exec_frameAssemblerCharacter {s : State} {cs : List RxChar} (hfifo : s.line.fifo = c :: cs)
    (hempty : s.line.handoff = none) : exec .frameAssemblerCharacter s =
      .next (settle { s with line := assemble c { s.line with fifo := cs } }) := by
  show execFrameAssemblerCharacter s = _
  simp only [execFrameAssemblerCharacter, hfifo, hempty]
  rfl

/-! ### HUNT and SKIP -/

theorem acceptsHead_iff (l : DeskLineUnit) (dest : Byte) : acceptsHead l dest = true ↔
    dest.toNat = 31 ∨ (dest.toNat = l.station.toNat ∧ l.station.toNat < 30) := by
  have hall : dest = allStations ↔ dest.toNat = 31 := BitVec.toNat_inj.symm
  simp only [acceptsHead, Bool.or_eq_true, Bool.and_eq_true, decide_eq_true_eq, hall]
  rfl

theorem assemble_of_not_accept (c : RxChar) (h : l.rxState ≠ .accept) : assemble c l = judgeHead c l := by
  unfold assemble
  split
  · rfl
  · rfl
  · next h' => exact absurd h' h

theorem judgeHead_of_other (h : c.mark = false ∨ c.framing = true) : judgeHead c l = l :=
  if_neg (by rintro ⟨hmark, hframing⟩; simp [hmark, hframing] at h)

theorem judgeHead_of_accepted (hmark : c.mark = true) (hframing : c.framing = false)
    (haccept : acceptsHead l c.data = true) : judgeHead c l = { l with rxState := .accept, buffer := [c.data] } := by
  rw [judgeHead, if_pos ⟨hmark, hframing⟩, if_pos haccept]

theorem judgeHead_of_refused (hmark : c.mark = true) (hframing : c.framing = false)
    (hrefuse : ¬acceptsHead l c.data = true) : judgeHead c l = { l with rxState := .skip, buffer := [] } := by
  rw [judgeHead, if_pos ⟨hmark, hframing⟩, if_neg hrefuse]

/-! ### ACCEPT -/

section Accept

variable (hrx : l.rxState = .accept)
include hrx

/-- A late character abandons the frame with TIMEOUT and is judged as in HUNT (R146). -/
theorem assemble_of_late (hlate : c.late = true) : assemble c l =
    assemble c { l with rxState := .hunt, buffer := [], flags := { l.flags with timeout := true } } := by
  rw [assemble, hrx]
  exact if_pos hlate

theorem assemble_of_framing (hlate : c.late = false) (hframing : c.framing = true) :
    assemble c l = { l with rxState := .hunt, buffer := [] } := by
  simp only [assemble, hrx, hlate, hframing]
  rfl

/-- A head abandons the frame with LENGTH and is judged as in HUNT (R146). -/
theorem assemble_of_mark (hlate : c.late = false) (hframing : c.framing = false) (hmark : c.mark = true) :
    assemble c l =
      assemble c { l with rxState := .hunt, buffer := [], flags := { l.flags with length := true } } := by
  simp only [assemble, hrx, hlate, hframing, hmark]
  rfl

theorem assemble_of_plain (hlate : c.late = false) (hframing : c.framing = false) (hmark : c.mark = false) :
    assemble c l = appendChar c.data l := by
  simp only [assemble, hrx, hlate, hframing, hmark]
  rfl

end Accept

section Append

variable {b : Byte} {bs : List Byte} (hbs : l.buffer ++ [b] = bs)
include hbs

/-- A character that neither is a length above 72 nor fills the frame joins the buffer (R146). -/
theorem appendChar_of_short (hshort : bs.length < 4 ∨ (bs.length = 4 ∧ (bs.getD 3 0).toNat ≤ 72) ∨
    (4 < bs.length ∧ bs.length ≠ 5 + (bs.getD 3 0).toNat)) : appendChar b l = { l with buffer := bs } := by
  simp only [appendChar, hbs, maxLengthByte]
  split
  · rfl
  · rw [if_neg (by omega), if_neg (by omega)]

theorem appendChar_of_long (hlen : bs.length = 4) (hlong : 72 < (bs.getD 3 0).toNat) : appendChar b l =
    { l with rxState := .hunt, buffer := [], flags := { l.flags with length := true } } := by
  simp only [appendChar, hbs, maxLengthByte]
  rw [if_neg (by omega), if_pos ⟨hlen, hlong⟩]
  rfl

/-- The character that fills the frame leads to the check (R146, R148). -/
theorem appendChar_of_full (hlen : 4 < bs.length) (hfull : bs.length = 5 + (bs.getD 3 0).toNat) :
    appendChar b l = checkFrame { l with buffer := bs } := by
  simp only [appendChar, hbs, maxLengthByte]
  rw [if_neg (by omega), if_neg (by omega), if_pos hfull]

end Append

/-! ### The check and the validation (R148) -/

theorem toNat_byteSum (bs : List Byte) : (byteSum bs).toNat = (bs.map (·.toNat)).sum % 256 := by
  induction bs with
  | nil => rfl
  | cons b bs ih =>
    have hcons : byteSum (b :: bs) = b + byteSum bs := rfl
    simp only [hcons, BitVec.toNat_add, ih, List.map_cons, List.sum_cons]
    omega

theorem byteSum_eq_zero_iff (bs : List Byte) : byteSum bs = 0 ↔ (bs.map (·.toNat)).sum % 256 = 0 := by
  rw [← toNat_byteSum, ← BitVec.toNat_inj]
  rfl

theorem checkFrame_of_wrong (hsum : byteSum l.buffer ≠ 0) : checkFrame l =
    { l with rxState := .hunt, buffer := [], flags := { l.flags with check := true } } := if_neg hsum

theorem checkFrame_of_right (hsum : byteSum l.buffer = 0) : checkFrame l =
    validate l.buffer { l with rxState := .hunt, buffer := [] } := if_pos hsum

section Validate

variable {dest src kind len : Byte} {rest : List Byte} {k : FrameKind}

theorem validate_of_source (hsrc : 30 ≤ src.toNat) :
    validate (dest :: src :: kind :: len :: rest) l = { l with flags := { l.flags with length := true } } := if_pos hsrc

variable (hsrc : src.toNat < 30)
include hsrc

theorem validate_of_clash (hloop : l.loopback = false) (hown : src.toNat = l.station.toNat) :
    validate (dest :: src :: kind :: len :: rest) l = { l with flags := { l.flags with clash := true } } :=
  (if_neg (Nat.not_le.2 hsrc)).trans (if_pos ⟨hloop, hown⟩)

variable (hother : l.loopback = true ∨ src.toNat ≠ l.station.toNat)
include hother

/-- The tests of kind, length and destination, for a source that is legal (R148, R156). -/
theorem validate_of_other : validate (dest :: src :: kind :: len :: rest) l = match frameKindOf kind with
    | none => { l with flags := { l.flags with length := true } }
    | some k =>
      if lengthLegal k len.toNat = false ∨ destLegal k dest = false then
        { l with flags := { l.flags with length := true } }
      else if l.loopback = true ∧ loopedKind k = false then l
      else { l with handoff := some { dest := dest, source := src, kind := k, payload := rest.take len.toNat } } := by
  have hclash : ¬(l.loopback = false ∧ src.toNat = l.station.toNat) := by
    rintro ⟨hloop, hown⟩
    simp [hloop, hown] at hother
  rw [validate]
  exact (if_neg (Nat.not_le.2 hsrc)).trans (if_neg hclash)

theorem validate_of_unknown (hkind : frameKindOf kind = none) :
    validate (dest :: src :: kind :: len :: rest) l = { l with flags := { l.flags with length := true } } := by
  rw [validate_of_other hsrc hother, hkind]

theorem validate_of_misfit (hkind : frameKindOf kind = some k)
    (hmisfit : lengthLegal k len.toNat = false ∨ destLegal k dest = false) :
    validate (dest :: src :: kind :: len :: rest) l = { l with flags := { l.flags with length := true } } := by
  rw [validate_of_other hsrc hother, hkind]
  exact if_pos hmisfit

/-- A frame that passes every test is handed on, in loopback where its kind is (R148, R156). -/
theorem validate_of_legal (hkind : frameKindOf kind = some k) (hlegal : lengthLegal k len.toNat = true)
    (hdest : destLegal k dest = true) : validate (dest :: src :: kind :: len :: rest) l = { l with
      handoff := if l.loopback = false ∨ loopedKind k = true then
        some { dest := dest, source := src, kind := k, payload := rest.take len.toNat } else l.handoff } := by
  have hon : ¬(l.loopback = true ∧ loopedKind k = false) ↔ l.loopback = false ∨ loopedKind k = true := by
    rw [not_and_or, Bool.not_eq_true, Bool.not_eq_false]
  rw [validate_of_other hsrc hother, hkind]
  refine (if_neg (by simp [hlegal, hdest])).trans ?_
  split
  · next hstays => rw [if_neg (mt hon.2 (not_not.2 hstays))]
  · next hgoes => rw [if_pos (hon.1 hgoes)]

end Validate

/-! ### The tables of kinds, payload lengths and destinations (R144, R156) -/

theorem loopedKind_iff (k : FrameKind) : loopedKind k = true ↔ k = .pass ∨ k = .banner := by
  cases k <;> simp [loopedKind]

theorem lengthLegal_iff (k : FrameKind) (n : Nat) : lengthLegal k n = true ↔ match k with
    | .greet | .pause | .resume => n = 0
    | .tally => n = 12
    | .retract => n = 1
    | .banner => n ≤ 40
    | .pass => 1 ≤ n ∧ n ≤ 64 := by
  cases k
  case pass =>
    simp only [lengthLegal, Bool.and_eq_true, decide_eq_true_eq]
    rfl
  all_goals exact decide_eq_true_iff

/-- No payload is longer than that of a PASS. -/
theorem le_of_lengthLegal {k : FrameKind} {n : Nat} (h : lengthLegal k n = true) : n ≤ 64 := by
  have hn := (lengthLegal_iff k n).1 h
  cases k <;> dsimp only at hn <;> omega

theorem destLegal_iff (k : FrameKind) (dest : Byte) :
    destLegal k dest = true ↔ if k = .pass then dest.toNat < 30 else dest.toNat = 31 := by
  have hall : dest = allStations ↔ dest.toNat = 31 := BitVec.toNat_inj.symm
  cases k
  case pass => exact decide_eq_true_iff
  all_goals exact decide_eq_true_iff.trans hall

/-! ### Whole frames -/

section Whole

variable {f : Frame} (late : Bool)

/-- A character of a frame, sent without a fault, as the receiver takes it; the head may be late. -/
def takeSent (m : DeskLineUnit) (p : Byte × Bool) : DeskLineUnit :=
  assemble { data := p.1, mark := p.2, framing := false, late := late && p.2 } m

theorem takeSent_head (hrx : l.rxState ≠ .accept) (b : Byte) : takeSent late l (b, true) =
    judgeHead { data := b, mark := true, framing := false, late := late && true } l := assemble_of_not_accept _ hrx

theorem takeSent_of_accept (hrx : l.rxState = .accept) (b : Byte) : takeSent late l (b, false) = appendChar b l :=
  assemble_of_plain hrx (Bool.and_false late) rfl rfl

/-- In SKIP nothing but a head counts (R145). -/
theorem foldl_takeSent_of_skip (hrx : l.rxState = .skip) (bs : List Byte) :
    (bs.map (fun b => (b, false))).foldl (takeSent late) l = l := by
  induction bs with
  | nil => rfl
  | cons b bs ih =>
    have hstay : takeSent late l (b, false) = l :=
      (assemble_of_not_accept _ (by simp [hrx])).trans (judgeHead_of_other (.inl rfl))
    rw [List.map_cons, List.foldl_cons, hstay, ih]

/-- A proper part of a frame is still short of its end (R146). -/
theorem short_of_part {bytes pre rest : List Byte} (hfull : bytes.length = 5 + (bytes.getD 3 0).toNat)
    (hmax : (bytes.getD 3 0).toNat ≤ 72) (hsplit : pre ++ rest = bytes) (hne : rest ≠ []) :
    pre.length < 4 ∨ (pre.length = 4 ∧ (pre.getD 3 0).toNat ≤ 72) ∨
      (4 < pre.length ∧ pre.length ≠ 5 + (pre.getD 3 0).toNat) := by
  subst hsplit
  have hrest : 0 < rest.length := List.length_pos_iff.2 hne
  rw [List.length_append] at hfull
  by_cases hlen : 3 < pre.length
  · rw [List.getD_append _ _ _ _ hlen] at hfull hmax
    omega
  · exact .inl (by omega)

/-- The rest of a frame taken in ACCEPT fills the buffer, and its last character leads to the check (R146, R148). -/
theorem foldl_takeSent_of_accept {bytes bs : List Byte} (hfull : bytes.length = 5 + (bytes.getD 3 0).toNat)
    (hmax : (bytes.getD 3 0).toNat ≤ 72) (hrx : l.rxState = .accept) (hsplit : l.buffer ++ bs = bytes) (hne : bs ≠ []) :
    (bs.map (fun b => (b, false))).foldl (takeSent late) l = checkFrame { l with buffer := bytes } := by
  induction bs generalizing l with
  | nil => exact absurd rfl hne
  | cons b bs ih =>
    rw [List.map_cons, List.foldl_cons, takeSent_of_accept late hrx]
    rw [List.append_cons] at hsplit
    cases bs with
    | nil =>
      rw [List.append_nil] at hsplit
      exact appendChar_of_full hsplit (by omega) hfull
    | cons b' bs =>
      have hshort := short_of_part hfull hmax hsplit (List.cons_ne_nil b' bs)
      rw [appendChar_of_short rfl hshort]
      exact ih (l := { l with buffer := l.buffer ++ [b] }) hrx hsplit (List.cons_ne_nil b' bs)

/-- A frame whose head is not accepted is skipped to its end (R145). -/
theorem foldl_frameChars_of_refused (hrx : l.rxState ≠ .accept) (hrefuse : acceptsHead l f.dest = false) :
    (frameChars f).foldl (takeSent late) l = { l with rxState := .skip, buffer := [] } := by
  rw [frameChars_eq, List.foldl_cons, takeSent_head late hrx, judgeHead_of_refused rfl rfl (by simp [hrefuse])]
  exact foldl_takeSent_of_skip late rfl _

theorem toNat_payloadLength (hlegal : lengthLegal f.kind f.payload.length = true) :
    ((frameBytes f).getD 3 0).toNat = f.payload.length :=
  BitVec.toNat_ofNat .. |>.trans (Nat.mod_eq_of_lt (by have := le_of_lengthLegal hlegal; omega))

/-- A frame whose head is accepted comes to the check whole (R146). -/
theorem foldl_frameChars_of_accepted (hrx : l.rxState ≠ .accept) (haccept : acceptsHead l f.dest = true)
    (hlegal : lengthLegal f.kind f.payload.length = true) : (frameChars f).foldl (takeSent late) l =
      checkFrame { l with rxState := .accept, buffer := frameBytes f } := by
  have hlen := toNat_payloadLength hlegal
  have hmax := le_of_lengthLegal hlegal
  rw [frameChars_eq, List.foldl_cons, takeSent_head late hrx, judgeHead_of_accepted rfl rfl haccept]
  refine foldl_takeSent_of_accept late ?_ ?_ rfl rfl ?_
  · rw [hlen, length_frameBytes]
  · omega
  · simp [frameBytes, frameBody]

theorem byteSum_concat (bs : List Byte) (b : Byte) : byteSum (bs ++ [b]) = byteSum bs + b := by
  induction bs with
  | nil => simp [byteSum]
  | cons c bs ih => exact (congrArg (c + ·) ih).trans (BitVec.add_assoc ..).symm

/-- The check byte brings the sum of a frame to 0 (R144). -/
theorem byteSum_frameBytes (f : Frame) : byteSum (frameBytes f) = 0 := by
  rw [frameBytes, byteSum_concat]
  simp

theorem frameKindOf_kindCode (k : FrameKind) : frameKindOf (BitVec.ofNat 8 (kindCode k)) = some k := by
  cases k <;> rfl

/-- A legal frame passes the check and its validation, and is handed on as it was sent, in loopback where its kind is
(R148, R156). -/
theorem checkFrame_frameBytes (hbuf : l.buffer = frameBytes f) (hsrc : f.source.toNat < 30)
    (hother : l.loopback = true ∨ f.source.toNat ≠ l.station.toNat)
    (hlegal : lengthLegal f.kind f.payload.length = true) (hdest : destLegal f.kind f.dest = true) :
    checkFrame l = { l with
      rxState := .hunt, buffer := []
      handoff := if l.loopback = false ∨ loopedKind f.kind = true then some f else l.handoff } := by
  have hlen : (BitVec.ofNat 8 f.payload.length).toNat = f.payload.length := toNat_payloadLength hlegal
  have hbytes : frameBytes f = f.dest :: f.source :: BitVec.ofNat 8 (kindCode f.kind) ::
      BitVec.ofNat 8 f.payload.length :: (f.payload ++ [0 - byteSum (frameBody f)]) := rfl
  rw [checkFrame_of_right (by rw [hbuf, byteSum_frameBytes]), hbuf, hbytes]
  refine (validate_of_legal hsrc ?_ (frameKindOf_kindCode f.kind) ?_ hdest).trans ?_
  · exact hother
  · rwa [hlen]
  · rw [hlen, List.take_left]

/-- A legal frame whose head is accepted is received as it was sent, and is handed on, in loopback where its kind is. -/
theorem foldl_frameChars_of_legal (hrx : l.rxState ≠ .accept) (haccept : acceptsHead l f.dest = true)
    (hsrc : f.source.toNat < 30) (hother : l.loopback = true ∨ f.source.toNat ≠ l.station.toNat)
    (hlegal : lengthLegal f.kind f.payload.length = true) (hdest : destLegal f.kind f.dest = true) :
    (frameChars f).foldl (takeSent late) l = { l with
      rxState := .hunt, buffer := []
      handoff := if l.loopback = false ∨ loopedKind f.kind = true then some f else l.handoff } :=
  (foldl_frameChars_of_accepted late hrx haccept hlegal).trans
    (checkFrame_frameBytes (l := { l with rxState := .accept, buffer := frameBytes f }) rfl hsrc hother hlegal hdest)

end Whole

end Assembler

end Sys2Proof.Machine

namespace Sys2Proof.Proofs

open Machine

/-- Settles O43: bits and characters, each state of the receiver, and whole frames by their head. -/
theorem sentFrameIsReceived : Obligations.SentFrameIsReceived := by
  refine ⟨fun d m => ⟨charBits_eq d m, sampledChar_stop d m true, sampledChar_stop d m false, rfl⟩,
    fun f l => ⟨length_frameBits f, getLast?_frameBits f, fun k c j hc hj => getElem?_frameBits f hc hj,
      fun n b hsend hf hb => sentLevel_of_send f hsend hf hb, fun n hsend => sentLevel_of_not_send n hsend⟩,
    fun c cs s hfifo hempty => ?_, fun c l => ?_, ⟨fun b => rfl, fun k n => ?_, fun k dest => ?_⟩,
    fun f l hrx hloop hsrc hother hlegal hdest haccept => ?_, fun f l late hrx => ?_⟩
  · have htaken := assembles_assemble c { s.line with fifo := cs }
    exact ⟨_, exec_frameAssemblerCharacter hfifo hempty, rfl, htaken.fifo, htaken.tx, htaken.selection⟩
  · intro accepted out length
    refine ⟨fun hrx => ?_, fun hrx => ⟨assemble_of_late hrx, assemble_of_framing hrx, assemble_of_mark hrx,
      fun hlate hframing hmark => ?_⟩⟩
    · have haccepted : acceptsHead l c.data = true ↔ accepted := acceptsHead_iff l c.data
      rw [assemble_of_not_accept c hrx, ← haccepted]
      exact ⟨judgeHead_of_other, judgeHead_of_accepted, judgeHead_of_refused⟩
    · intro bs n
      have hplain := assemble_of_plain hrx hlate hframing hmark
      refine ⟨fun hshort => hplain.trans (appendChar_of_short rfl hshort),
        fun hlen hlong => hplain.trans (appendChar_of_long rfl hlen hlong), fun hlen hfull hsum => ?_,
        fun dest src kind len rest hbs hfull hsum => ?_⟩
      · refine (hplain.trans (appendChar_of_full rfl hlen hfull)).trans (checkFrame_of_wrong ?_)
        exact (byteSum_eq_zero_iff bs).not.2 hsum
      · have hn : len.toNat = n := by simp only [n, hbs]; rfl
        have hvalid : assemble c l = validate (dest :: src :: kind :: len :: rest) out := by
          have hlen : 4 < bs.length := by omega
          rw [hplain, appendChar_of_full rfl hlen hfull, ← hbs]
          exact checkFrame_of_right ((byteSum_eq_zero_iff bs).2 hsum)
        refine ⟨fun hsrc => hvalid.trans (validate_of_source hsrc),
          fun hsrc hloop hown => hvalid.trans (validate_of_clash hsrc hloop hown), fun hsrc hother => ?_⟩
        refine ⟨fun hkind => hvalid.trans (validate_of_unknown (l := out) hsrc hother hkind), fun k hkind => ?_⟩
        rw [← hn]
        refine ⟨fun hmisfit => hvalid.trans (validate_of_misfit (l := out) hsrc hother hkind hmisfit),
          fun hlegal hdest => ?_⟩
        have hkept := hvalid.trans (validate_of_legal (l := out) hsrc hother hkind hlegal hdest)
        refine ⟨fun hloop hpass hbanner => hkept.trans ?_, fun hon => hkept.trans ?_⟩
        · have hnot : ¬(l.loopback = false ∨ loopedKind k = true) := by simp [hloop, loopedKind_iff, hpass, hbanner]
          exact congrArg (fun h => { out with handoff := h }) (if_neg hnot)
        · rw [← loopedKind_iff] at hon
          exact congrArg (fun h => { out with handoff := h }) (if_pos hon)
  · exact lengthLegal_iff k n
  · exact destLegal_iff k dest
  · refine (foldl_frameChars_of_legal false (by simp [hrx]) haccept hsrc (.inr hother) hlegal hdest).trans ?_
    simp [hloop, hrx]
  · have hready : l.rxState ≠ .accept := by rcases hrx with hrx | hrx <;> simp [hrx]
    refine ⟨foldl_frameChars_of_refused late hready, fun haccept hloop hsrc hlegal hdest => ?_⟩
    refine (foldl_frameChars_of_legal late hready haccept hsrc (.inl hloop) hlegal hdest).trans ?_
    simp [hloop, loopedKind_iff]

end Sys2Proof.Proofs

/-! ## DESK READ (R157, R166, R197) -/
namespace Sys2Proof.Machine

section DeskReads

/-! ### Bytes of flags -/

/-- The number whose bits below `n` are those of `p`. -/
def bitSum (p : Nat → Bool) (n : Nat) : Nat := ((List.range n).map (fun j => if p j then 2 ^ j else 0)).sum

theorem bitSum_zero (p : Nat → Bool) : bitSum p 0 = 0 := rfl

theorem bitSum_succ (p : Nat → Bool) (n : Nat) : bitSum p (n + 1) = bitSum p n + if p n then 2 ^ n else 0 := by
  simp [bitSum, List.range_succ]

theorem bitSum_lt (p : Nat → Bool) (n : Nat) : bitSum p n < 2 ^ n := by
  induction n with
  | zero => exact Nat.one_pos
  | succ n ih =>
    rw [bitSum_succ, Nat.pow_succ]
    split <;> omega

theorem testBit_bitSum (p : Nat → Bool) {n j : Nat} (hj : j < n) : (bitSum p n).testBit j = p j := by
  induction n with
  | zero => exact absurd hj (Nat.not_lt_zero j)
  | succ n ih =>
    have hlt := bitSum_lt p n
    rw [bitSum_succ]
    rcases Nat.lt_succ_iff_lt_or_eq.1 hj with hlow | rfl
    · split
      · rw [Nat.add_comm, Nat.testBit_two_pow_add_gt hlow, ih hlow]
      · exact ih hlow
    · split
      · next hp => rw [Nat.add_comm, Nat.testBit_two_pow_add_eq, Nat.testBit_lt_two_pow hlt, hp]; rfl
      · next hp => rw [Nat.add_zero, Nat.testBit_lt_two_pow hlt, Bool.eq_false_iff.2 hp]

theorem getLsbD_bitSum (p : Nat → Bool) {j : Nat} (hj : j < 8) : (BitVec.ofNat 8 (bitSum p 8)).getLsbD j = p j := by
  rw [BitVec.getLsbD_ofNat, testBit_bitSum p hj, decide_eq_true hj, Bool.true_and]

/-- The link flags in the order of their bits (R197). -/
def linkBits (f : LinkFlags) : List Bool :=
  [f.framing, f.brk, f.overrun, f.check, f.timeout, f.length, f.clash, f.dropped]

theorem linkByte_eq (f : LinkFlags) : linkByte f = BitVec.ofNat 8 (bitSum (fun j => (linkBits f).getD j false) 8) := by
  have hweight (b : Bool) (n : Nat) : (if b then 2 ^ n else 0) = 2 ^ n * bit b := by cases b <;> simp [bit]
  simp only [bitSum_succ, bitSum_zero, hweight, Nat.zero_add, Nat.pow_zero]
  rfl

theorem getLsbD_linkByte (f : LinkFlags) {j : Nat} (hj : j < 8) :
    (linkByte f).getLsbD j = (linkBits f).getD j false := by
  rw [linkByte_eq, getLsbD_bitSum _ hj]

/-! ### The link status record -/

/-- The byte of the stations `8 * k` to `8 * k + 7` in a set of stations (R197). -/
theorem stationBytes_eq (ns : List Nat) : stationBytes ns =
    [3, 2, 1, 0].map (fun k => BitVec.ofNat 8 (bitSum (fun j => decide (8 * k + j ∈ ns)) 8)) := by
  simp only [stationBytes, bitSum, decide_eq_true_eq]

theorem getLsbD_stationBytes (ns : List Nat) {station : Nat} {b : Byte} (hstation : station < 32)
    (hb : (stationBytes ns)[3 - station / 8]? = some b) : b.getLsbD (station % 8) = decide (station ∈ ns) := by
  have hk : ∀ k < 4, (stationBytes ns)[3 - k]? =
      some (BitVec.ofNat 8 (bitSum (fun j => decide (8 * k + j ∈ ns)) 8)) := by
    intro k hk
    rw [stationBytes_eq]
    interval_cases k <;> rfl
  rw [hk (station / 8) (by omega), Option.some_inj] at hb
  rw [← hb, getLsbD_bitSum _ (Nat.mod_lt _ (by decide)), Nat.div_add_mod]

theorem getElem?_linkRecord_stations (s : State) {k : Nat} (hk : k < 4) :
    (linkRecord s)[8 - k]? = (stationBytes (s.desk.paused.map (·.1)))[3 - k]? := by
  interval_cases k <;> rfl

/-! ### The tag report -/

theorem length_bcdBytes (k n : Nat) : (bcdBytes k n).length = k := by
  induction k generalizing n with
  | zero => rfl
  | succ k ih => simp [bcdBytes, ih]

theorem length_shareBytes (sh : Share) : (shareBytes sh).length = 11 := by
  unfold shareBytes
  repeat' split
  all_goals simp [length_bcdBytes]

theorem length_noneBytes : noneBytes.length = 11 := rfl

variable (d : DeskExchange) (t : Nat)

theorem length_localBytes : (localBytes d t).length = 11 := by
  unfold localBytes
  split
  · exact length_shareBytes _
  · exact length_noneBytes

theorem length_entryBytes (src : Nat) : (entryBytes d t src).length = 12 := by
  unfold entryBytes
  split
  · rw [List.length_append, length_shareBytes]; rfl
  · rfl

theorem length_tagReport : (tagReport d t).length = 371 := by
  rw [tagReport, List.length_append, length_localBytes, length_flatMap_parts (length_entryBytes d t), List.length_range]
  rfl

theorem take_tagReport : (tagReport d t).take 11 = localBytes d t := List.take_left' (length_localBytes d t)

/-- The part of a source in the report (R166). -/
theorem tagReport_part {src : Nat} (hsrc : src < 30) : ((tagReport d t).drop (11 + 12 * src)).take 12 = entryBytes d t src := by
  rw [tagReport, ← List.drop_drop, List.drop_left' (length_localBytes d t)]
  exact flatMap_part (length_entryBytes d t) (List.getElem?_range hsrc)

end DeskReads

end Sys2Proof.Machine

namespace Sys2Proof.Proofs

open Machine

section DeskReads

variable {s : State} (hp : s.tp.phase = .ready)
include hp

theorem exec_deskReadLinkStatus (n : Nat) : exec (.deskReadLinkStatus n) s = .next (settle
    { framed .done ([0, 0] ++ replyBytes n (linkRecord s)) s with
      line := { s.line with flags := LinkFlags.clear } }) :=
  runRead_ok (reply := deskReply 0) (after := clearLink 0) hp rfl rfl

theorem exec_deskReadTagReport {sel : Byte} (n : Nat) (h1 : 1 ≤ sel.toNat) (h8 : sel.toNat ≤ 8) :
    exec (.deskReadTagReport sel n) s = .next (settle
      (framed .done ([0, 0] ++ replyBytes n (tagReport s.desk sel.toNat)) s)) := by
  have hsel : sel ≠ 0 := by rintro rfl; exact absurd h1 (by decide)
  have hreply : deskReply sel s = .ok (tagReport s.desk sel.toNat) := by rw [deskReply, if_neg hsel, if_pos h8]
  refine runRead_ok (reply := deskReply sel) (after := clearLink sel) hp hreply ?_
  rw [clearLink, if_neg hsel]
  rfl

theorem exec_deskReadTagReport_of_badSelector {sel : Byte} (n : Nat) (h8 : 8 < sel.toNat) :
    exec (.deskReadTagReport sel n) s = .next (framed .badArgument (List.replicate (2 + n) 0) s) := by
  have hsel : sel ≠ 0 := by rintro rfl; exact absurd h8 (by decide)
  have hreply : deskReply sel s = .error .badArgument := by rw [deskReply, if_neg hsel, if_neg (Nat.not_le.2 h8)]
  exact runRead_error (reply := deskReply sel) hp hreply rfl

end DeskReads

/-- Settles O48: the link status record byte by byte, and a tag report part by part. -/
theorem deskReadReports : Obligations.DeskReadReports := by
  intro sel n s hp
  refine ⟨⟨linkRecord s, rfl, ?_, rfl, rfl, fun b hb => ?_, fun station b hstation hb => ?_, exec_deskReadLinkStatus hp n⟩,
    fun h1 h8 => ⟨tagReport s.desk sel.toNat, length_tagReport .., ?_, fun src hsrc => ?_,
      exec_deskReadTagReport hp n h1 h8⟩, exec_deskReadTagReport_of_badSelector hp n⟩
  · show some (droppedByte s.line.lastDropped) = _
    cases s.line.lastDropped <;> rfl
  · obtain rfl : linkByte s.line.flags = b := Option.some_inj.1 hb
    exact ⟨getLsbD_linkByte _ (by decide), getLsbD_linkByte _ (by decide), getLsbD_linkByte _ (by decide),
      getLsbD_linkByte _ (by decide), getLsbD_linkByte _ (by decide), getLsbD_linkByte _ (by decide),
      getLsbD_linkByte _ (by decide), getLsbD_linkByte _ (by decide)⟩
  · rw [getElem?_linkRecord_stations s (by omega)] at hb
    rw [getLsbD_stationBytes _ hstation hb, decide_eq_true_eq]
  · exact take_tagReport ..
  · exact tagReport_part _ _ hsrc

end Sys2Proof.Proofs

/-! ## What every command keeps of start-up and of the desk tables

Part by part, so that an operation speaks only of the parts that it changes. The resets, and the rows that sample the
straps or end start-up, move the phase or the station and are told of one by one. -/
namespace Sys2Proof.Machine

section DeskKeeps

/-- A frame in the holding place of station `own`, if any, has passed validation (R148). -/
def HandoffFits (own : Nat) (o : Option Frame) : Prop := ∀ f, o = some f → handoffSound own f = true

/-- A banner, if any, is not empty and younger than 60 ticks (R177). -/
def BannerFits (o : Option Banner) : Prop := ∀ b, o = some b → b.text ≠ [] ∧ b.age < bannerLife

/-- Every hold timer is one that a PAUSE of a station of the line set and no tick brought to 0 (R176). -/
def TimersFit (m : List (Nat × Nat)) : Prop :=
  m.all (fun p => decide (p.1 < firstListenOnly ∧ 0 < p.2 ∧ p.2 ≤ holdTime)) = true

/-- Nothing received is held (R178, R159). -/
def NothingHeld (s : State) : Prop := s.desk.table = [] ∧ s.line.handoff = none ∧ s.line.fifo = []

/-- Start-up and the station stand, and whatever of the desk tables is sound in `s` is so in `t`. -/
structure DeskKeeps (s t : State) : Prop where
  phase : t.tp.phase = s.tp.phase := by simp
  resetnLow : t.tp.resetnLow = s.tp.resetnLow := by simp
  supplySteady : t.tp.supplySteady = s.tp.supplySteady := by simp
  clearing : t.tp.clearing = s.tp.clearing := by simp
  stream : s.tp.phase = .starting → s.tp.stream = none → t.tp.stream = none := by simp
  station : t.line.station = s.line.station := by simp
  entries : s.desk.table.all (entrySound s.line.station.toNat) = true →
    t.desk.table.all (entrySound s.line.station.toNat) = true := by simp
  handoff : HandoffFits s.line.station.toNat s.line.handoff → HandoffFits s.line.station.toNat t.line.handoff := by simp
  refresh : s.desk.refresh < refreshPeriod → t.desk.refresh < refreshPeriod := by simp
  timers : TimersFit s.desk.paused → TimersFit t.desk.paused := by simp
  banner : BannerFits s.desk.banner → BannerFits t.desk.banner := by simp
  starting : s.tp.phase = .starting → NothingHeld s → NothingHeld t := by simp [NothingHeld]

variable {s t u : State}

theorem DeskKeeps.refl (s : State) : DeskKeeps s s := {}

theorem DeskKeeps.trans (h : DeskKeeps s t) (g : DeskKeeps t u) : DeskKeeps s u where
  phase := g.phase.trans h.phase
  resetnLow := g.resetnLow.trans h.resetnLow
  supplySteady := g.supplySteady.trans h.supplySteady
  clearing := g.clearing.trans h.clearing
  stream hp := g.stream (h.phase.trans hp) ∘ h.stream hp
  station := g.station.trans h.station
  entries he := h.station ▸ g.entries (h.station.symm ▸ h.entries he)
  handoff hf := h.station ▸ g.handoff (h.station.symm ▸ h.handoff hf)
  refresh := g.refresh ∘ h.refresh
  timers := g.timers ∘ h.timers
  banner := g.banner ∘ h.banner
  starting hp := g.starting (h.phase.trans hp) ∘ h.starting hp

theorem DeskKeeps.startSound (h : DeskKeeps s t) (hs : StartSound s) : StartSound t where
  stream hp := have hp' := h.phase.symm.trans hp; h.stream hp' (hs.stream hp')
  low hl := by rw [h.phase, h.clearing]; exact hs.low (h.resetnLow.symm.trans hl)
  supply hl := by rw [h.phase, h.clearing]; exact hs.supply (h.supplySteady.symm.trans hl)
  clearing hc := h.phase.trans (hs.clearing (h.clearing.symm.trans hc))

theorem DeskKeeps.deskSound (h : DeskKeeps s t) (hs : DeskSound s) : DeskSound t where
  entries := h.station ▸ h.entries hs.entries
  handoff := h.station ▸ h.handoff hs.handoff
  refresh := h.refresh hs.refresh
  timers := h.timers hs.timers
  banner := h.banner hs.banner
  starting hp := have hp' := h.phase.symm.trans hp; h.starting hp' (hs.starting hp')

/-! ### The end of a command -/

theorem deskKeeps_settle (s : State) : DeskKeeps s (settle s) := {}

theorem deskKeeps_of_ok (h : ok u = .next t) (hu : DeskKeeps s u) : DeskKeeps s t :=
  ok_eq_next.1 h ▸ hu.trans (deskKeeps_settle u)

theorem deskKeeps_of_noEvent (h : noEvent s = .next t) : DeskKeeps s t := noEvent_eq_next.1 h ▸ .refl s

/-- A row that is taken or is none of its state's events. -/
theorem deskKeeps_of_ite {p : Prop} [Decidable p] (h : (if p then ok u else noEvent s) = .next t)
    (hu : p → DeskKeeps s u) : DeskKeeps s t := by
  split at h
  · next hp => exact deskKeeps_of_ok h (hu hp)
  · exact deskKeeps_of_noEvent h

/-! ### Changes of other blocks -/

/-- Edge causes, the taken mark, local contributions and the tally set are all that a change may touch of port, line and
desk. -/
theorem DeskKeeps.of_blocks (htp : t.tp = { s.tp with edge := t.tp.edge })
    (hline : t.line = { s.line with taken := t.line.taken })
    (hdesk : t.desk = { s.desk with active := t.desk.active, tallies := t.desk.tallies }) : DeskKeeps s t where
  phase := by rw [htp]
  resetnLow := by rw [htp]
  supplySteady := by rw [htp]
  clearing := by rw [htp]
  stream _ := by rw [htp]; exact id
  station := by rw [hline]
  entries := by rw [hdesk]; exact id
  handoff := by rw [hline]; exact id
  refresh := by rw [hdesk]; exact id
  timers := by rw [hdesk]; exact id
  banner := by rw [hdesk]; exact id
  starting _ := by unfold NothingHeld; rw [hline, hdesk]; exact id

theorem KeyFrame.tp_eq (h : KeyFrame s t) : t.tp = { s.tp with edge := t.tp.edge } := (congrArg State.tp h.eq :)

theorem KeyFrame.deskKeeps (h : KeyFrame s t) : DeskKeeps s t := .of_blocks h.tp_eq h.line_eq h.desk_eq

end DeskKeeps

end Sys2Proof.Machine

/-! ## Key rows and orders keep start-up and the desk tables -/
namespace Sys2Proof.Machine

section DeskKeepsOrders

variable {s t u : State} {n k : Nat}

theorem deskKeeps_keyRow {i : Instr} (hi : keyRowOf i ≠ none) (h : exec i s = .next t) : DeskKeeps s t := by
  have htaken : ∀ {q : List Byte} {u : State}, KeyFrame (setQueue q s) u → DeskKeeps s u := fun {q _} hu =>
    DeskKeeps.trans (t := setQueue q s) {} hu.deskKeeps
  by_cases hsend : i = .send ∨ i = .signalKey
  · rcases sendRow_cases hsend h with rfl | ⟨b, q, u, -, -, hu, rfl | ⟨code, rfl⟩⟩
    · exact .refl _
    · exact (htaken hu).trans (deskKeeps_settle u)
    · have hbegin : DeskKeeps u (beginAssembly code u) := .of_blocks rfl rfl rfl
      exact (htaken hu).trans (hbegin.trans (deskKeeps_settle _))
  · obtain ⟨k, hk⟩ := Option.ne_none_iff_exists'.1 hi
    have hne : k ≠ .send := fun e => hsend (.inl (eq_send_of_keyRowOf (e ▸ hk)))
    have hns : k ≠ .signal := fun e => hsend (.inr (eq_signalKey_of_keyRowOf (e ▸ hk)))
    rcases keyRow_frame hk hne hns h with rfl | ⟨b, q, u, -, -, hu, rfl⟩
    · exact .refl _
    · exact (htaken hu).trans (deskKeeps_settle u)

/-! ### Frames of orders -/

/-- An order's rule, which is asked in READY only, keeps start-up and the desk tables. -/
def KeepsDesk (body : State → Verdict) : Prop := ∀ s u, s.tp.phase = .ready → body s = .ok u → DeskKeeps s u

theorem deskKeeps_closeFrame (sdo : List Byte) (s : State) : DeskKeeps s (closeFrame sdo s) := {}

theorem deskKeeps_endStream (s : State) : DeskKeeps s (endStream s) where
  stream _ _ := rfl

theorem deskKeeps_record (o : OrderOutcome) (s : State) : DeskKeeps s (record o s) := {}

theorem deskKeeps_framed (sdo : List Byte) (s : State) : DeskKeeps s (endStream (closeFrame sdo s)) :=
  (deskKeeps_closeFrame sdo s).trans (deskKeeps_endStream _)

theorem DeskKeeps.runOrder {body : State → Verdict} (h : runOrder n body s = .next t) (hb : KeepsDesk body) :
    DeskKeeps s t := by
  rcases runOrder_cases h with ⟨o, rfl⟩ | ⟨u, hp, hu, rfl⟩
  · exact (deskKeeps_framed _ s).trans (deskKeeps_record o _)
  · have hrule := hb (endStream (closeFrame (zeros (1 + n)) s)) u hp hu
    exact (deskKeeps_framed _ s).trans (hrule.trans ((deskKeeps_record .done u).trans (deskKeeps_settle _)))

theorem DeskKeeps.runStreamOrder {body : State → Verdict} (h : runStreamOrder n body s = .next t) (hb : KeepsDesk body) :
    DeskKeeps s t := by
  rcases runStreamOrder_cases h with ⟨o, rfl⟩ | ⟨u, hp, hu, rfl⟩
  · exact (deskKeeps_closeFrame _ s).trans (deskKeeps_record o _)
  · have hrule := hb (closeFrame (zeros (1 + n)) s) u hp hu
    exact (deskKeeps_closeFrame _ s).trans (hrule.trans ((deskKeeps_record .done u).trans (deskKeeps_settle _)))

theorem DeskKeeps.runRead {reply : State → Except OrderOutcome (List Byte)} {after : State → State}
    (h : runRead k n reply after s = .next t) (ha : ∀ s, DeskKeeps s (after s)) : DeskKeeps s t := by
  rcases runRead_cases h with ⟨o, rfl⟩ | ⟨r, -, -, rfl⟩
  · exact (deskKeeps_framed _ s).trans (deskKeeps_record o _)
  · exact (deskKeeps_framed _ s).trans ((ha _).trans ((deskKeeps_record .done _).trans (deskKeeps_settle _)))

/-! ### The rules of the orders -/

/-- A change of link mode empties the FIFO (R155). -/
theorem deskKeeps_applyLoopback (on : Bool) (s : State) : DeskKeeps s { s with line := applyLoopback on s.line } where
  station := rfl
  handoff := id
  starting _ h := ⟨h.1, h.2.1, rfl⟩

theorem keepsDesk_loopback (on : Bool) : KeepsDesk (loopbackBody on) := by
  intro s u _ h
  unfold loopbackBody at h
  repeat' split at h
  all_goals cases h
  · exact {}
  · exact {}
  · exact deskKeeps_applyLoopback on s

theorem openForm_tp (h w d : Nat) (s : State) : (openForm h w d s).tp = s.tp := retractTags_tp s

theorem keepsDesk_formBegin (h w d : Nat) : KeepsDesk (formBeginBody h w d) := by
  intro s u _ hu
  unfold formBeginBody at hu
  split at hu <;> cases hu
  exact .of_blocks (by rw [openForm_tp]) (Proofs.retractTags_line_eq s) (Proofs.retractTags_desk_eq s)

/-- A rule that changes the form alone. -/
theorem deskKeeps_form (f : FormStore) (s : State) : DeskKeeps s { s with form := f } := {}

theorem keepsDesk_fieldDefine (r : Option FieldDef) : KeepsDesk (fieldDefineBody r) := by
  intro s u _ h
  unfold fieldDefineBody at h
  repeat' split at h
  all_goals cases h
  exact deskKeeps_form _ s

theorem keepsDesk_fieldDrop (n : Nat) : KeepsDesk (fieldDropBody n) := by
  intro s u _ h
  unfold fieldDropBody at h
  repeat' split at h
  all_goals cases h
  exact deskKeeps_form _ s

theorem keepsDesk_columnDefine (r : Option ColumnDef) : KeepsDesk (columnDefineBody r) := by
  intro s u _ h
  unfold columnDefineBody at h
  repeat' split at h
  all_goals cases h
  exact deskKeeps_form _ s

theorem keepsDesk_columnDrop (n : Nat) : KeepsDesk (columnDropBody n) := by
  intro s u _ h
  unfold columnDropBody at h
  repeat' split at h
  all_goals cases h
  exact deskKeeps_form _ s

theorem keepsDesk_labelWrite (a : Option LabelArgs) (data : List Byte) : KeepsDesk (labelWriteBody a data) := by
  intro s u _ h
  unfold labelWriteBody at h
  repeat' split at h
  all_goals cases h
  exact (deskKeeps_form _ s).trans (requestAll_frame ..).deskKeeps

theorem activate_line_eq (s : State) : (activate s).line = { s.line with taken := (activate s).line.taken } := by
  rw [activate_eq, requestAll_line]
  exact (placeAll_frame .tally (deskTags s.form) (activeState s)).line_eq

theorem keepsDesk_formEnd : KeepsDesk formEndBody := by
  intro s u _ h
  unfold formEndBody at h
  repeat' split at h
  all_goals cases h
  exact .of_blocks (by rw [activate_tp]) (activate_line_eq s) (activate_desk_eq s)

theorem deskKeeps_writeInst {i : Inst} {sh : Shape} {a : WriteArgs} {data : List Byte}
    (h : writeInst i sh a data s = .ok u) : DeskKeeps s u := by
  unfold writeInst at h
  repeat' split at h
  all_goals cases h
  exact (storeSystem_frame ..).deskKeeps

theorem keepsDesk_fieldWrite (n : Nat) (a : Option WriteArgs) (data : List Byte) : KeepsDesk (fieldWriteBody n a data) := by
  intro s u _ h
  unfold fieldWriteBody at h
  split at h
  · cases h
  · split at h
    · split at h
      · cases h
      · exact deskKeeps_writeInst h
    · cases h

theorem keepsDesk_cellWrite (l c : Nat) (a : Option WriteArgs) (data : List Byte) :
    KeepsDesk (cellWriteBody l c a data) := by
  intro s u _ h
  unfold cellWriteBody at h
  split at h
  · cases h
  · split at h
    · cases h
    · split at h
      · split at h
        · cases h
        · exact deskKeeps_writeInst h
      · cases h

/-- In READY a stream may be pointed, or its pointer moved. -/
theorem deskKeeps_stream (hp : s.tp.phase = .ready) (st : Option Stream) :
    DeskKeeps s { s with tp := { s.tp with stream := st } } where
  stream hstart := absurd (hp.symm.trans hstart) nofun

theorem keepsDesk_streamBegin (n : Nat) : KeepsDesk (streamBeginBody n) := by
  intro s u hp h
  unfold streamBeginBody at h
  repeat' split at h
  all_goals cases h
  exact deskKeeps_stream hp _

theorem keepsDesk_streamNext (f : Option Format) (data : List Byte) : KeepsDesk (streamNextBody f data) := by
  intro s u hp h
  unfold streamNextBody at h
  split at h
  · cases h
  · split at h
    · cases h
    · split at h
      · split at h
        · next t ht =>
          cases h
          have hwrite := deskKeeps_writeInst ht
          exact hwrite.trans (deskKeeps_stream (hwrite.phase.trans hp) _)
        · cases h
      · cases h

theorem keepsDesk_entriesClear : KeepsDesk entriesClearBody := by
  intro s u _ h
  unfold entriesClearBody at h
  split at h <;> cases h
  exact (clearEntries_frame ..).deskKeeps

theorem keepsDesk_cursorSet (form a b : Byte) : KeepsDesk (cursorSetBody form a b) := by
  intro s u _ h
  unfold cursorSetBody at h
  repeat' split at h
  all_goals cases h
  exact (abandonAndPlace_frame ..).deskKeeps

theorem keepsDesk_windowSet (n : Nat) : KeepsDesk (windowSetBody n) := by
  intro s u _ h
  unfold windowSetBody at h
  split at h <;> cases h
  exact (abandonAndPlace_frame ..).deskKeeps

theorem deskKeeps_dropSend (s : State) : DeskKeeps s (dropSend s) := .of_blocks rfl rfl rfl

theorem keepsDesk_release (opts : Byte) : KeepsDesk (releaseBody opts) := by
  intro s u _ h
  unfold releaseBody at h
  repeat' split at h
  all_goals cases h
  exact (deskKeeps_dropSend s).trans (releaseSend_frame ..).deskKeeps

theorem keepsDesk_reject (code form a b : Byte) (message : List Byte) : KeepsDesk (rejectBody code form a b message) := by
  intro s u _ h
  unfold rejectBody at h
  repeat' split at h
  all_goals cases h
  exact (deskKeeps_dropSend s).trans (rejectSend_frame ..).deskKeeps

theorem deskKeeps_queueMessage (m : OutMsg) (s : State) : DeskKeeps s (queueMessage m s) := {}

theorem keepsDesk_passSend (dest : Byte) (f : Option Format) (data : List Byte) : KeepsDesk (passSendBody dest f data) := by
  intro s u _ h
  unfold passSendBody at h
  repeat' split at h
  all_goals cases h
  exact deskKeeps_queueMessage _ s

/-- A banner is set young, and the empty text sets none (R177). -/
theorem bannerFits_bannerOf (t : Text) : BannerFits (bannerOf t) := by
  cases t with
  | nil => exact nofun
  | cons c cs =>
    rintro _ ⟨⟩
    exact ⟨List.cons_ne_nil c cs, show 0 < bannerLife by decide⟩

theorem deskKeeps_setBanner (t : Text) (s : State) : DeskKeeps s (setBanner t s) where
  banner _ := bannerFits_bannerOf t

theorem keepsDesk_bannerSend (f : Option Format) (data : List Byte) : KeepsDesk (bannerSendBody f data) := by
  intro s u _ h
  unfold bannerSendBody at h
  repeat' split at h
  all_goals cases h
  exact (deskKeeps_queueMessage _ s).trans (deskKeeps_setBanner _ _)

theorem deskKeeps_removeInbound (s : State) : DeskKeeps s (removeInbound s) := {}

theorem deskKeeps_clearLink (sel : Byte) (s : State) : DeskKeeps s (clearLink sel s) := {}

theorem deskKeeps_offerKeys (codes : List Byte) (s : State) : DeskKeeps s (offerKeys codes s) := {}

theorem deskKeeps_advanceRead (n : Nat) (s : State) : DeskKeeps s (advanceRead n s) := {}

theorem deskKeeps_statusFrame (n : Nat) (s : State) : DeskKeeps s (statusFrame n s) := {}

theorem deskKeeps_causeFrame (n : Nat) (s : State) : DeskKeeps s (causeFrame n s) := {}

/-- Every order but SOFT RESET keeps start-up and the desk tables. -/
theorem deskKeeps_order {i : Instr} (hi : frameOf i ≠ none) (hreset : ∀ n, i ≠ .softReset n) (h : exec i s = .next t) :
    DeskKeeps s t := by
  cases i
  case softReset n => exact absurd rfl (hreset n)
  case statusRead n => exact deskKeeps_of_ok (show ok (statusFrame n s) = .next t from h) (deskKeeps_statusFrame n s)
  case causeRead n =>
    have h' : execCauseRead n s = .next t := h
    unfold execCauseRead at h'
    split at h'
    · cases h'
      exact deskKeeps_closeFrame _ s
    · exact deskKeeps_of_ok h' (deskKeeps_causeFrame n s)
  case causeEnable set n =>
    exact .runOrder (show execCauseEnable set s n = .next t from h) fun s u _ hu => by cases hu; exact {}
  case displaySet opts n =>
    exact .runOrder (show execDisplaySet opts s n = .next t from h) fun s u _ hu => by cases hu; exact {}
  case loopbackSet => exact .runOrder h (keepsDesk_loopback _)
  case formBegin => exact .runOrder h (keepsDesk_formBegin _ _ _)
  case fieldDefine => exact .runOrder h (keepsDesk_fieldDefine _)
  case fieldDrop => exact .runOrder h (keepsDesk_fieldDrop _)
  case columnDefine => exact .runOrder h (keepsDesk_columnDefine _)
  case columnDrop => exact .runOrder h (keepsDesk_columnDrop _)
  case labelWrite => exact .runOrder h (keepsDesk_labelWrite _ _)
  case formEnd => exact .runOrder h keepsDesk_formEnd
  case fieldWrite => exact .runOrder h (keepsDesk_fieldWrite _ _ _)
  case cellWrite => exact .runOrder h (keepsDesk_cellWrite _ _ _ _)
  case streamBegin => exact .runOrder h (keepsDesk_streamBegin _)
  case streamNext => exact .runStreamOrder h (keepsDesk_streamNext _ _)
  case fieldRead f n => exact .runRead (show execFieldRead f n s = .next t from h) .refl
  case cellRead l c n => exact .runRead (show execCellRead l c n s = .next t from h) .refl
  case entriesClear => exact .runOrder h keepsDesk_entriesClear
  case cursorSet => exact .runOrder h (keepsDesk_cursorSet _ _ _)
  case cursorRead n => exact .runRead (show execCursorRead n s = .next t from h) .refl
  case windowSet => exact .runOrder h (keepsDesk_windowSet _)
  case key codes =>
    exact .runOrder (show execKey codes s = .next t from h) fun s u _ hu => by cases hu; exact deskKeeps_offerKeys codes s
  case blockRead n => exact .runRead h (deskKeeps_advanceRead n)
  case release => exact .runOrder h (keepsDesk_release _)
  case reject => exact .runOrder h (keepsDesk_reject _ _ _ _ _)
  case passSend => exact .runOrder h (keepsDesk_passSend _ _ _)
  case bannerSend => exact .runOrder h (keepsDesk_bannerSend _ _)
  case passRead n => exact .runRead (show execPassRead n s = .next t from h) deskKeeps_removeInbound
  case deskReadLinkStatus n => exact .runRead (show deskRead 0 n s = .next t from h) (deskKeeps_clearLink _)
  case deskReadTagReport sel n => exact .runRead (show deskRead sel n s = .next t from h) (deskKeeps_clearLink _)
  all_goals exact absurd rfl hi

end DeskKeepsOrders

end Sys2Proof.Machine

/-! ## Events keep start-up and the desk tables, and so does every step -/
namespace Sys2Proof.Machine

section DeskKeepsEvents

variable {s t u : State}

/-! ### The receiver and the frame assembler (R143 to R148) -/

/-- A change of the Desk Line Unit that leaves the station, FIFO and holding place. -/
theorem deskKeeps_line {m : DeskLineUnit} (hstation : m.station = s.line.station) (hfifo : m.fifo = s.line.fifo)
    (hhandoff : m.handoff = s.line.handoff) : DeskKeeps s { s with line := m } where
  station := hstation
  handoff := hhandoff ▸ id
  starting _ := by simp [NothingHeld, hfifo, hhandoff]

section Assembling

variable {l m : DeskLineUnit}

theorem Assembles.station (h : Assembles l m) : m.station = l.station := congrArg (·.station) h.rest

theorem handoff_judgeHead (c : RxChar) (l : DeskLineUnit) : (judgeHead c l).handoff = l.handoff := by
  unfold judgeHead
  repeat' split
  all_goals rfl

/-- A frame that validation hands on has the length of its kind, and a source that is another station's, or this one's
where it comes round the loopback path (R148, R156). -/
theorem handoffFits_validate {bytes : List Byte} (hlen : 4 + (bytes.getD 3 0).toNat ≤ bytes.length)
    (h : HandoffFits l.station.toNat l.handoff) : HandoffFits l.station.toNat (validate bytes l).handoff := by
  unfold validate
  dsimp only
  split
  · exact h
  · next hsrc =>
    split
    · exact h
    · next hclash =>
      split
      · exact h
      · next k _ =>
        split
        · exact h
        · next hlegal =>
          split
          · exact h
          · next hlooped =>
            rintro _ ⟨⟩
            have hpayload : ((bytes.drop 4).take (bytes.getD 3 0).toNat).length = (bytes.getD 3 0).toNat := by
              rw [List.length_take, List.length_drop]
              omega
            simp only [handoffSound, hpayload, Bool.and_eq_true, Bool.or_eq_true, decide_eq_true_eq]
            refine ⟨⟨Nat.lt_of_not_le hsrc, ?_⟩, by simpa using fun h => hlegal (.inl h)⟩
            cases hloop : l.loopback with
            | true => exact .inr (by simpa [hloop] using hlooped)
            | false => exact .inl fun hown => hclash ⟨hloop, hown⟩

theorem handoffFits_checkFrame (hlen : 4 + (l.buffer.getD 3 0).toNat ≤ l.buffer.length)
    (h : HandoffFits l.station.toNat l.handoff) : HandoffFits l.station.toNat (checkFrame l).handoff := by
  unfold checkFrame
  dsimp only
  split
  · exact handoffFits_validate (l := abandonFrame l) hlen h
  · exact h

theorem handoffFits_appendChar (b : Byte) (h : HandoffFits l.station.toNat l.handoff) :
    HandoffFits l.station.toNat (appendChar b l).handoff := by
  unfold appendChar
  dsimp only
  repeat' split
  · exact h
  · exact h
  · next hfull =>
    exact handoffFits_checkFrame (l := { l with buffer := l.buffer ++ [b] }) (by dsimp only; omega) h
  · exact h

theorem handoffFits_assemble (c : RxChar) (h : HandoffFits l.station.toNat l.handoff) :
    HandoffFits l.station.toNat (assemble c l).handoff := by
  unfold assemble
  repeat' split
  · rwa [handoff_judgeHead]
  · rwa [handoff_judgeHead]
  · rwa [handoff_judgeHead]
  · exact h
  · rwa [handoff_judgeHead]
  · exact handoffFits_appendChar c.data h

end Assembling

/-- A character enters the FIFO in READY only, and a full FIFO is emptied (R143). -/
theorem deskKeeps_characterReceived {data : Byte} {mark framing : Bool}
    (h : execCharacterReceived data mark framing s = .next t) : DeskKeeps s t := by
  refine deskKeeps_of_ite h fun htake => ?_
  have hready : s.tp.phase = .ready := by
    simp only [canReceive, Bool.and_eq_true, decide_eq_true_eq, and_assoc] at htake
    exact htake.1
  have hstarting : s.tp.phase ≠ .starting := by simp [hready]
  unfold acceptChar
  split
  · exact { station := rfl, handoff := id, starting := fun hp => absurd hp hstarting }
  · exact { station := rfl, handoff := id, starting := fun hp => absurd hp hstarting }

/-- The frame assembler works on a character of the FIFO, which holds none in STARTING. -/
theorem deskKeeps_frameAssemblerCharacter (h : execFrameAssemblerCharacter s = .next t) : DeskKeeps s t := by
  unfold execFrameAssemblerCharacter at h
  split at h
  · next c cs hfifo _ =>
    refine deskKeeps_of_ok h ?_
    have hassembles := assembles_assemble c { s.line with fifo := cs }
    exact {
      station := hassembles.station
      handoff := fun hf => handoffFits_assemble (l := { s.line with fifo := cs }) c hf
      starting := fun _ hheld => absurd (hfifo.symm.trans hheld.2.2) (List.cons_ne_nil c cs) }
  · exact deskKeeps_of_noEvent h

theorem deskKeeps_gapTimerExpiry (h : execGapTimerExpiry s = .next t) : DeskKeeps s t := by
  refine deskKeeps_of_ite h fun _ => ?_
  dsimp only
  split <;> exact deskKeeps_line rfl rfl rfl

/-! ### The transmitter (R149 to R155) -/

theorem deskKeeps_enterSend (f : Frame) (s : State) : DeskKeeps s { s with line := enterSend f s.line } := by
  unfold enterSend
  dsimp only
  split <;> exact deskKeeps_line rfl rfl rfl

/-- A held change of link mode empties the FIFO (R155). -/
theorem deskKeeps_leaveSend {m : DeskLineUnit} (h : DeskKeeps s { s with line := m }) :
    DeskKeeps s { s with line := leaveSend m } := by
  refine h.trans ?_
  unfold leaveSend
  split
  · exact deskKeeps_applyLoopback _ { s with line := m }
  · exact deskKeeps_line (s := { s with line := m }) rfl rfl rfl

theorem deskKeeps_retire (s : State) : DeskKeeps s (retire s) := {}

theorem deskKeeps_enterYield (s : State) : DeskKeeps s (enterYield s) :=
  (deskKeeps_retire s).trans (deskKeeps_leaveSend (deskKeeps_line rfl rfl rfl))

theorem deskKeeps_enterBackoff (s : State) : DeskKeeps s (enterBackoff s) :=
  deskKeeps_leaveSend (deskKeeps_line rfl rfl rfl)

theorem deskKeeps_dropFrame (s : State) : DeskKeeps s (dropFrame s) :=
  (deskKeeps_line (m := { s.line with
    flags := { s.line.flags with dropped := true }, lastDropped := s.line.frame.map (·.kind) }) rfl rfl rfl).trans
    (deskKeeps_enterYield _)

theorem deskKeeps_askArbiter (s : State) : DeskKeeps s (askArbiter s) := {}

theorem deskKeeps_accessGapReached (h : execAccessGapReached s = .next t) : DeskKeeps s t := by
  unfold execAccessGapReached at h
  split at h
  · split at h
    · exact deskKeeps_of_ok h (deskKeeps_enterSend ..)
    · exact deskKeeps_of_noEvent h
  · exact deskKeeps_of_noEvent h

theorem deskKeeps_collision (h : execCollision s = .next t) : DeskKeeps s t := by
  unfold execCollision at h
  split at h
  · split at h
    · exact deskKeeps_of_ok h (deskKeeps_enterBackoff s)
    · exact deskKeeps_of_ok h (deskKeeps_dropFrame s)
  · exact deskKeeps_of_noEvent h

/-! ### The contribution table (R164, R165) -/

/-- A change of the contribution table, with the desk sums that follow from it. -/
theorem deskKeeps_retable {g : List (Nat × Entry) → List (Nat × Entry)}
    (hg : s.desk.table.all (entrySound s.line.station.toNat) = true →
      (g s.desk.table).all (entrySound s.line.station.toNat) = true)
    (hnil : s.tp.phase = .starting → g [] = []) : DeskKeeps s (retable g s) where
  entries := by simpa [retable] using hg
  starting hp hheld := by simpa [NothingHeld, retable, hheld.1, hnil hp] using hheld.2

/-- A part of the table is as sound as the whole. -/
theorem deskKeeps_retable_of_subset {g : List (Nat × Entry) → List (Nat × Entry)} (hg : ∀ m, g m ⊆ m) :
    DeskKeeps s (retable g s) :=
  deskKeeps_retable (fun h => List.all_eq_true.2 fun p hp => List.all_eq_true.1 h p (hg _ hp))
    (fun _ => List.subset_nil.1 (hg []))

theorem dropSource_subset (src : Nat) (m : List (Nat × Entry)) : dropSource src m ⊆ m := List.filter_subset_self m

theorem assocDel_subset {α : Type} (m : List (Nat × α)) (k : Nat) : assocDel m k ⊆ m := fun _ => mem_assocDel

/-- Ageing empties the entries that reach 30 ticks (R165). -/
theorem all_ageTable {own : Nat} {m : List (Nat × Entry)} (h : m.all (entrySound own) = true) :
    (ageTable m).all (entrySound own) = true := by
  simp only [ageTable, List.all_eq_true, List.mem_filter, List.mem_map, decide_eq_true_eq]
  rintro _ ⟨⟨p, hp, rfl⟩, hage⟩
  have hsound := List.all_eq_true.1 h p hp
  simp only [entrySound, Bool.and_eq_true, decide_eq_true_eq] at hsound ⊢
  obtain ⟨⟨hkey, -⟩, hshare⟩ := hsound
  exact ⟨⟨hkey, hage⟩, hshare⟩

theorem keyTag_entryKey {tag src : Nat} (h : src < 32) : keyTag (entryKey tag src) = tag := by
  unfold keyTag entryKey
  omega

theorem keySource_entryKey {tag src : Nat} (h : src < 32) : keySource (entryKey tag src) = src := by
  unfold keySource entryKey
  omega

/-- Two decimal digits a byte spell a number below a power of 100 (R199). -/
theorem bcdNat_lt {ds : List Byte} (h : ∀ b ∈ ds, bcdLegal b = true) : bcdNat ds < 100 ^ ds.length := by
  induction ds using List.reverseRecOn with
  | nil => decide
  | append_singleton ds b ih =>
    have hds : bcdNat ds < 100 ^ ds.length := ih fun c hc => h c (List.mem_append_left _ hc)
    have hb : b.toNat / 16 ≤ 9 ∧ b.toNat % 16 ≤ 9 := by
      simpa [bcdLegal] using h b (List.mem_append_right _ (List.mem_singleton_self b))
    have hconcat : bcdNat (ds ++ [b]) = 100 * bcdNat ds + (10 * (b.toNat / 16) + b.toNat % 16) := by
      rw [bcdNat, List.foldl_append]
      rfl
    rw [hconcat, List.length_append, List.length_singleton, Nat.pow_succ]
    omega

/-- A value field of 11 bytes carries a share in the range of a TALLY (R161, R164). -/
theorem shareInRange_of_shareOfBytes {bs : List Byte} {sh : Share} (hlen : bs.length = 11)
    (h : shareOfBytes bs = some sh) : shareInRange sh = true := by
  cases bs with
  | nil => cases h
  | cons st ds =>
    unfold shareOfBytes at h
    dsimp only at h
    split at h
    · cases h
      rfl
    · split at h
      · next hlegal =>
        have hmag := bcdNat_lt fun b hb => List.all_eq_true.1 hlegal.2 b hb
        rw [show ds.length = 10 from Nat.succ.inj hlen] at hmag
        have hrange : bcdNat ds < tallyRange := by simpa [tallyRange] using hmag
        cases h
        simp only [shareInRange, decide_eq_true_eq]
        split <;> simpa using hrange
      · cases h

/-- What a TALLY of a legal payload announces (R161). -/
theorem of_tallyOf {payload : List Byte} {tag : Nat} {sh : Share} (hlen : payload.length = 12)
    (h : tallyOf payload = some (tag, sh)) : oneTo 8 tag = true ∧ shareInRange sh = true := by
  cases payload with
  | nil => cases h
  | cons b bs =>
    unfold tallyOf at h
    dsimp only at h
    split at h
    · next htag =>
      obtain ⟨sh', hshare, hpair⟩ := Option.map_eq_some_iff.1 h
      cases hpair
      exact ⟨htag, shareInRange_of_shareOfBytes (Nat.succ.inj hlen) hshare⟩
    · cases h

/-! ### Received frames (R160) -/

/-- The application of a frame, which is sound, in READY. -/
theorem deskKeeps_applyFrame {k : FrameKind} {effect : Frame → State → State} (hs : DeskSound s)
    (h : applyFrame k effect s = .next t)
    (he : ∀ f u, u.tp.phase = .ready → f.kind = k → handoffSound u.line.station.toNat f = true →
      DeskKeeps u (effect f u)) : DeskKeeps s t := by
  rcases applyFrame_cases h with rfl | ⟨f, hf, hk, hp, rfl⟩
  · exact .refl _
  · have hclear : DeskKeeps s (clearHandoff s) := {
      handoff := fun _ => nofun
      starting := fun _ hheld => ⟨hheld.1, rfl, hheld.2.2⟩ }
    exact hclear.trans ((he f (clearHandoff s) hp hk (hs.handoff f hf)).trans (deskKeeps_settle _))

theorem deskKeeps_placeAll (a : Announce) (ts : List Nat) (s : State) : DeskKeeps s (placeAll a ts s) :=
  (placeAll_frame a ts s).deskKeeps

/-- A change of the paused-station set alone. -/
theorem deskKeeps_paused {m : List (Nat × Nat)} (hm : TimersFit s.desk.paused → TimersFit m) :
    DeskKeeps s { s with desk := { s.desk with paused := m } } where
  timers := hm

theorem deskKeeps_unpause (src : Nat) (s : State) : DeskKeeps s (unpause src s) :=
  deskKeeps_paused fun h => List.all_eq_true.2 fun p hp => List.all_eq_true.1 h p (mem_assocDel hp)

theorem deskKeeps_greetEffect (f : Frame) (s : State) : DeskKeeps s (greetEffect f s) :=
  (deskKeeps_unpause ..).trans ((deskKeeps_placeAll ..).trans (deskKeeps_retable_of_subset (dropSource_subset _)))

theorem deskKeeps_setLength (s : State) : DeskKeeps s (setLength s) := {}

/-- A TALLY's entry is of another station, for the frame was handed on in normal mode (R148, R156). -/
theorem deskKeeps_tallyEffect {f : Frame} (hp : s.tp.phase = .ready) (hk : f.kind = .tally)
    (hf : handoffSound s.line.station.toNat f = true) : DeskKeeps s (tallyEffect f s) := by
  unfold tallyEffect
  split
  · next tag sh htally =>
    simp only [handoffSound, hk, loopedKind, lengthLegal, Bool.and_eq_true, Bool.or_false, decide_eq_true_eq] at hf
    obtain ⟨⟨hsrc, hother⟩, hlen⟩ := hf
    obtain ⟨htag, hshare⟩ := of_tallyOf hlen htally
    have hsrc32 : sourceOf f < 32 := hsrc.trans (by decide)
    refine deskKeeps_retable (fun hall => List.all_eq_true.2 fun p hmem => ?_) (fun hstart => by simp [hp] at hstart)
    rcases mem_assocPut hmem with rfl | hold
    · simp only [entrySound, keyTag_entryKey hsrc32, keySource_entryKey hsrc32, Bool.and_eq_true, decide_eq_true_eq]
      exact ⟨⟨⟨⟨htag, hsrc⟩, hother⟩, by decide⟩, hshare⟩
    · exact List.all_eq_true.1 hall p hold
  · exact deskKeeps_setLength s

theorem deskKeeps_retractEffect (f : Frame) (s : State) : DeskKeeps s (retractEffect f s) := by
  unfold retractEffect
  dsimp only
  split
  · exact deskKeeps_setLength s
  · split
    · exact deskKeeps_retable_of_subset (dropSource_subset _)
    · exact deskKeeps_retable_of_subset fun m => assocDel_subset m _

theorem deskKeeps_deliver (m : InMsg) (s : State) : DeskKeeps s (deliver m s) := {}

theorem deskKeeps_pauseEffect {f : Frame} (hf : handoffSound s.line.station.toNat f = true) :
    DeskKeeps s (pauseEffect f s) := by
  simp only [handoffSound, Bool.and_eq_true, decide_eq_true_eq] at hf
  obtain ⟨⟨hsrc, -⟩, -⟩ := hf
  refine deskKeeps_paused fun h => List.all_eq_true.2 fun p hmem => ?_
  rcases mem_assocPut hmem with rfl | hold
  · exact decide_eq_true ⟨hsrc, show 0 < holdTime by decide, Nat.le_refl holdTime⟩
  · exact List.all_eq_true.1 h p hold

/-! ### Desk ticks (R165, R168, R175 to R177) -/

theorem deskKeeps_refreshAll (s : State) : DeskKeeps s (refreshAll s) where
  refresh _ := by
    have hrefresh : (refreshAll s).desk.refresh = 0 := placeAll_desk_refresh ..
    rw [hrefresh]
    decide

theorem deskKeeps_tickRefresh (s : State) : DeskKeeps s (tickRefresh s) := by
  unfold tickRefresh
  split
  · next hless => exact { refresh := fun _ => hless }
  · exact deskKeeps_refreshAll s

theorem deskKeeps_tickPause (s : State) : DeskKeeps s (tickPause s) := {}

/-- Every hold timer falls, and one that comes to 0 goes (R176). -/
theorem timersFit_tickHolds {m : List (Nat × Nat)} (h : TimersFit m) : TimersFit (tickHolds m) := by
  simp only [TimersFit, tickHolds, List.all_eq_true, List.mem_filter, List.mem_map, decide_eq_true_eq] at h ⊢
  rintro _ ⟨⟨p, hp, rfl⟩, hpos⟩
  obtain ⟨hstation, -, hmax⟩ := h p hp
  exact ⟨hstation, hpos, (Nat.sub_le ..).trans hmax⟩

theorem deskKeeps_dropBanner (s : State) : DeskKeeps s (dropBanner s) where
  banner _ := nofun

theorem deskKeeps_tickBanner (s : State) : DeskKeeps s (tickBanner s) := by
  unfold tickBanner
  split
  · exact .refl s
  · next b hb =>
    split
    · next hage =>
      refine { banner := fun h => ?_ }
      rintro _ ⟨⟩
      exact ⟨(h b hb).1, hage⟩
    · exact deskKeeps_dropBanner s

theorem deskKeeps_tick (s : State) : DeskKeeps s (tick s) := by
  have htable : DeskKeeps s (retable ageTable s) := deskKeeps_retable all_ageTable fun _ => rfl
  refine htable.trans ((deskKeeps_tickRefresh _).trans ((deskKeeps_tickPause _).trans ?_))
  exact (deskKeeps_paused timersFit_tickHolds).trans (deskKeeps_tickBanner _)

/-! ### Renders, the assembly and frames closed early -/

theorem deskKeeps_renderComplete (h : execRenderComplete s = .next t) : DeskKeeps s t := by
  unfold execRenderComplete at h
  split at h
  · exact deskKeeps_of_ok h {}
  · exact deskKeeps_of_noEvent h

theorem deskKeeps_assemblyComplete (h : execAssemblyComplete s = .next t) : DeskKeeps s t := by
  unfold execAssemblyComplete at h
  split at h
  · split at h
    · exact deskKeeps_of_ok h ((deskKeeps_dropSend s).trans (raiseError_frame ..).deskKeeps)
    · exact deskKeeps_of_ok h (.of_blocks rfl rfl rfl)
  · exact deskKeeps_of_noEvent h

theorem deskKeeps_openEffect (code : Byte) (rest : List Byte) (s : State) : DeskKeeps s (openEffect code rest s) := by
  unfold openEffect
  split
  · split
    · exact deskKeeps_offerKeys ..
    · split
      · exact deskKeeps_advanceRead ..
      · exact .refl s
    · exact deskKeeps_clearLink ..
    · exact .refl s
  · exact .refl s

theorem deskKeeps_openStream (code : Byte) (s : State) : DeskKeeps s (openStream code s) := by
  unfold openStream
  split
  · exact .refl s
  · exact deskKeeps_endStream s

theorem deskKeeps_abandonOrder (code : Byte) (k : Nat) (rest : List Byte) (s : State) :
    DeskKeeps s (abandonOrder code k rest s) := by
  have hclosed := (deskKeeps_openEffect code rest s).trans (deskKeeps_closeFrame (openSdo code k rest s) _)
  exact (hclosed.trans (deskKeeps_openStream code _)).trans (deskKeeps_record ..)

theorem deskKeeps_abandonKnown (code : Byte) (k : Nat) (rest : List Byte) (s : State) :
    DeskKeeps s (abandonKnown code k rest s) := by
  unfold abandonKnown
  repeat' split
  · exact deskKeeps_statusFrame ..
  · exact deskKeeps_causeFrame ..
  · exact deskKeeps_closeFrame ..
  · exact deskKeeps_abandonOrder ..

theorem deskKeeps_unknownFrame (n : Nat) (s : State) : DeskKeeps s (unknownFrame n s) :=
  (deskKeeps_framed _ s).trans (deskKeeps_record ..)

theorem deskKeeps_frameAbandoned {bytes : List Byte} {part : Bool} (h : execFrameAbandoned bytes part s = .next t) :
    DeskKeeps s t := by
  cases bytes with
  | nil =>
    refine deskKeeps_of_ok h ?_
    split
    · exact (deskKeeps_closeFrame ..).trans (deskKeeps_record ..)
    · exact deskKeeps_closeFrame ..
  | cons code rest =>
    unfold execFrameAbandoned at h
    dsimp only at h
    split at h
    · exact deskKeeps_of_ok h (deskKeeps_unknownFrame ..)
    · exact deskKeeps_of_ite h fun _ => deskKeeps_abandonKnown ..

/-! ### Resets and start-up (R189, R190) -/

/-- What O57 says of a state. -/
def StartAndDeskSound (s : State) : Prop := StartSound s ∧ DeskSound s

theorem DeskKeeps.sound (h : DeskKeeps s t) (hs : StartAndDeskSound s) : StartAndDeskSound t :=
  ⟨h.startSound hs.1, h.deskSound hs.2⟩

theorem sound_powerOn (h : exec .powerOn s = .next t) : StartAndDeskSound t := by
  cases h
  exact ⟨Proofs.startSound_resetTo _ _ _ _ (fun _ => rfl) (fun _ => rfl), Proofs.deskSound_resetTo ..⟩

theorem sound_resetnAsserted (h : exec .resetnAsserted s = .next t) : StartAndDeskSound t := by
  cases h
  exact ⟨Proofs.startSound_resetTo _ _ _ _ (fun _ => rfl) (fun _ => rfl), Proofs.deskSound_resetTo ..⟩

/-- SOFT RESET is taken in READY, where RESETN is high and the supply steady, so that the clearing may begin at once. -/
theorem sound_softReset {n : Nat} (hs : StartAndDeskSound s) (h : execSoftReset s n = .next t) : StartAndDeskSound t := by
  unfold execSoftReset at h
  split at h
  · exact (DeskKeeps.runOrder h fun _ _ _ hu => by cases hu).sound hs
  · next hready =>
    cases h
    exact ⟨Proofs.startSound_resetTo _ _ _ _ (fun hlow => absurd (hs.1.low hlow).1 hready)
      (fun hsupply => absurd (hs.1.supply hsupply).1 hready), Proofs.deskSound_resetTo ..⟩

/-- The straps are sampled in STARTING, where no entry and no frame is held that speaks of a station (R190). -/
theorem deskSound_beginClearing (hs : DeskSound s) (hstart : s.tp.phase = .starting) (stn : Station) (rate : Rate) :
    DeskSound (beginClearing stn rate s) := by
  obtain ⟨htable, hhandoff, hfifo⟩ := hs.starting hstart
  exact {
    entries := by simp [beginClearing, htable]
    handoff := fun f hf => nomatch hhandoff.symm.trans hf
    refresh := hs.refresh
    timers := hs.timers
    banner := hs.banner
    starting := fun _ => ⟨htable, hhandoff, hfifo⟩ }

theorem startSound_beginClearing (hstart : s.tp.phase = .starting) (hstream : s.tp.stream = none)
    (hlow : s.tp.resetnLow = false) (hsupply : s.tp.supplySteady = true) (stn : Station) (rate : Rate) :
    StartSound (beginClearing stn rate s) where
  stream _ := hstream
  low h := nomatch hlow.symm.trans h
  supply h := nomatch hsupply.symm.trans h
  clearing _ := hstart

theorem sound_resetnReleased {stn : Station} {rate : Rate} (hs : StartAndDeskSound s)
    (h : execResetnReleased stn rate s = .next t) : StartAndDeskSound t := by
  obtain ⟨hstartup, hdesk⟩ := hs
  unfold execResetnReleased at h
  split at h
  · next hlow =>
    obtain ⟨hstart, hclearing⟩ := hstartup.low hlow
    cases h
    have hreleased : DeskSound { s with tp := { s.tp with resetnLow := false } } :=
      ⟨hdesk.entries, hdesk.handoff, hdesk.refresh, hdesk.timers, hdesk.banner, hdesk.starting⟩
    split
    · next hsupply =>
      exact ⟨startSound_beginClearing (s := { s with tp := { s.tp with resetnLow := false } }) hstart
          (hstartup.stream hstart) rfl hsupply stn rate,
        deskSound_beginClearing hreleased hstart stn rate⟩
    · exact ⟨⟨hstartup.stream, nofun, hstartup.supply, hstartup.clearing⟩, hreleased⟩
  · exact (deskKeeps_of_noEvent h).sound ⟨hstartup, hdesk⟩

theorem sound_supplySteady {stn : Station} {rate : Rate} (hs : StartAndDeskSound s)
    (h : execSupplySteady stn rate s = .next t) : StartAndDeskSound t := by
  obtain ⟨hstartup, hdesk⟩ := hs
  unfold execSupplySteady at h
  split at h
  · next hc =>
    obtain ⟨hstart, hsupply⟩ := hc
    cases h
    have hsteady : DeskSound { s with tp := { s.tp with supplySteady := true } } :=
      ⟨hdesk.entries, hdesk.handoff, hdesk.refresh, hdesk.timers, hdesk.banner, hdesk.starting⟩
    split
    · exact ⟨⟨hstartup.stream, hstartup.low, nofun, hstartup.clearing⟩, hsteady⟩
    · next hlow =>
      exact ⟨startSound_beginClearing (s := { s with tp := { s.tp with supplySteady := true } }) hstart
          (hstartup.stream hstart) (by simpa using hlow) rfl stn rate,
        deskSound_beginClearing hsteady hstart stn rate⟩
  · exact (deskKeeps_of_noEvent h).sound ⟨hstartup, hdesk⟩

/-- The clearing ends with RESETN high and the supply steady, so that the device may be READY. -/
theorem sound_startUpComplete (hs : StartAndDeskSound s) (h : execStartUpComplete s = .next t) : StartAndDeskSound t := by
  unfold execStartUpComplete at h
  split at h
  · next hc =>
    obtain ⟨hstartup, hdesk⟩ := hs
    have hready : StartAndDeskSound (startUp s) := by
      refine ⟨⟨nofun, fun hlow => ?_, fun hsupply => ?_, nofun⟩,
        ⟨hdesk.entries, hdesk.handoff, hdesk.refresh, hdesk.timers, hdesk.banner, nofun⟩⟩
      · exact absurd ((hstartup.low hlow).2.symm.trans hc.2) nofun
      · exact absurd ((hstartup.supply hsupply).2.symm.trans hc.2) nofun
    exact ok_eq_next.1 h ▸ (deskKeeps_settle (startUp s)).sound hready
  · exact (deskKeeps_of_noEvent h).sound hs

/-! ### Every command -/

/-- The events but the resets and start-up. -/
theorem deskKeeps_event {i : Instr} (hs : DeskSound s) (h : exec i s = .next t) (hf : frameOf i = none)
    (hk : keyRowOf i = none) (hpower : i ≠ .powerOn) (hassert : i ≠ .resetnAsserted)
    (hrelease : ∀ stn rate, i ≠ .resetnReleased stn rate) (hsteady : ∀ stn rate, i ≠ .supplySteady stn rate)
    (hstart : i ≠ .startUpComplete) : DeskKeeps s t := by
  cases i
  case powerOn => exact absurd rfl hpower
  case resetnAsserted => exact absurd rfl hassert
  case resetnReleased stn rate => exact absurd rfl (hrelease stn rate)
  case supplySteady stn rate => exact absurd rfl (hsteady stn rate)
  case startUpComplete => exact absurd rfl hstart
  case frameOpen => exact deskKeeps_of_ite h fun _ => {}
  case frameAbandoned => exact deskKeeps_frameAbandoned h
  case unknownOrderCode => exact deskKeeps_of_ite h fun _ => deskKeeps_unknownFrame ..
  case assemblyComplete => exact deskKeeps_assemblyComplete h
  case renderComplete => exact deskKeeps_renderComplete h
  case alarmTimerExpiry => exact deskKeeps_of_ite h fun _ => {}
  case characterReceived => exact deskKeeps_characterReceived h
  case breakDetected => exact deskKeeps_of_ite h fun _ => deskKeeps_line rfl rfl rfl
  case lineHighAfterBreak => exact deskKeeps_of_ite h fun _ => deskKeeps_line rfl rfl rfl
  case receiveListenComplete => exact deskKeeps_of_ite h fun _ => deskKeeps_line rfl rfl rfl
  case startBit => exact deskKeeps_of_ite h fun _ => deskKeeps_line rfl rfl rfl
  case gapTimerExpiry => exact deskKeeps_gapTimerExpiry h
  case frameAssemblerCharacter => exact deskKeeps_frameAssemblerCharacter h
  case greet => exact deskKeeps_applyFrame hs h fun f u _ _ _ => deskKeeps_greetEffect f u
  case tally => exact deskKeeps_applyFrame hs h fun _ _ => deskKeeps_tallyEffect
  case retract => exact deskKeeps_applyFrame hs h fun f u _ _ _ => deskKeeps_retractEffect f u
  case banner => exact deskKeeps_applyFrame hs h fun _ u _ _ _ => deskKeeps_setBanner _ u
  case pass => exact deskKeeps_applyFrame hs h fun _ u _ _ _ => deskKeeps_deliver _ u
  case pause => exact deskKeeps_applyFrame hs h fun _ _ _ _ => deskKeeps_pauseEffect
  case resume =>
    exact deskKeeps_applyFrame hs (show execResume s = .next t from h) fun f u _ _ _ => deskKeeps_unpause (sourceOf f) u
  case joinListenComplete => exact deskKeeps_of_ite h fun _ => deskKeeps_line rfl rfl rfl
  case accessGapReached => exact deskKeeps_accessGapReached h
  case frameSent => exact deskKeeps_of_ite h fun _ => deskKeeps_enterYield s
  case collision => exact deskKeeps_collision h
  case backoffComplete => exact deskKeeps_of_ite h fun _ => deskKeeps_line rfl rfl rfl
  case yieldComplete => exact deskKeeps_of_ite h fun _ => deskKeeps_askArbiter s
  case deskTick => exact deskKeeps_of_ite h fun _ => deskKeeps_tick s
  case contributionAgeOut =>
    exact deskKeeps_of_ite h fun _ => deskKeeps_retable_of_subset fun m => assocDel_subset m _
  case refresh => exact deskKeeps_of_ite h fun _ => deskKeeps_refreshAll s
  case holdTimerExpiry => exact deskKeeps_of_ite h fun _ => deskKeeps_unpause ..
  case bannerExpiry => exact deskKeeps_of_ite h fun _ => deskKeeps_dropBanner s
  all_goals simp [frameOf, keyRowOf] at hf hk

theorem sound_exec {i : Instr} (hs : StartAndDeskSound s) (h : exec i s = .next t) : StartAndDeskSound t := by
  by_cases hf : frameOf i = none
  · by_cases hk : keyRowOf i = none
    · by_cases hstartup : i = .powerOn ∨ i = .resetnAsserted ∨ (∃ stn rate, i = .resetnReleased stn rate) ∨
          (∃ stn rate, i = .supplySteady stn rate) ∨ i = .startUpComplete
      · rcases hstartup with rfl | rfl | ⟨stn, rate, rfl⟩ | ⟨stn, rate, rfl⟩ | rfl
        · exact sound_powerOn h
        · exact sound_resetnAsserted h
        · exact sound_resetnReleased hs h
        · exact sound_supplySteady hs h
        · exact sound_startUpComplete hs h
      · simp only [not_or, not_exists] at hstartup
        obtain ⟨hpower, hassert, hrelease, hsteady, hstart⟩ := hstartup
        exact (deskKeeps_event hs.2 h hf hk hpower hassert hrelease hsteady hstart).sound hs
    · exact (deskKeeps_keyRow hk h).sound hs
  · by_cases hreset : ∃ n, i = .softReset n
    · obtain ⟨n, rfl⟩ := hreset
      exact sound_softReset hs h
    · exact (deskKeeps_order hf (not_exists.1 hreset) h).sound hs

end DeskKeepsEvents

end Sys2Proof.Machine

namespace Sys2Proof.Proofs

open Machine

/-- Settles O57: a step runs one command on the queue's rest, or idles, and each command keeps both relations. -/
theorem deskTablesStaySound : Obligations.DeskTablesStaySound := by
  intro s t hs h
  unfold step at h
  split at h
  · cases h
    exact hs
  · next rest _ =>
    have hrest : DeskKeeps s { s with pending := rest } := {}
    exact sound_exec (hrest.sound hs) h

end Sys2Proof.Proofs

/-! ## The transmit arbiter, place by place (R171) -/
namespace Sys2Proof.Machine

section Arbiter

variable {d : DeskExchange}

theorem arbiter_greet (hgreet : d.greet = true) : arbiter d = some .greet := by
  simp [arbiter, hgreet]

theorem arbiter_flow (hgreet : d.greet = false) (hflow : d.flow ≠ none) : arbiter d = some .flow := by
  simp [arbiter, hgreet, Option.isSome_iff_ne_none.2 hflow]

theorem arbiter_tag (hgreet : d.greet = false) (hflow : d.flow = none) {t : Nat} {a : Announce} {m : List (Nat × Announce)}
    (htallies : d.tallies = (t, a) :: m) : arbiter d = some (.tag t) := by
  simp [arbiter, hgreet, hflow, htallies]

theorem arbiter_message (hgreet : d.greet = false) (hflow : d.flow = none) (htallies : d.tallies = []) :
    arbiter d = (firstUnheld d).map Place.message := by
  simp [arbiter, hgreet, hflow, htallies]

/-- The least listed key of a keyed list in canonical form is its first. -/
theorem assoc_head_of_least {α : Type} {m : List (Nat × α)} (hwf : assocWf m = true) {k : Nat} {v : α}
    (hk : assocGet m k = some v) (hleast : ∀ j w, assocGet m j = some w → k ≤ j) : ∃ w r, m = (k, w) :: r := by
  cases m with
  | nil => cases hk
  | cons p r =>
    obtain ⟨j, w⟩ := p
    have hkj : k ≤ j := hleast j w (by simp [assocGet])
    have hjk : j ≤ k := by
      by_contra hlt
      have hrest : assocGet r k = none := assocGet_above hwf (by omega)
      rw [assocGet, if_neg (by omega), hrest] at hk
      cases hk
    obtain rfl := Nat.le_antisymm hkj hjk
    exact ⟨w, r, rfl⟩

theorem firstUnheld_eq_some {i : Nat} {m : OutMsg} (hm : d.messages[i]? = some m) (hfree : heldMessage d m = false)
    (hheld : ∀ j m', j < i → d.messages[j]? = some m' → heldMessage d m' = true) : firstUnheld d = some i := by
  obtain ⟨hi, rfl⟩ := List.getElem?_eq_some_iff.1 hm
  refine List.findIdx?_eq_some_iff_getElem.2 ⟨hi, by simp [hfree], fun j hj => ?_⟩
  simp [hheld j _ hj (List.getElem?_eq_getElem (hj.trans hi))]

theorem firstUnheld_eq_none (hheld : ∀ m ∈ d.messages, heldMessage d m = true) : firstUnheld d = none :=
  List.findIdx?_eq_none_iff.2 fun m hm => by simp [hheld m hm]

end Arbiter

end Sys2Proof.Machine

namespace Sys2Proof.Proofs

open Machine

/-- Settles O7: R171's places one by one; the tally set is in canonical form, so that its lowest tag is its first. -/
theorem arbiterPrecedence : Obligations.ArbiterPrecedence := by
  intro d
  refine ⟨arbiter_greet, arbiter_flow, ?_, ?_, ?_⟩
  · intro hgreet hflow hwf t a ht hleast
    obtain ⟨w, r, htallies⟩ := assoc_head_of_least hwf ht hleast
    exact arbiter_tag hgreet hflow htallies
  · intro hgreet hflow htallies i m hm hfree hheld
    rw [arbiter_message hgreet hflow htallies, firstUnheld_eq_some hm hfree hheld, Option.map_some]
  · intro hgreet hflow htallies hheld
    rw [arbiter_message hgreet hflow htallies, firstUnheld_eq_none hheld, Option.map_none]

end Sys2Proof.Proofs

/-! ## The desk sums after a change of the contribution table (R105) -/
namespace Sys2Proof.Machine

section DeskSums

variable {s t u v : State}

theorem recomputeDesk_of_active (h : s.form.state = .active) :
    recomputeDesk s = deskChange s (requestAll
      (fieldItems (changedFields (· = .deskSum) s { s with form := deskSums s.desk s.form }))
      { s with form := deskSums s.desk s.form }) := if_pos h

theorem recomputeDesk_of_inactive (h : s.form.state ≠ .active) : recomputeDesk s = s := if_neg h

theorem valFind_deskSums_of_ne {d : DeskExchange} {f : FormStore} {n : Nat} {fd : FieldDef} (hf : findField f n = some fd)
    (hk : fd.shape.kind ≠ .deskSum) : valFind (deskSums d f).vals n = valFind f.vals n :=
  valFind_setSums_of_ne fun g hg => by
    obtain rfl := Option.some.inj (hf.symm.trans hg)
    exact hk

/-- Step 4 of R102 alone: each DESK SUM holds the desk total of its tag (R101, R105). -/
theorem showsDesk_deskSums {d : DeskExchange} {f : FormStore} {fd : FieldDef} {x : Value}
    (hf : findField f fd.number = some fd) (hk : fd.shape.kind = .deskSum)
    (hx : instValue (deskSums d f) (.field fd.number) = some x) : showsDesk d fd.tag fd.shape x := by
  have hval : valFind (deskSums d f).vals fd.number = _ := valFind_setSums_of_kind hf hk
  simp only [instValue, hval, Option.map_map, Option.map_eq_some_iff] at hx
  obtain ⟨w, -, rfl⟩ := hx
  exact ⟨_, deskTotal_deskTotalIs d fd.tag, shareValue_showsShare ..⟩

theorem deskSumsFollow_recomputeDesk (s : State) : DeskSumsFollow s (recomputeDesk s) := by
  by_cases h : s.form.state = .active
  · rw [recomputeDesk_of_active h]
    exact {
      form := by simp [deskSums, setSums]
      port := (deskChange_tp_eq ..).trans (by simp)
      change := by simpa [deskChangeRight] using deskChange_iff s (requestAll _ { s with form := deskSums s.desk s.form })
      kept := fun n fd hf hk => by simp [instValue, valFind_deskSums_of_ne hf hk]
      flags := fun n w w' hw hw' => by
        have hflag := flag_valFind_setSums .deskSum (fun fd => shareValue fd.shape (deskTotal s.desk fd.tag)) s.form n
        have hw'' : valFind (deskSums s.desk s.form).vals n = some w' := by simpa using hw'
        simpa [hw, show valFind (setSums .deskSum _ s.form).vals n = some w' from hw''] using hflag
      sums := fun _ fd x hf hk hx => by simpa using showsDesk_deskSums hf hk (by simpa using hx)
      inactive := fun hn => absurd h hn
      items := fun fd hm hk hne => by
        rw [deskChange_comp]
        refine mem_requestAll (List.mem_map_of_mem (mem_changedFields.2 ⟨fd, hm, by simpa using hk, ?_, rfl⟩))
        simpa using hne.symm }
  · rw [recomputeDesk_of_inactive h]
    exact {
      form := rfl
      port := rfl
      change := by simp [deskChangeRight]
      kept := fun _ _ _ _ => rfl
      flags := fun n w w' hw hw' => by rw [Option.some.inj (hw.symm.trans hw')]
      sums := fun hactive => absurd hactive h
      inactive := fun _ => rfl
      items := fun _ _ _ hne => absurd rfl hne }

/-- The desk sums speak of the form, the port, the active tags and the contribution table; requests may be added. -/
theorem DeskSumsFollow.congr (h : DeskSumsFollow s u) (hform : t.form = s.form) (htp : t.tp = s.tp)
    (hform' : v.form = u.form) (htp' : v.tp = u.tp) (hactive : v.desk.active = u.desk.active)
    (htable : v.desk.table = u.desk.table) (hitems : u.comp.items ⊆ v.comp.items) : DeskSumsFollow t v where
  form := by rw [hform, hform']; exact h.form
  port := by rw [htp, htp']; exact h.port
  change := by rw [deskChangeRight, hform, hform', htp, htp']; exact h.change
  kept := by rw [hform, hform']; exact h.kept
  flags := by rw [hform, hform']; exact h.flags
  sums := by
    have hsums := h.sums
    simp only [showsDesk, deskTotalIs] at hsums ⊢
    rwa [hform, hform', hactive, htable]
  inactive := by rw [hform, hform']; exact h.inactive
  items := by
    rw [hform, hform']
    exact fun fd hm hk hne => hitems (h.items fd hm hk hne)

theorem retable_desk_table (g : List (Nat × Entry) → List (Nat × Entry)) (s : State) :
    (retable g s).desk.table = g s.desk.table := by
  simp [retable]

theorem retable_desk (g : List (Nat × Entry) → List (Nat × Entry)) (s : State) :
    (retable g s).desk = { s.desk with table := g s.desk.table } := by
  simp [retable]

/-- The desk sums follow a change of the contribution table (R105). -/
theorem deskSumsFollow_retable (g : List (Nat × Entry) → List (Nat × Entry)) (s : State) : DeskSumsFollow s (retable g s) :=
  (deskSumsFollow_recomputeDesk { s with desk := { s.desk with table := g s.desk.table } }).congr rfl rfl rfl rfl rfl rfl
    (List.Subset.refl _)

end DeskSums

/-! ## The contribution table, entry by entry (R161 to R163) -/

section Table

theorem assocGet_del {α : Type} {m : List (Nat × α)} (h : assocWf m = true) (k j : Nat) :
    assocGet (assocDel m k) j = if j = k then none else assocGet m j := by
  by_cases hj : j = k
  · subst hj
    exact (assocGet_del_same h j).trans (if_pos rfl).symm
  · exact (assocGet_del_ne m hj).trans (if_neg hj).symm

variable {m : List (Nat × Entry)} {src : Nat}

theorem assocGet_dropSource (h : assocWf m = true) (k : Nat) :
    assocGet (dropSource src m) k = if keySource k = src then none else assocGet m k := by
  rw [dropSource, assocGet_filter h]
  by_cases hk : keySource k = src
  · cases assocGet m k <;> simp [hk]
  · cases assocGet m k <;> simp [hk]

theorem entryKey_eq_iff {tag tag' src src' : Nat} (h : src < 32) (h' : src' < 32) :
    entryKey tag src = entryKey tag' src' ↔ tag = tag' ∧ src = src' := by
  unfold entryKey
  omega

end Table

end Sys2Proof.Machine

/-! ## GREET, TALLY and RETRACT as they are applied (R160 to R163) -/
namespace Sys2Proof.Machine

section Contributions

variable {f : Frame} {s : State} {g : List (Nat × Entry) → List (Nat × Entry)}

/-- The frame in the holding place is applied: `g` changes the contribution table, and the desk sums follow (R105). -/
structure TableApplied (g : List (Nat × Entry) → List (Nat × Entry)) (s u : State) : Prop where
  sums : DeskSumsFollow s u
  handoff : u.line.handoff = none := by simp [clearHandoff, greetEffect, unpause]
  table : u.desk.table = g s.desk.table := by simp [retable_desk_table, clearHandoff, greetEffect, unpause]
  active : u.desk.active = s.desk.active := by simp [clearHandoff, greetEffect, unpause]
  messages : u.desk.messages = s.desk.messages := by simp [clearHandoff, greetEffect, unpause]
  inbound : u.desk.inbound = s.desk.inbound := by simp [clearHandoff, greetEffect, unpause]
  cur : u.cur = s.cur := by simp [clearHandoff, greetEffect, unpause]
  key : u.key = s.key := by simp [clearHandoff, greetEffect, unpause]
  send : u.send = s.send := by simp [clearHandoff, greetEffect, unpause]

theorem tableApplied_retable (g : List (Nat × Entry) → List (Nat × Entry)) (s : State) :
    TableApplied g s (retable g (clearHandoff s)) where
  sums := (deskSumsFollow_retable g (clearHandoff s)).congr rfl rfl rfl rfl rfl rfl (List.Subset.refl _)

theorem tableApplied_greet (f : Frame) (s : State) :
    TableApplied (dropSource (sourceOf f)) s (greetEffect f (clearHandoff s)) where
  sums := (deskSumsFollow_retable ..).congr (by simp [clearHandoff, unpause]) (by simp [clearHandoff, unpause]) rfl rfl rfl
    rfl (List.Subset.refl _)

/-- A GREET lets its source out of the paused set (R163, R176). -/
theorem greetEffect_paused (f : Frame) (s : State) :
    (greetEffect f s).desk.paused = assocDel s.desk.paused (sourceOf f) := by
  simp [greetEffect, unpause]

/-- A GREET announces every active tag again (R163). -/
theorem greetEffect_tallies (f : Frame) (s : State) (n : Nat) :
    assocGet (greetEffect f s).desk.tallies n =
      if n ∈ s.desk.active.map (·.1) then some .tally else assocGet s.desk.tallies n := by
  rw [greetEffect, retable_desk_tallies, assocGet_placeAll_tallies]
  rfl

theorem tallyEffect_some {tag : Nat} {sh : Share} (h : tallyOf f.payload = some (tag, sh)) (s : State) :
    tallyEffect f s = retable (fun m => assocPut m (entryKey tag (sourceOf f)) { share := sh, age := 0 }) s := by
  simp [tallyEffect, h]

theorem tallyEffect_none (h : tallyOf f.payload = none) (s : State) : tallyEffect f s = setLength s := by
  simp [tallyEffect, h]

theorem retractEffect_tag {tag : Byte} (h : f.payload = [tag]) (hone : 1 ≤ tag.toNat) (height : tag.toNat ≤ 8) (s : State) :
    retractEffect f s = retable (fun m => assocDel m (entryKey tag.toNat (sourceOf f))) s := by
  simp [retractEffect, h, show ¬8 < tag.toNat by omega, show tag.toNat ≠ 0 by omega]

theorem retractEffect_zero (h : f.payload = [0]) (s : State) : retractEffect f s = retable (dropSource (sourceOf f)) s := by
  simp [retractEffect, h]

theorem retractEffect_above {tag : Byte} (h : f.payload = [tag]) (height : 8 < tag.toNat) (s : State) :
    retractEffect f s = setLength s := by
  simp [retractEffect, h, height]

end Contributions

end Sys2Proof.Machine

namespace Sys2Proof.Proofs

open Machine

/-- Settles O45: each frame is one change of the contribution table, read entry by entry; the desk sums follow it. -/
theorem contributionFramesChangeTable : Obligations.ContributionFramesChangeTable := by
  intro f s hp hf hm hsrc src after
  have hsrc32 : sourceOf f < 32 := lt_trans hsrc (by decide)
  have happly {k : FrameKind} {effect : Frame → State → State} (hk : f.kind = k) :
      applyFrame k effect s = .next (settle (effect f (clearHandoff s))) := applyFrame_ready hf hk hp
  have hafter {u : State} {g : List (Nat × Entry) → List (Nat × Entry)} {entry : Nat → Option Entry → Option Entry}
      (hu : TableApplied g s u)
      (hsame : ∀ t, assocGet (g s.desk.table) (32 * t + src) = entry t (assocGet s.desk.table (32 * t + src)))
      (hother : ∀ t n, n < 32 → n ≠ src → assocGet (g s.desk.table) (32 * t + n) = assocGet s.desk.table (32 * t + n)) :
      after (.next (settle u)) entry :=
    ⟨u, rfl, hu.handoff, by rwa [hu.table], by rwa [hu.table], hu.sums.sums, hu.sums.items, hu.sums.form, hu.sums.kept,
      hu.sums.port, hu.sums.change, hu.active, hu.messages, hu.inbound, hu.cur, hu.key, hu.send⟩
  have hdrop {u : State} (hu : TableApplied (dropSource src) s u) : after (.next (settle u)) (fun _ _ => none) := by
    refine hafter (entry := fun _ _ => none) hu (fun t => ?_) (fun t n hn hne => ?_) <;> rw [assocGet_dropSource hm.table]
    · exact if_pos (keySource_entryKey hsrc32)
    · exact if_neg fun h => hne ((keySource_entryKey hn).symm.trans h)
  refine ⟨fun hk => ⟨?_, ?_⟩, fun hk tag sh htally => ?_, fun hk htally => ?_, fun hk tag htag hone height => ?_,
    fun hk hzero => ?_, fun hk tag htag height => ?_⟩
  · rw [show exec .greet s = _ from happly hk]
    exact hdrop (tableApplied_greet f s)
  · intro t ht
    rw [show exec .greet s = _ from happly hk] at ht
    cases ht
    rw [settle_desk, greetEffect_paused]
    exact ⟨assocGet_del_same hm.paused src, greetEffect_tallies f (clearHandoff s)⟩
  · rw [show exec .tally s = _ from happly hk, tallyEffect_some htally]
    refine hafter (tableApplied_retable _ s) (fun t => ?_) (fun t n hn hne => ?_) <;> rw [assocGet_put]
    · exact if_congr ((entryKey_eq_iff hsrc32 hsrc32).trans (and_iff_left rfl)) rfl rfl
    · exact if_neg fun h => hne ((entryKey_eq_iff hn hsrc32).1 h).2
  · rw [show exec .tally s = _ from happly hk, tallyEffect_none htally]
    rfl
  · rw [show exec .retract s = _ from happly hk, retractEffect_tag htag hone height]
    refine hafter (tableApplied_retable _ s) (fun t => ?_) (fun t n hn hne => ?_) <;> rw [assocGet_del hm.table]
    · exact if_congr ((entryKey_eq_iff hsrc32 hsrc32).trans (and_iff_left rfl)) rfl rfl
    · exact if_neg fun h => hne ((entryKey_eq_iff hn hsrc32).1 h).2
  · rw [show exec .retract s = _ from happly hk, retractEffect_zero hzero]
    exact hdrop (tableApplied_retable _ s)
  · rw [show exec .retract s = _ from happly hk, retractEffect_above htag height]
    rfl

end Sys2Proof.Proofs

/-! ## The banner, the inbound queue and its flow hold (R173 to R177) -/
namespace Sys2Proof.Machine

section Delivery

variable {s : State} {m : InMsg}

theorem bannerOf_eq (t : Text) : bannerOf t = if t = [] then none else some { text := t, age := 0 } := by
  cases t <;> rfl

theorem mem_setBanner_status (t : Text) (s : State) : Item.status ∈ (setBanner t s).comp.items := mem_requestIn _ _

theorem setBanner_eq (t : Text) (s : State) : setBanner t s =
    { s with comp := (setBanner t s).comp
             desk := { s.desk with banner := if t = [] then none else some { text := t, age := 0 } } } := by
  rw [← bannerOf_eq]
  rfl

theorem unmark_eq (p : Place) (l : DeskLineUnit) : unmark p l = { l with taken := (unmark p l).taken } := by
  unfold unmark
  split <;> rfl

theorem inboundFill_storeInbound (m : InMsg) (s : State) :
    inboundFill (storeInbound m s).desk = inboundFill s.desk + (2 + m.text.length) := by
  simp [inboundFill, storeInbound, recordSize]

/-- A record that does not fit is lost (R173). -/
theorem deliver_lost (h : 512 < inboundFill s.desk + (2 + m.text.length)) :
    deliver m s = { s with desk := { s.desk with inboundLost := true } } :=
  if_neg (Nat.not_le.2 h)

theorem deliver_stored (h : inboundFill s.desk + (2 + m.text.length) ≤ 512) :
    deliver m s = holdAfterStore (storeInbound m s) := if_pos h

/-- Below 384 bytes, or with a PAUSE sent already, a stored record asks for nothing (R175). -/
theorem deliver_quiet (hfit : inboundFill s.desk + (2 + m.text.length) ≤ 512)
    (h : inboundFill s.desk + (2 + m.text.length) < 384 ∨ s.desk.pauseSent = true) :
    deliver m s = storeInbound m s := by
  refine (deliver_stored hfit).trans (if_neg ?_)
  rintro ⟨hfill, hsent⟩
  rw [inboundFill_storeInbound] at hfill
  rcases h with hbelow | hpaused
  · exact absurd hbelow (Nat.not_lt.2 hfill)
  · exact nomatch hsent.symm.trans hpaused

/-- From 384 bytes on a stored record places a PAUSE (R175). -/
theorem deliver_pause (hfit : inboundFill s.desk + (2 + m.text.length) ≤ 512)
    (hfill : 384 ≤ inboundFill s.desk + (2 + m.text.length)) (hsent : s.desk.pauseSent = false) :
    deliver m s = placeFlow .pause { storeInbound m s with desk := { (storeInbound m s).desk with pauseSent := true } } := by
  refine (deliver_stored hfit).trans (if_pos ⟨?_, hsent⟩)
  rw [inboundFill_storeInbound]
  exact hfill

end Delivery

end Sys2Proof.Machine

namespace Sys2Proof.Proofs

open Machine

/-- Settles O46: one rule for each effect, on the state whose holding place has been emptied. -/
theorem messageFramesAreDelivered : Obligations.MessageFramesAreDelivered := by
  intro f s hp hf hm src l
  have happly {k : FrameKind} {effect : Frame → State → State} (hk : f.kind = k) :
      applyFrame k effect s = .next (settle (effect f (clearHandoff s))) := applyFrame_ready hf hk hp
  refine ⟨fun hk => ?_, fun hk hlost => ?_, fun hk hfit hquiet => ?_, fun hk hfit hfill hsent => ?_, fun hk => ?_,
    fun hk => ?_⟩
  · refine ⟨_, happly hk, mem_setBanner_status .., ?_⟩
    have hbanner := setBanner_eq (f.payload.map plainChar) (clearHandoff s)
    simp only [List.map_eq_nil_iff] at hbanner
    exact hbanner
  · rw [show exec .pass s = _ from happly hk, passEffect, deliver_lost hlost]
    rfl
  · rw [show exec .pass s = _ from happly hk, passEffect, deliver_quiet hfit hquiet]
    rfl
  · refine ⟨_, happly hk, ?_⟩
    rw [passEffect, deliver_pause (s := clearHandoff s) (m := ⟨f.source, f.payload⟩) hfit hfill hsent]
    exact ⟨unmark_eq .., rfl⟩
  · exact ⟨_, happly hk, rfl, fun n => assocGet_put s.desk.paused src n 2⟩
  · exact ⟨_, happly hk, rfl, assocGet_del hm.paused src⟩

end Sys2Proof.Proofs

/-! ## PASS SEND, BANNER SEND and PASS READ (R170, R174, R175) -/
namespace Sys2Proof.Machine

section MessageOrders

variable {s : State} {dest : Byte} {format : Format} {lo hi : Nat} {data : List Byte} {t : Text}

/-! ### The tests of the data, in order -/

theorem decodeMessage_outside (hd : decodeData format data = some t) (h : t.length < lo ∨ hi < t.length) :
    decodeMessage format lo hi data s = .error .badArgument := by
  simp [decodeMessage, hd, h]

theorem decodeMessage_full (hd : decodeData format data = some t) (hlo : lo ≤ t.length) (hhi : t.length ≤ hi)
    (hfull : 6 ≤ s.desk.messages.length) : decodeMessage format lo hi data s = .error .full := by
  simp [decodeMessage, hd, Nat.not_lt.2 hlo, Nat.not_lt.2 hhi, messageQueueSize, hfull]

theorem decodeMessage_ok (hd : decodeData format data = some t) (hlo : lo ≤ t.length) (hhi : t.length ≤ hi)
    (hroom : s.desk.messages.length < 6) : decodeMessage format lo hi data s = .ok t := by
  simp [decodeMessage, hd, Nat.not_lt.2 hlo, Nat.not_lt.2 hhi, messageQueueSize, Nat.not_le.2 hroom]

/-! ### The tests of each order before those -/

theorem passSendBody_listenOnly (h : s.line.listenOnly = true) (format : Option Format) :
    passSendBody dest format data s = .error .refusedState := if_pos h

theorem passSendBody_station (h : s.line.listenOnly = false) (hdest : 30 ≤ dest.toNat) (format : Option Format) :
    passSendBody dest format data s = .error .badArgument := by
  simp [passSendBody, h, firstListenOnly, hdest]

theorem passSendBody_error {o : OrderOutcome} (h : s.line.listenOnly = false) (hdest : dest.toNat < 30)
    (hd : decodeMessage format 1 64 data s = .error o) : passSendBody dest (some format) data s = .error o := by
  simp [passSendBody, h, firstListenOnly, hdest, maxPassText, hd]

theorem passSendBody_ok (h : s.line.listenOnly = false) (hdest : dest.toNat < 30)
    (hd : decodeMessage format 1 64 data s = .ok t) :
    passSendBody dest (some format) data s = .ok (queueMessage (.pass dest t) s) := by
  simp [passSendBody, h, firstListenOnly, hdest, maxPassText, hd]

theorem bannerSendBody_listenOnly (h : s.line.listenOnly = true) (format : Option Format) :
    bannerSendBody format data s = .error .refusedState := if_pos h

theorem bannerSendBody_ok (h : s.line.listenOnly = false) (hd : decodeMessage format 0 40 data s = .ok t) :
    bannerSendBody (some format) data s = .ok (setBanner t (queueMessage (.banner t) s)) := by
  simp [bannerSendBody, h, maxBannerText, hd]

/-! ### PASS READ -/

variable {m : InMsg} {ms : List InMsg}

theorem removeInbound_nil (h : s.desk.inbound = []) : removeInbound s = s := by
  simp [removeInbound, h]

theorem removeInbound_desk_inbound (h : s.desk.inbound = m :: ms) : (removeInbound s).desk.inbound = ms := by
  simp [removeInbound, h]

theorem removeInbound_cons (h : s.desk.inbound = m :: ms) :
    removeInbound s = holdAfterRemove { s with desk := { s.desk with inbound := ms } } := by
  simp [removeInbound, h]

/-- At 128 bytes or less, where a PAUSE stands, a RESUME is placed (R175). -/
theorem holdAfterRemove_desk (s : State) :
    (holdAfterRemove s).desk = if inboundFill s.desk ≤ 128 ∧ s.desk.pauseSent = true
      then { s.desk with pauseSent := false, flow := some .resume } else s.desk := by
  unfold holdAfterRemove
  split
  · next h => exact (if_pos h).symm
  · next h => exact (if_neg h).symm

theorem removeInbound_desk (h : s.desk.inbound = m :: ms) :
    (removeInbound s).desk = if (ms.map (fun x => 2 + x.text.length)).sum ≤ 128 ∧ s.desk.pauseSent = true
      then { s.desk with inbound := ms, pauseSent := false, flow := some .resume }
      else { s.desk with inbound := ms } := by
  rw [removeInbound_cons h, holdAfterRemove_desk]
  rfl

end MessageOrders

end Sys2Proof.Machine

namespace Sys2Proof.Proofs

open Machine

/-- Settles O47: the plain data of a message is its text, each test has its rule, and a removal is one case on the fill. -/
theorem messageOrdersQueueAndTake : Obligations.MessageOrdersQueueAndTake := by
  intro dest data n s hp z
  have hpass : 1 + (2 + data.length) = 3 + data.length := by omega
  have hbanner : 1 + (1 + data.length) = 2 + data.length := by omega
  have hplain : decodeData .plain data = some (data.map plainChar) := rfl
  refine ⟨fun h => ⟨?_, ?_⟩, fun h hdest => ?_, fun h hdest hout => ?_, fun h hdest hlo hhi hfull => ?_,
    fun h hdest hlo hhi hroom => ?_, fun h hhi hroom => ?_, fun hnil => ?_, fun m ms hcons => ?_⟩
  · exact order_refused hpass hp (passSendBody_listenOnly (s := inFrame _ s) h _)
  · exact order_refused hbanner hp (bannerSendBody_listenOnly (s := inFrame _ s) h _)
  · exact order_refused hpass hp (passSendBody_station (s := inFrame _ s) h hdest _)
  · refine order_refused hpass hp (passSendBody_error h hdest (decodeMessage_outside hplain ?_))
    rw [List.length_map]
    rcases hout with rfl | hlong
    · exact .inl Nat.one_pos
    · exact .inr hlong
  · exact order_refused hpass hp
      (passSendBody_error h hdest (decodeMessage_full hplain (by simpa using hlo) (by simpa using hhi) hfull))
  · exact order_taken hpass hp
      (passSendBody_ok h hdest (decodeMessage_ok hplain (by simpa using hlo) (by simpa using hhi) hroom))
  · refine ⟨_, order_taken hbanner hp
      (bannerSendBody_ok h (decodeMessage_ok hplain (Nat.zero_le _) (by simpa using hhi) hroom)),
      mem_setBanner_status .., ?_⟩
    have hset := setBanner_eq (data.map plainChar) (queueMessage (.banner (data.map plainChar)) (inFrame (2 + data.length) s))
    simp only [List.map_eq_nil_iff] at hset
    exact congrArg (record .done) hset
  · refine runRead_ok (reply := fun t => .ok (passReply t)) hp rfl ?_
    rw [removeInbound_nil (s := endStream (closeFrame _ s)) hnil, passReply, hnil]
    rfl
  · refine ⟨_, runRead_ok (reply := fun t => .ok (passReply t)) hp rfl rfl, removeInbound_desk_inbound hcons, ?_,
      removeInbound_form _, removeInbound_cur _, removeInbound_key _, removeInbound_send _, ?_⟩
    · rw [passReply, hcons, record, removeInbound_tp]
      rfl
    · have hdesk := removeInbound_desk (s := endStream (closeFrame (zeros (1 + 0) ++ replyBytes n (passReply s)) s)) hcons
      split
      · next h => exact hdesk.trans (if_pos h)
      · next h => exact hdesk.trans (if_neg h)

end Sys2Proof.Proofs

/-! ## The desk tick, part by part (R165, R168, R175 to R177) -/
namespace Sys2Proof.Machine

section Tick

variable {s : State}

/-! ### The keyed lists -/

theorem assocGet_ageTable {m : List (Nat × Entry)} (h : assocWf m = true) (k : Nat) :
    assocGet (ageTable m) k =
      (assocGet m k).bind (fun e => if e.age + 1 < 30 then some { e with age := e.age + 1 } else none) := by
  have hmap := assocGet_map m (fun e : Entry => { e with age := e.age + 1 }) k
  rw [ageTable, assocGet_filter (assocWf_map h _), hmap]
  cases assocGet m k with
  | none => rfl
  | some e => exact if_congr decide_eq_true_iff rfl rfl

theorem assocGet_tickHolds {m : List (Nat × Nat)} (h : assocWf m = true) (k : Nat) :
    assocGet (tickHolds m) k = (assocGet m k).bind (fun n => if 1 < n then some (n - 1) else none) := by
  rw [tickHolds, assocGet_filter (assocWf_map h _), assocGet_map m (fun n => n - 1)]
  cases assocGet m k <;> simp

/-! ### The refresh -/

theorem refreshAll_eq (s : State) : refreshAll s =
    { s with line := { s.line with taken := (refreshAll s).line.taken }
             desk := { s.desk with refresh := 0, tallies := (refreshAll s).desk.tallies } } := by
  simpa [refreshAll] using (placeAll_frame .tally (activeTags s.desk) { s with desk := { s.desk with refresh := 0 } }).eq

theorem refreshAll_tallies (s : State) (n : Nat) :
    assocGet (refreshAll s).desk.tallies n =
      if n ∈ s.desk.active.map (·.1) then some .tally else assocGet s.desk.tallies n :=
  assocGet_placeAll_tallies .tally (activeTags s.desk) _ n

theorem refreshAll_refresh (s : State) : (refreshAll s).desk.refresh = 0 := by simp [refreshAll]

theorem refreshAll_line (s : State) : (refreshAll s).line = { s.line with taken := (refreshAll s).line.taken } :=
  (placeAll_frame ..).line_eq

theorem tickRefresh_refresh (s : State) :
    (tickRefresh s).desk.refresh = if s.desk.refresh + 1 < 8 then s.desk.refresh + 1 else 0 := by
  unfold tickRefresh
  split
  · next h => exact (if_pos h).symm
  · next h => exact (refreshAll_refresh s).trans (if_neg h).symm

theorem tickRefresh_tallies (s : State) (n : Nat) :
    assocGet (tickRefresh s).desk.tallies n =
      if 8 ≤ s.desk.refresh + 1 ∧ n ∈ s.desk.active.map (·.1) then some .tally else assocGet s.desk.tallies n := by
  unfold tickRefresh
  split
  · next h => exact (if_neg fun hc => absurd hc.1 (Nat.not_le.2 h)).symm
  · next h => exact (refreshAll_tallies s n).trans (if_congr (and_iff_right (Nat.not_lt.1 h)).symm rfl rfl)

theorem tickRefresh_line (s : State) : (tickRefresh s).line = { s.line with taken := (tickRefresh s).line.taken } := by
  unfold tickRefresh
  split
  · rfl
  · exact refreshAll_line s

/-! ### The pause and the banner -/

theorem tickPause_flow (s : State) :
    (tickPause s).desk.flow = if s.desk.pauseSent then some .pause else s.desk.flow := by
  unfold tickPause
  split <;> rfl

theorem tickPause_line (s : State) : (tickPause s).line = { s.line with taken := (tickPause s).line.taken } := by
  unfold tickPause
  split
  · exact unmark_eq ..
  · rfl

theorem mem_dropBanner_status (s : State) : Item.status ∈ (dropBanner s).comp.items := mem_requestIn _ _

theorem subset_tickBanner_items (s : State) : s.comp.items ⊆ (tickBanner s).comp.items := by
  unfold tickBanner
  split
  · exact List.Subset.refl _
  · split
    · exact List.Subset.refl _
    · exact (CompStep.request s.comp .status).keeps

theorem tickBanner_banner (s : State) : (tickBanner s).desk.banner =
    s.desk.banner.bind (fun b => if b.age + 1 < 60 then some { b with age := b.age + 1 } else none) := by
  unfold tickBanner
  split
  · next h => rw [h]; rfl
  · next b h =>
    rw [h]
    split
    · next hage => exact (if_pos hage).symm
    · next hage => exact (if_neg hage).symm

/-! ### The whole tick -/

theorem tick_table (s : State) : (tick s).desk.table = ageTable s.desk.table := by simp [tick, retable_desk_table]

theorem tick_refresh (s : State) :
    (tick s).desk.refresh = if s.desk.refresh + 1 < 8 then s.desk.refresh + 1 else 0 := by
  simp [tick, tickRefresh_refresh]

theorem tick_tallies (s : State) (n : Nat) :
    assocGet (tick s).desk.tallies n =
      if 8 ≤ s.desk.refresh + 1 ∧ n ∈ s.desk.active.map (·.1) then some .tally else assocGet s.desk.tallies n := by
  have htallies := tickRefresh_tallies (retable ageTable s) n
  rw [retable_desk_refresh, retable_desk_active, retable_desk_tallies] at htallies
  simpa [tick] using htallies

theorem tick_flow (s : State) : (tick s).desk.flow = if s.desk.pauseSent then some .pause else s.desk.flow := by
  simp [tick, tickPause_flow]

theorem tick_paused (s : State) : (tick s).desk.paused = tickHolds s.desk.paused := by simp [tick]

theorem tick_banner (s : State) : (tick s).desk.banner =
    s.desk.banner.bind (fun b => if b.age + 1 < 60 then some { b with age := b.age + 1 } else none) := by
  simp [tick, tickBanner_banner]

theorem tick_line (s : State) : (tick s).line = { s.line with taken := (tick s).line.taken } := by
  have hrefresh := tickRefresh_line (retable ageTable s)
  have hpause := tickPause_line (tickRefresh (retable ageTable s))
  rw [hrefresh, retable_line] at hpause
  simpa [tick] using hpause

/-- What a tick does after the table has aged may request STATUS and moves no desk sum. -/
theorem deskSumsFollow_tick (s : State) : DeskSumsFollow s (tick s) :=
  (deskSumsFollow_retable ageTable s).congr rfl rfl (by simp [tick]) (by simp [tick]) (by simp [tick]) (by simp [tick])
    (List.Subset.trans (by simp) (subset_tickBanner_items _))

end Tick

end Sys2Proof.Machine

/-! ## The rows of one limit (notes/assumptions/24.md) -/
namespace Sys2Proof.Machine

section Limits

variable {s : State}

theorem execContributionAgeOut_of_last {tag src : Nat} {e : Entry} (hp : s.tp.phase = .ready) (hone : 1 ≤ tag)
    (height : tag ≤ 8) (hsrc : src < 30) (he : assocGet s.desk.table (32 * tag + src) = some e) (hage : e.age = 29) :
    execContributionAgeOut tag src s = .next (settle (retable (fun m => assocDel m (32 * tag + src)) s)) := by
  have hends : agesOut s.desk tag src = true := by
    simp [agesOut, show assocGet s.desk.table (entryKey tag src) = some e from he, oneTo, firstListenOnly, entryLife, hone,
      height, hsrc, hage]
  exact if_pos ⟨hp, hends⟩

theorem execRefresh_of_last (hp : s.tp.phase = .ready) (h : s.desk.refresh = 7) :
    execRefresh s = .next (settle (refreshAll s)) :=
  if_pos ⟨hp, by rw [h]; decide⟩

theorem execHoldTimerExpiry_of_last {k : Nat} (hp : s.tp.phase = .ready) (h : assocGet s.desk.paused k = some 1) :
    execHoldTimerExpiry k s = .next (settle (unpause k s)) :=
  if_pos ⟨hp, by simp [holdEnds, h]⟩

theorem execBannerExpiry_of_last {b : Banner} (hp : s.tp.phase = .ready) (h : s.desk.banner = some b) (hage : b.age = 59) :
    execBannerExpiry s = .next (settle (dropBanner s)) :=
  if_pos ⟨hp, by simp [bannerEnds, h, hage, bannerLife]⟩

end Limits

end Sys2Proof.Machine

namespace Sys2Proof.Proofs

open Machine

/-- Settles O49: the tick is read part by part, and the row of one limit is that part alone. -/
theorem deskTickAgesAndRefreshes : Obligations.DeskTickAgesAndRefreshes := by
  intro s hp hm
  refine ⟨⟨tick s, if_pos hp, fun k => ?_, tick_refresh s, tick_tallies s, tick_flow s, fun k => ?_, tick_banner s,
    tick_desk_greet s, tick_desk_messages s, tick_desk_inbound s, tick_desk_active s, tick_cur s, tick_key s, tick_send s,
    deskSumsFollow_tick s, tick_line s⟩, fun tag src e hone height hsrc he hage => ?_, fun h => ?_, fun k h => ?_,
    fun b hb hage => ?_⟩
  · rw [tick_table, assocGet_ageTable hm.table]
  · rw [tick_paused, assocGet_tickHolds hm.paused]
  · refine ⟨_, execContributionAgeOut_of_last hp hone height hsrc he hage, fun k => ?_, ?_, retable_cur .., retable_key ..,
      retable_send .., retable_line .., deskSumsFollow_retable ..⟩
    · rw [retable_desk_table, assocGet_del hm.table]
    · rw [retable_desk]
  · exact ⟨_, execRefresh_of_last hp h, refreshAll_refresh s, refreshAll_eq s, refreshAll_tallies s⟩
  · exact ⟨_, execHoldTimerExpiry_of_last hp h, rfl, assocGet_del hm.paused k⟩
  · exact ⟨_, execBannerExpiry_of_last hp hb hage, rfl, mem_dropBanner_status s⟩

end Sys2Proof.Proofs

/-! ## The frame that each of these orders runs

Their rules have no name of their own in the model. -/
namespace Sys2Proof.Machine

section OrderRules

variable (s : State) (n : Nat)

theorem exec_causeEnable (set : Byte) : exec (.causeEnable set n) s =
    runOrder (1 + n) (fun t => .ok { t with tp := { t.tp with enable := set &&& 0x7F } }) s := rfl

theorem exec_displaySet (opts : Byte) : exec (.displaySet opts n) s = runOrder (1 + n) (fun t =>
    .ok { t with comp := { t.comp with displayOn := opts.getLsbD 0, cursorBlink := opts.getLsbD 1 } }) s := rfl

theorem exec_key (codes : List Byte) :
    exec (.key codes) s = runOrder codes.length (fun t => .ok (offerKeys codes t)) s := rfl

theorem exec_fieldRead (f : Byte) :
    exec (.fieldRead f n) s = runRead 1 n (fun t => instReply t (.field f.toNat)) id s := rfl

theorem exec_cellRead (l c : Byte) :
    exec (.cellRead l c n) s = runRead 2 n (fun t => instReply t (.cell l.toNat c.toNat)) id s := rfl

theorem exec_cursorRead : exec (.cursorRead n) s = runRead 0 n (fun t => .ok (cursorReply t)) id s := rfl

theorem exec_blockRead_run : exec (.blockRead n) s = runRead 0 n blockReply (advanceRead n) s := rfl

theorem exec_passRead : exec (.passRead n) s = runRead 0 n (fun t => .ok (passReply t)) removeInbound s := rfl

end OrderRules

end Sys2Proof.Machine

/-! ## Causes and the control orders (R120, R155, R186 to R188) -/
namespace Sys2Proof.Machine

section Causes

variable {s : State}

/-- ATTN is low exactly while an enabled cause is pending (R188). -/
theorem attn_eq_false_iff (s : State) :
    attn s = false ↔ ∃ j, 1 ≤ j ∧ j ≤ 7 ∧ causePending s j = true ∧ causeEnabled s j = true := by
  have hmem : ∀ j, j ∈ causeNumbers ↔ 1 ≤ j ∧ j ≤ 7 := fun j =>
    (List.mem_range'_1 (s := 1) (n := 7)).trans (and_congr_right fun _ => Nat.lt_succ_iff)
  simp [attn, hmem, and_assoc]

/-- The reply of CAUSE READ: 0 with no enabled cause pending, else the first in the order of priority (R187). -/
theorem causeReply_cases (s : State) :
    (causeReply s = 0 ∧ ∀ j, 1 ≤ j → j ≤ 7 → ¬(causePending s j = true ∧ causeEnabled s j = true)) ∨
    (1 ≤ causeReply s ∧ causeReply s ≤ 7 ∧ (causePending s (causeReply s) = true ∧ causeEnabled s (causeReply s) = true) ∧
      ∀ j, 1 ≤ j → j < causeReply s → ¬(causePending s j = true ∧ causeEnabled s j = true)) := by
  have hrange : causeNumbers = List.range' 1 7 := rfl
  rw [causeReply, hrange]
  cases h : (List.range' 1 7).find? (fun k => causePending s k && causeEnabled s k) with
  | none =>
    refine .inl ⟨rfl, fun j hlo hhi => ?_⟩
    simpa using List.find?_eq_none.1 h j (List.mem_range'_1.2 ⟨hlo, by omega⟩)
  | some k =>
    obtain ⟨hk, hmem, hbefore⟩ := List.find?_range'_eq_some.1 h
    rw [List.mem_range'_1] at hmem
    rw [Option.getD_some]
    exact .inr ⟨hmem.1, by omega, by simpa using hk, fun j hlo hlt => by simpa [or_iff_not_imp_left] using hbefore j hlo hlt⟩

/-- What is left of the edge causes when the cause `k` is cleared: a level cause clears none (R187). -/
theorem clearEdge_eq (k : Nat) (e : EdgeCauses) : clearEdge k e =
    { keyError := e.keyError && k != 1, started := e.started && k != 3, deskChange := e.deskChange && k != 6,
      space := e.space && k != 7 } := by
  unfold clearEdge
  split
  case h_5 h1 h3 h6 h7 => simp [bne_iff_ne.2 h1, bne_iff_ne.2 h3, bne_iff_ne.2 h6, bne_iff_ne.2 h7]
  all_goals simp

theorem causeFrame_eq (n : Nat) (s : State) : causeFrame n s = { s with
    tp := { s.tp with
      decoder := .idle, awaitHigh := false, sdo := 0 :: replyBytes n [BitVec.ofNat 8 (causeReply s)]
      edge := if 1 ≤ n then clearEdge (causeReply s) s.tp.edge else s.tp.edge } } := by
  unfold causeFrame
  dsimp only
  split <;> rfl

theorem execCauseRead_ready (hp : s.tp.phase = .ready) (n : Nat) :
    execCauseRead n s = .next (settle (causeFrame n s)) := by
  simp [execCauseRead, hp, ok]

theorem execCauseRead_starting (hp : s.tp.phase = .starting) (n : Nat) :
    execCauseRead n s = .next (closeFrame (zeros (1 + n)) s) :=
  if_pos hp

/-- CAUSE ENABLE takes bits 0 to 6 for causes 1 to 7 (R188, R194). -/
theorem causeEnabled_of_enable_and {t : State} {b : Byte} (h : t.tp.enable = b &&& 0x7F) {k : Nat} (hlo : 1 ≤ k)
    (hhi : k ≤ 7) : causeEnabled t k = b.getLsbD (k - 1) := by
  have hbits : ∀ j < 7, (0x7F : Byte).getLsbD j = true := by decide
  rw [causeEnabled, h, BitVec.getLsbD_and, hbits (k - 1) (by omega), Bool.and_true]

end Causes

section Loopback

variable {s : State} {on : Bool}

/-! ### LOOPBACK SET in READY (R155) -/

theorem loopbackBody_listenOnly (h : s.line.listenOnly = true) : loopbackBody on s = .error .refusedState :=
  if_pos h

theorem loopbackBody_same (h : s.line.listenOnly = false) (ho : on = s.line.loopback) :
    loopbackBody on s = .ok { s with line := { s.line with held := none } } := by
  simp [loopbackBody, h, ho]

theorem loopbackBody_sending (h : s.line.listenOnly = false) (ho : on ≠ s.line.loopback) (ht : s.line.tx = .send) :
    loopbackBody on s = .ok { s with line := { s.line with held := some on } } := by
  simp [loopbackBody, h, ho, ht]

theorem loopbackBody_applied (h : s.line.listenOnly = false) (ho : on ≠ s.line.loopback) (ht : s.line.tx ≠ .send) :
    loopbackBody on s = .ok { s with line := applyLoopback on s.line } := by
  simp [loopbackBody, h, ho, ht]

end Loopback

end Sys2Proof.Machine

namespace Sys2Proof.Proofs

open Machine

/-- Settles O11: the reply is the first enabled pending cause, and the frame clears it where it is an edge cause. -/
theorem causeReadAnswersHighestPriority : Obligations.CauseReadAnswersHighestPriority := by
  intro n s
  refine ⟨attn_eq_false_iff s, fun hp => ?_⟩
  have hedge : (settle (causeFrame n s)).tp.edge =
      if 1 ≤ n then clearEdge (causeReply s) s.tp.edge else s.tp.edge := by rw [settle_tp, causeFrame_eq]
  have hframe : settle (causeFrame n s) = settle { s with
      tp := { s.tp with
        decoder := .idle, awaitHigh := false, edge := (settle (causeFrame n s)).tp.edge
        sdo := 0 :: (BitVec.ofNat 8 (causeReply s) :: List.replicate n 0).take n } } := by
    rw [hedge]
    exact congrArg settle (causeFrame_eq n s)
  have hnone : n = 0 → (settle (causeFrame n s)).tp.edge = s.tp.edge := fun h => hedge.trans (if_neg (by omega))
  have hsome := fun h : 0 < n => hedge.trans ((if_pos h).trans (clearEdge_eq _ _))
  rcases causeReply_cases s with ⟨hreply, hother⟩ | ⟨hlo, hhi, hreply, hbefore⟩
  · refine ⟨causeReply s, _, by omega, execCauseRead_ready hp n, .inl hreply, fun j hj hk => ?_, hframe, hnone, hsome⟩
    exact hother j hj (by omega)
  · refine ⟨causeReply s, _, hhi, execCauseRead_ready hp n, .inr hreply, fun j hj hk => ?_, hframe, hnone, hsome⟩
    exact hbefore j hj (by omega)

/-- Settles O12: each control order by its own rule, `order_taken` or `order_refused` around it. -/
theorem controlCommandsAct : Obligations.ControlCommandsAct := by
  intro b n s z
  have hk : 1 + (1 + n) = 2 + n := by omega
  refine ⟨fun hidle => if_pos hidle, fun halarm => if_pos halarm, fun hp => ?_, fun hp => ?_,
    fun hp hl => ?_, fun hp hl ho => ?_, fun hp hl ho ht => ?_, fun hp hl ho ht => ?_⟩
  · rw [exec_causeEnable]
    exact ⟨_, order_taken hk hp rfl, rfl, fun k hlo hhi => causeEnabled_of_enable_and rfl hlo hhi⟩
  · rw [exec_displaySet]
    exact order_taken (t := { inFrame (2 + n) s with comp := _ }) hk hp rfl
  · exact order_refused hk hp (loopbackBody_listenOnly hl)
  · exact order_taken hk hp (loopbackBody_same hl ho)
  · exact order_taken hk hp (loopbackBody_sending hl ho ht)
  · exact order_taken hk hp (loopbackBody_applied hl ho ht)

end Sys2Proof.Proofs

/-! ## Resets and start-up (10.7)

The three resets and the completion of start-up, each by the state that it leaves. -/
namespace Sys2Proof.Machine

section StartUp

variable {s : State} {stn : Station} {rate : Rate}

/-- An accepted SOFT RESET: the frame has driven its zeros, and the port stands as R192 says, with the clearing begun. -/
theorem execSoftReset_ready (hp : s.tp.phase = .ready) (n : Nat) : execSoftReset s n =
    .next (resetTo s.line.station s.line.rate s.line.listenOnly
      { TpPort.afterReset s.tp.resetnLow s.tp.supplySteady true false with sdo := zeros (1 + n) } s) := by
  simp [execSoftReset, hp, softReset, closeFrame, resetTo, TpPort.afterReset]

theorem execResetnReleased_low (h : s.tp.resetnLow = true) : execResetnReleased stn rate s =
    .next (if s.tp.supplySteady then beginClearing stn rate { s with tp := { s.tp with resetnLow := false } }
      else { s with tp := { s.tp with resetnLow := false } }) :=
  if_pos h

theorem execSupplySteady_starting (hp : s.tp.phase = .starting) (h : s.tp.supplySteady = false) :
    execSupplySteady stn rate s =
      .next (if s.tp.resetnLow then { s with tp := { s.tp with supplySteady := true } }
        else beginClearing stn rate { s with tp := { s.tp with supplySteady := true } }) :=
  if_pos ⟨hp, h⟩

/-- Nothing is asked of the arbiter before the join listen has completed (R158). -/
theorem settle_startUp (s : State) : settle (startUp s) =
    { startUp s with comp := { (startUp s).comp with rendering := !(startUp s).comp.items.isEmpty } } :=
  settle_of_quiet _ (by simp [mayAsk, startUp])

theorem execStartUpComplete_clearing (hp : s.tp.phase = .starting) (hc : s.tp.clearing = true) :
    execStartUpComplete s = .next (settle (startUp s)) :=
  if_pos ⟨hp, hc⟩

end StartUp

end Sys2Proof.Machine

namespace Sys2Proof.Proofs

open Machine

/-- Settles O4: each reset is a `resetTo`, which `blocksReset_resetTo` reads block by block. -/
theorem resetsClearEveryBlock : Obligations.ResetsClearEveryBlock := by
  intro n s
  refine ⟨⟨_, rfl, blocksReset_resetTo .., rfl, rfl, rfl, rfl, rfl⟩,
    ⟨_, rfl, blocksReset_resetTo .., rfl, rfl, rfl, rfl, rfl⟩, fun hp => ?_⟩
  exact ⟨_, execSoftReset_ready hp n, blocksReset_resetTo .., rfl, rfl, rfl, rfl, rfl⟩

/-- Settles O5: the straps are sampled where the clearing begins, and its completion raises STARTED, cause 3. -/
theorem startUpSequence : Obligations.StartUpSequence := by
  intro s stn rate sampled
  refine ⟨fun hlow hsteady => ?_, fun hlow hsteady => ?_, fun hp hsteady hlow => ?_, fun hp hsteady hlow => ?_,
    fun hp hc => ?_⟩
  · refine (execResetnReleased_low hlow).trans ?_
    rw [if_pos hsteady]
    rfl
  · refine (execResetnReleased_low hlow).trans ?_
    rw [hsteady]
    rfl
  · refine (execSupplySteady_starting hp hsteady).trans ?_
    rw [hlow]
    rfl
  · refine (execSupplySteady_starting hp hsteady).trans ?_
    rw [if_pos hlow]
  · refine ⟨_, execStartUpComplete_clearing hp hc, settle_tp _, ?_⟩
    rw [settle_startUp]
    exact ⟨mem_requestIn _ _, rfl, rfl, rfl, rfl, rfl, rfl, rfl, fun henabled =>
      (attn_eq_false_iff _).2 ⟨3, by decide, by decide, rfl, henabled⟩⟩

end Sys2Proof.Proofs

/-! ## The bits of a frame (10.1, R179) -/
namespace Sys2Proof.Machine

section PortBits

variable {n : Nat} {bits : List Bool}

theorem portBits_eq (b : Byte) : portBits b = [b.getLsbD 7, b.getLsbD 6, b.getLsbD 5, b.getLsbD 4, b.getLsbD 3,
    b.getLsbD 2, b.getLsbD 1, b.getLsbD 0] := rfl

@[simp] theorem portBits_length (b : Byte) : (portBits b).length = 8 := rfl

theorem portByte_portBits (b : Byte) : portByte (portBits b) = b := by
  have hbyte := foldl_clockBit_portBits b []
  rw [portBits_eq] at hbyte ⊢
  simpa [clockBit] using hbyte

/-- Edges that complete no byte. -/
theorem foldl_clockBit_part (f : PortFrame) (h : f.part.length + bits.length < 8) :
    bits.foldl clockBit f = { f with part := f.part ++ bits } := by
  induction bits generalizing f with
  | nil => simp
  | cons b bs ih =>
    rw [List.length_cons] at h
    have hb : clockBit f b = { f with part := f.part ++ [b] } := if_pos (by omega)
    rw [List.foldl_cons, hb, ih _ (by simp; omega)]
    simp

theorem foldl_clockBit_bytes (pre bytes : List Byte) :
    (bytes.flatMap portBits).foldl clockBit ⟨pre, []⟩ = ⟨pre ++ bytes, []⟩ := by
  induction bytes generalizing pre with
  | nil => simp
  | cons b bs ih =>
    rw [List.flatMap_cons, List.foldl_append, foldl_clockBit_portBits, ih, List.append_assoc, List.singleton_append]

/-- Whole bytes and the bits of one more that is not whole. -/
theorem foldl_clockBit_frame (bytes : List Byte) (h : bits.length < 8) :
    (bytes.flatMap portBits ++ bits).foldl clockBit openedFrame = { bytes := bytes, part := bits } := by
  rw [List.foldl_append, openedFrame, foldl_clockBit_bytes, foldl_clockBit_part _ (by simpa using h)]
  rfl

/-- The bit of edge `n` belongs to byte `n / 8`. -/
theorem getElem?_flatMap_portBits (l : List Byte) (n : Nat) :
    (l.flatMap portBits)[n]? = l[n / 8]?.map (·.getMsbD (n % 8)) := by
  induction l generalizing n with
  | nil => simp
  | cons b bs ih =>
    rw [List.flatMap_cons]
    by_cases h : n < 8
    · rw [List.getElem?_append_left (by simpa using h), Nat.div_eq_of_lt h, Nat.mod_eq_of_lt h]
      simp [portBits, h]
    · obtain ⟨m, rfl⟩ := Nat.exists_eq_add_of_le (Nat.not_lt.1 h)
      rw [List.getElem?_append_right (by simp), portBits_length, Nat.add_sub_cancel_left, ih, Nat.add_div_left _ (by decide),
        Nat.add_mod_left]
      rfl

/-- The first `n` edges of a frame clock `n / 8` bytes and the first bits of the next. -/
theorem take_flatMap_portBits (l : List Byte) (n : Nat) (h : n < 8 * l.length) :
    ∃ bits, bits.length = n % 8 ∧ (l.flatMap portBits).take n = (l.take (n / 8)).flatMap portBits ++ bits := by
  induction l generalizing n with
  | nil => simp at h
  | cons b bs ih =>
    rw [List.flatMap_cons]
    by_cases hn : n < 8
    · refine ⟨(portBits b).take n, by simp; omega, ?_⟩
      rw [Nat.div_eq_of_lt hn, List.take_append_of_le_length (by simp; omega)]
      rfl
    · obtain ⟨m, rfl⟩ := Nat.exists_eq_add_of_le (Nat.not_lt.1 hn)
      rw [List.length_cons] at h
      obtain ⟨bits, hlen, htake⟩ := ih m (by omega)
      refine ⟨bits, by omega, ?_⟩
      rw [Nat.add_div_left _ (by decide), List.take_succ_cons, List.flatMap_cons, List.append_assoc, ← htake,
        ← portBits_length b, List.take_length_add_append]

theorem foldl_clockBit_take (bytes : List Byte) (h : n < 8 * bytes.length) : ∃ bits, bits.length = n % 8 ∧
    ((bytes.flatMap portBits).take n).foldl clockBit openedFrame = { bytes := bytes.take (n / 8), part := bits } := by
  obtain ⟨bits, hlen, htake⟩ := take_flatMap_portBits bytes n h
  exact ⟨bits, hlen, htake ▸ foldl_clockBit_frame _ (by omega)⟩

end PortBits

end Sys2Proof.Machine

/-! ## The commands that a frame makes (R179 to R182, R194) -/
namespace Sys2Proof

open Machine

section FrameCommands

variable {i : Instr} {code : Byte} {bytes rest : List Byte} {bits : List Bool} {part : Bool} {k : Nat}

theorem commandOf_unknown (h : argCount code = none) (rest : List Byte) (part : Bool) :
    commandOf (code :: rest) part = some (.unknownOrderCode code rest) := by
  simp [commandOf, h]

theorem commandOf_unfinished (hk : argCount code = some k) (h : part = true ∨ rest.length < k) :
    commandOf (code :: rest) part = some (.frameAbandoned (code :: rest) part) := by
  simp [commandOf, hk, h]

theorem commandOf_whole (hk : argCount code = some k) (h : k ≤ rest.length) :
    commandOf (code :: rest) false = orderFrom code (argAt (rest.take k)) (rest.drop k) := by
  simp [commandOf, hk, Nat.not_lt.2 h]

/-- The decoder reads the frame of an order as that order. -/
def ReadsBack (i : Instr) : Prop := ∀ bytes, frameOf i = some bytes → commandOf bytes false = some i

theorem ReadsBack.of_none (h : frameOf i = none) : ReadsBack i := fun _ hf => nomatch h.symm.trans hf

theorem ReadsBack.of_some (h : frameOf i = some bytes) (hc : commandOf bytes false = some i) : ReadsBack i :=
  fun _ hf => Option.some.inj (h.symm.trans hf) ▸ hc

/-- An order whose bytes after the arguments have no values of their own: the command keeps their number. -/
theorem ReadsBack.counted {make : Nat → Instr} (code : Byte) (args : List Byte) (n : Nat)
    (h : frameOf (make n) = some (code :: (args ++ List.replicate n 0))) (hk : argCount code = some args.length)
    (ho : ∀ data : List Byte, orderFrom code (argAt args) data = some (make data.length)) : ReadsBack (make n) := by
  refine .of_some h ?_
  rw [commandOf_whole hk (by simp), List.take_left, List.drop_left, ho, List.length_replicate]

/-- An order whose bytes after the arguments are its data. -/
theorem ReadsBack.data {make : List Byte → Instr} (code : Byte) (args data : List Byte)
    (h : frameOf (make data) = some (code :: (args ++ data))) (hk : argCount code = some args.length)
    (ho : ∀ data, orderFrom code (argAt args) data = some (make data)) : ReadsBack (make data) := by
  refine .of_some h ?_
  rw [commandOf_whole hk (by simp), List.take_left, List.drop_left, ho]

/-- The decoder's reading of each order's frame (R184, R194). A tag report with selector 0 is ill-formed: its frame is that
of the link status. -/
theorem readsBack (i : Instr) : ReadsBack i ∨ ∃ n, i = .deskReadTagReport 0 n := by
  cases i
  case statusRead n => exact .inl <| .counted 0x11 [] n rfl rfl fun _ => rfl
  case causeRead n => exact .inl <| .counted 0x12 [] n rfl rfl fun _ => rfl
  case causeEnable set n => exact .inl <| .counted 0x13 [set] n rfl rfl fun _ => rfl
  case displaySet opts n => exact .inl <| .counted 0x14 [opts] n rfl rfl fun _ => rfl
  case loopbackSet opts n => exact .inl <| .counted 0x15 [opts] n rfl rfl fun _ => rfl
  case softReset n => exact .inl <| .counted 0x1F [] n rfl rfl fun _ => rfl
  case formBegin h w d n => exact .inl <| .counted 0x21 [h, w, d] n rfl rfl fun _ => rfl
  case fieldDefine number row col length kind decimals form attrs sumCol tag n =>
    exact .inl <| .counted 0x22 [number, row, col, length, kind, decimals, form, attrs, sumCol, tag] n rfl rfl fun _ => rfl
  case fieldDrop number n => exact .inl <| .counted 0x23 [number] n rfl rfl fun _ => rfl
  case columnDefine number col length kind decimals form attrs opA opB n =>
    exact .inl <| .counted 0x24 [number, col, length, kind, decimals, form, attrs, opA, opB] n rfl rfl fun _ => rfl
  case columnDrop number n => exact .inl <| .counted 0x25 [number] n rfl rfl fun _ => rfl
  case labelWrite plane r0 c0 r1 c1 direction format data =>
    exact .inl <| .data 0x26 [plane, r0, c0, r1, c1, direction, format] data rfl rfl fun _ => rfl
  case formEnd n => exact .inl <| .counted 0x27 [] n rfl rfl fun _ => rfl
  case fieldWrite field mode start format data =>
    exact .inl <| .data 0x31 [field, mode, start, format] data rfl rfl fun _ => rfl
  case cellWrite line col mode start format data =>
    exact .inl <| .data 0x32 [line, col, mode, start, format] data rfl rfl fun _ => rfl
  case streamBegin field n => exact .inl <| .counted 0x33 [field] n rfl rfl fun _ => rfl
  case streamNext format data => exact .inl <| .data 0x34 [format] data rfl rfl fun _ => rfl
  case fieldRead field n => exact .inl <| .counted 0x35 [field] n rfl rfl fun _ => rfl
  case cellRead line col n => exact .inl <| .counted 0x36 [line, col] n rfl rfl fun _ => rfl
  case entriesClear n => exact .inl <| .counted 0x37 [] n rfl rfl fun _ => rfl
  case cursorSet form a b n => exact .inl <| .counted 0x38 [form, a, b] n rfl rfl fun _ => rfl
  case cursorRead n => exact .inl <| .counted 0x39 [] n rfl rfl fun _ => rfl
  case windowSet t n => exact .inl <| .counted 0x3A [t] n rfl rfl fun _ => rfl
  case key codes => exact .inl <| .data 0x41 [] codes rfl rfl fun _ => rfl
  case blockRead n => exact .inl <| .counted 0x51 [] n rfl rfl fun _ => rfl
  case release opts n => exact .inl <| .counted 0x52 [opts] n rfl rfl fun _ => rfl
  case reject code form a b message => exact .inl <| .data 0x53 [code, form, a, b] message rfl rfl fun _ => rfl
  case passSend dest format data => exact .inl <| .data 0x61 [dest, format] data rfl rfl fun _ => rfl
  case passRead n => exact .inl <| .counted 0x62 [] n rfl rfl fun _ => rfl
  case bannerSend format data => exact .inl <| .data 0x63 [format] data rfl rfl fun _ => rfl
  case deskReadLinkStatus n => exact .inl <| .counted 0x64 [0] n rfl rfl fun _ => rfl
  case deskReadTagReport sel n =>
    by_cases hsel : sel = 0
    · exact .inr ⟨n, hsel ▸ rfl⟩
    · exact .inl <| .counted 0x64 [sel] n rfl rfl fun _ => congrArg some (if_neg hsel)
  all_goals exact .inl (.of_none rfl)

theorem commandOf_frameOf (hw : wellFormed i = true) (hf : frameOf i = some bytes) : commandOf bytes false = some i := by
  rcases readsBack i with h | ⟨n, rfl⟩
  · exact h bytes hf
  · cases hw

/-- The frame of an order is that of a known code, with all its arguments. -/
theorem exists_code_of_frame (hi : commandOf bytes false = some i) (hf : frameOf i = some bytes) :
    ∃ code rest k, bytes = code :: rest ∧ argCount code = some k ∧ k ≤ rest.length := by
  cases bytes with
  | nil => cases hi; cases hf
  | cons code rest =>
    cases hk : argCount code with
    | none => rw [commandOf_unknown hk] at hi; cases hi; cases hf
    | some k =>
      refine ⟨code, rest, k, rfl, hk, Nat.not_lt.1 fun h => ?_⟩
      rw [commandOf_unfinished hk (.inr h)] at hi
      cases hi
      cases hf

/-! ### At the pins -/

theorem portCommands_clocked (bits : List Bool) (es : List PortEvent) (f : PortFrame) :
    portCommands (bits.map .sclkRises ++ es) (some f) = portCommands es (some (bits.foldl clockBit f)) := by
  induction bits generalizing f with
  | nil => rfl
  | cons b bs ih => exact ih (clockBit f b)

/-- SCLK makes nothing while SELN is high. -/
theorem portCommands_unopened (bits : List Bool) (es : List PortEvent) :
    portCommands (bits.map .sclkRises ++ es) none = portCommands es none := by
  induction bits with
  | nil => rfl
  | cons b bs ih => exact ih

/-- A falling edge of SELN, the bits of a frame and the rising edge of SELN. -/
theorem portCommands_frame (bytes : List Byte) (h : bits.length < 8) :
    portCommands (.selnFalls :: (bytes.flatMap portBits ++ bits).map .sclkRises ++ [.selnRises]) none =
      .frameOpen :: (commandOf bytes (!bits.isEmpty)).toList := by
  have hopen : portCommands ((bytes.flatMap portBits ++ bits).map .sclkRises ++ [.selnRises]) (some openedFrame) =
      (commandOf bytes (!bits.isEmpty)).toList := by
    rw [portCommands_clocked, foldl_clockBit_frame bytes h]
    exact List.append_nil _
  exact congrArg (Instr.frameOpen :: ·) hopen

/-- A reset loses the frame that is open, and SELN has to fall again. -/
theorem portCommands_reset (bits more : List Bool) :
    portCommands (.selnFalls :: bits.map .sclkRises ++ .reset :: more.map .sclkRises ++ [.selnRises]) none =
      [.frameOpen] := by
  have hlost : portCommands (bits.map .sclkRises ++ .reset :: (more.map .sclkRises ++ [.selnRises])) (some openedFrame) =
      [] := by
    rw [portCommands_clocked]
    exact portCommands_unopened more _
  rw [List.append_assoc]
  exact congrArg (Instr.frameOpen :: ·) hlost

end FrameCommands

end Sys2Proof

/-! ## How the orders run (10.2, 10.3) -/
namespace Sys2Proof.Machine

section OrderRuns

variable {s t : State} {n k m : Nat} {code : Byte} {args : List Byte} {l : List Byte} {i : Instr}

/-! ### The rules of the orders leave SDO -/

/-- What a rule gives, where it gives a state, holds `l` as the bytes that SDO drove. -/
def LeavesSdo (l : List Byte) (v : Verdict) : Prop := ∀ u, v = .ok u → u.tp.sdo = l

theorem LeavesSdo.error {o : OrderOutcome} : LeavesSdo l (.error o) := by
  intro u h
  cases h

theorem LeavesSdo.ok (h : t.tp.sdo = l) : LeavesSdo l (.ok t) := fun _ hu => Except.ok.inj hu ▸ h

theorem LeavesSdo.ite {p : Prop} [Decidable p] {v w : Verdict} (hv : LeavesSdo l v) (hw : LeavesSdo l w) :
    LeavesSdo l (if p then v else w) := by
  split
  · exact hv
  · exact hw

/-- An order's rule leaves what SDO drove to its frame. -/
def KeepsSdo (body : State → Verdict) : Prop := ∀ s, LeavesSdo s.tp.sdo (body s)

theorem keepsSdo_loopback (on : Bool) : KeepsSdo (loopbackBody on) := fun _ =>
  .ite .error (.ite (.ok rfl) (.ite (.ok rfl) (.ok rfl)))

theorem keepsSdo_formBegin (h w d : Nat) : KeepsSdo (formBeginBody h w d) := fun _ =>
  .ite (.ok (congrArg TpPort.sdo (openForm_tp ..))) .error

theorem keepsSdo_fieldDefine (fd : Option FieldDef) : KeepsSdo (fieldDefineBody fd) := fun _ =>
  .ite .error (match fd with
    | none => .error
    | some _ => .ite .error (.ite .error (.ok rfl)))

theorem keepsSdo_fieldDrop (n : Nat) : KeepsSdo (fieldDropBody n) := fun _ =>
  .ite .error (.ite .error (.ok rfl))

theorem keepsSdo_columnDefine (cd : Option ColumnDef) : KeepsSdo (columnDefineBody cd) := fun _ =>
  .ite .error (match cd with
    | none => .error
    | some _ => .ite .error (.ite .error (.ok rfl)))

theorem keepsSdo_columnDrop (n : Nat) : KeepsSdo (columnDropBody n) := fun _ =>
  .ite .error (.ite .error (.ok rfl))

theorem keepsSdo_labelWrite (a : Option LabelArgs) (data : List Byte) : KeepsSdo (labelWriteBody a data) := by
  refine fun s => .ite .error ?_
  split
  · exact .error
  · refine .ite .error ?_
    split
    · exact .error
    · exact .ok (congrArg TpPort.sdo (requestAll_tp ..))

theorem keepsSdo_formEnd : KeepsSdo formEndBody := fun s =>
  .ite .error (.ite (.ok (congrArg TpPort.sdo (activate_tp s))) .error)

theorem leavesSdo_writeInst (i : Inst) (sh : Shape) (a : WriteArgs) (data : List Byte) (s : State) :
    LeavesSdo s.tp.sdo (writeInst i sh a data s) := by
  refine .ite .error ?_
  split
  · exact .error
  · split
    · exact .error
    · exact .ok (congrArg TpPort.sdo (storeSystem_tp_eq ..) :)

theorem keepsSdo_fieldWrite (n : Nat) (a : Option WriteArgs) (data : List Byte) : KeepsSdo (fieldWriteBody n a data) := by
  intro s
  unfold fieldWriteBody
  split
  · exact .error
  · split
    · exact .ite .error (leavesSdo_writeInst _ _ _ _ _)
    · exact .error

theorem keepsSdo_cellWrite (l c : Nat) (a : Option WriteArgs) (data : List Byte) :
    KeepsSdo (cellWriteBody l c a data) := by
  intro s
  unfold cellWriteBody
  split
  · exact .error
  · refine .ite .error ?_
    split
    · exact .ite .error (leavesSdo_writeInst _ _ _ _ _)
    · exact .error

theorem keepsSdo_streamBegin (n : Nat) : KeepsSdo (streamBeginBody n) := by
  refine fun s => .ite .error ?_
  split
  · exact .ite .error (.ok rfl)
  · exact .error

theorem keepsSdo_streamNext (f : Option Format) (data : List Byte) : KeepsSdo (streamNextBody f data) := by
  intro s
  unfold streamNextBody
  split
  · exact .error
  · refine .ite .error ?_
    split
    · split
      · next h => exact .ok (leavesSdo_writeInst _ _ _ _ _ _ h :)
      · exact .error
    · exact .error

theorem keepsSdo_entriesClear : KeepsSdo entriesClearBody := by
  intro s
  unfold entriesClearBody
  split
  · exact .error
  · exact .ok (congrArg TpPort.sdo (clearEntries_tp_eq false s) :)

theorem keepsSdo_cursorSet (form a b : Byte) : KeepsSdo (cursorSetBody form a b) := by
  intro s
  unfold cursorSetBody
  split
  · exact .error
  · split
    · exact .ok (congrArg TpPort.sdo (Proofs.abandonAndPlace_tp ..))
    · exact .error

theorem keepsSdo_windowSet (n : Nat) : KeepsSdo (windowSetBody n) := by
  intro s
  unfold windowSetBody
  split
  · exact .error
  · exact .ok (congrArg TpPort.sdo (Proofs.abandonAndPlace_tp ..))

theorem keepsSdo_release (opts : Byte) : KeepsSdo (releaseBody opts) := fun _ =>
  .ite .error (.ite .error (.ok (congrArg TpPort.sdo (releaseSend_tp ..))))

theorem keepsSdo_reject (code form a b : Byte) (message : List Byte) : KeepsSdo (rejectBody code form a b message) := by
  refine fun s => .ite .error ?_
  split
  · exact .error
  · exact .ite .error (.ok (congrArg TpPort.sdo (rejectSend_tp ..)))

theorem keepsSdo_passSend (dest : Byte) (f : Option Format) (data : List Byte) : KeepsSdo (passSendBody dest f data) := by
  refine fun s => .ite .error (.ite .error ?_)
  split
  · exact .error
  · split
    · exact .error
    · exact .ok rfl

theorem keepsSdo_bannerSend (f : Option Format) (data : List Byte) : KeepsSdo (bannerSendBody f data) := by
  refine fun s => .ite .error ?_
  split
  · exact .error
  · split
    · exact .error
    · exact .ok (congrArg TpPort.sdo (setBanner_tp ..))

/-! ### The order that a known code makes -/

/-- The reply of the order of a known code with the arguments `args`: none where it has no reply or is refused. -/
def frameReply (code : Byte) (args : List Byte) (s : State) : List Byte :=
  match code.toNat with
  | 0x11 => statusBytes s
  | 0x12 => if s.tp.phase = .starting then [] else [BitVec.ofNat 8 (causeReply s)]
  | _ => if s.tp.phase = .starting then [] else driven (openReply code args s)

/-- How the order `i` runs whose frame has the arguments `args`, `k` of them, and `n` bytes after them. -/
inductive RunsAs (code : Byte) (k n : Nat) (args : List Byte) (i : Instr) : Prop
  | statusRead (hi : i = .statusRead n) (hk : k = 0) (hr : ∀ s, frameReply code args s = statusBytes s)
  | causeRead (hi : i = .causeRead n) (hk : k = 0) (hr : ∀ s, frameReply code args s =
      if s.tp.phase = .starting then [] else [BitVec.ofNat 8 (causeReply s)])
  | softReset (hi : i = .softReset n) (hk : k = 0) (hr : ∀ s, frameReply code args s = [])
  | order {m : Nat} {body : State → Verdict} (hr : ∀ s, frameReply code args s = []) (hm : k + n = m)
      (h : ∀ s, exec i s = runOrder m body s) (hb : KeepsSdo body)
  | stream {m : Nat} {body : State → Verdict} (hr : ∀ s, frameReply code args s = []) (hm : k + n = m)
      (h : ∀ s, exec i s = runStreamOrder m body s) (hb : KeepsSdo body)
  | read {reply : State → Except OrderOutcome (List Byte)} {after : State → State}
      (hr : ∀ s, frameReply code args s = if s.tp.phase = .starting then [] else driven (reply s))
      (h : ∀ s, exec i s = runRead k n reply after s) (ha : ∀ s, (after s).tp = s.tp)

theorem runsAs_deskRead (h : ∀ s, exec i s = deskRead (argAt args 0) n s) : RunsAs 0x64 1 n args i :=
  .read (fun _ => rfl) h (clearLink_tp _)

theorem eq_ofNat_of_toNat_eq (h : code.toNat = n) : code = BitVec.ofNat 8 n := by
  subst h
  simp

/-- Every order of the table, in the table's order (R194). -/
theorem orderFrom_runsAs (hk : argCount code = some k) (args data : List Byte) :
    ∃ i, orderFrom code (argAt args) data = some i ∧ RunsAs code k data.length args i := by
  unfold argCount at hk
  split at hk
  all_goals cases hk
  all_goals
    rename_i hcode
    obtain rfl := eq_ofNat_of_toNat_eq hcode
    refine ⟨_, rfl, ?_⟩
  -- the control orders
  · exact .statusRead rfl rfl fun _ => rfl
  · exact .causeRead rfl rfl fun _ => rfl
  · exact .order (fun _ => ite_self _) rfl (fun s => exec_causeEnable s _ _) fun _ => .ok rfl
  · exact .order (fun _ => ite_self _) rfl (fun s => exec_displaySet s _ _) fun _ => .ok rfl
  · exact .order (fun _ => ite_self _) rfl (fun _ => rfl) (keepsSdo_loopback _)
  · exact .softReset rfl rfl fun _ => ite_self _
  -- the orders that define a form
  · exact .order (fun _ => ite_self _) rfl (fun _ => rfl) (keepsSdo_formBegin _ _ _)
  · exact .order (fun _ => ite_self _) rfl (fun _ => rfl) (keepsSdo_fieldDefine _)
  · exact .order (fun _ => ite_self _) rfl (fun _ => rfl) (keepsSdo_fieldDrop _)
  · exact .order (fun _ => ite_self _) rfl (fun _ => rfl) (keepsSdo_columnDefine _)
  · exact .order (fun _ => ite_self _) rfl (fun _ => rfl) (keepsSdo_columnDrop _)
  · exact .order (fun _ => ite_self _) rfl (fun _ => rfl) (keepsSdo_labelWrite _ _)
  · exact .order (fun _ => ite_self _) (Nat.zero_add _) (fun _ => rfl) keepsSdo_formEnd
  -- contents, cursor and window
  · exact .order (fun _ => ite_self _) rfl (fun _ => rfl) (keepsSdo_fieldWrite _ _ _)
  · exact .order (fun _ => ite_self _) rfl (fun _ => rfl) (keepsSdo_cellWrite _ _ _ _)
  · exact .order (fun _ => ite_self _) rfl (fun _ => rfl) (keepsSdo_streamBegin _)
  · exact .stream (fun _ => ite_self _) rfl (fun _ => rfl) (keepsSdo_streamNext _ _)
  · exact .read (fun _ => rfl) (fun s => exec_fieldRead s _ _) fun _ => rfl
  · exact .read (fun _ => rfl) (fun s => exec_cellRead s _ _ _) fun _ => rfl
  · exact .order (fun _ => ite_self _) (Nat.zero_add _) (fun _ => rfl) keepsSdo_entriesClear
  · exact .order (fun _ => ite_self _) rfl (fun _ => rfl) (keepsSdo_cursorSet _ _ _)
  · exact .read (fun _ => rfl) (fun s => exec_cursorRead s _) fun _ => rfl
  · exact .order (fun _ => ite_self _) rfl (fun _ => rfl) (keepsSdo_windowSet _)
  -- keys and the send
  · exact .order (fun _ => ite_self _) (Nat.zero_add _) (fun s => exec_key s _) fun s =>
      .ok (congrArg TpPort.sdo (offerKeys_tp _ s))
  · exact .read (fun _ => rfl) (fun s => exec_blockRead_run s _) (advanceRead_tp _)
  · exact .order (fun _ => ite_self _) rfl (fun _ => rfl) (keepsSdo_release _)
  · exact .order (fun _ => ite_self _) rfl (fun _ => rfl) (keepsSdo_reject _ _ _ _ _)
  -- messages and the desk
  · exact .order (fun _ => ite_self _) rfl (fun _ => rfl) (keepsSdo_passSend _ _ _)
  · exact .read (fun _ => rfl) (fun s => exec_passRead s _) removeInbound_tp
  · exact .order (fun _ => ite_self _) rfl (fun _ => rfl) (keepsSdo_bannerSend _ _)
  · split
    · next hsel => exact runsAs_deskRead fun _ => hsel ▸ rfl
    · exact runsAs_deskRead fun _ => rfl

/-- The order of a frame, by its own bytes: `orderFrom_runsAs` on what the decoder reads. -/
theorem exists_runsAs {bytes : List Byte} (hf : frameOf i = some bytes) :
    ∃ code k n args, RunsAs code k n args i ∧ bytes.length = 1 + k + n := by
  rcases readsBack i with hread | ⟨n, rfl⟩
  · obtain ⟨code, rest, k, rfl, hk, hle⟩ := exists_code_of_frame (hread bytes hf) hf
    obtain ⟨j, hj, hruns⟩ := orderFrom_runsAs hk (rest.take k) (rest.drop k)
    obtain rfl : i = j := Option.some.inj ((hread _ hf).symm.trans ((commandOf_whole hk hle).trans hj))
    refine ⟨code, k, _, _, hruns, ?_⟩
    rw [List.length_drop, List.length_cons]
    omega
  · cases hf
    exact ⟨0x64, 1, n, [0], runsAs_deskRead fun _ => rfl, by simp; omega⟩

end OrderRuns

end Sys2Proof.Machine

/-! ## Frames in STARTING (R183) -/
namespace Sys2Proof.Machine

section Starting

variable {s : State} {n k m : Nat}

theorem runOrder_starting {body : State → Verdict} (hp : s.tp.phase = .starting) (hm : 1 + n = m) :
    runOrder n body s = .next (framed .refusedState (List.replicate m 0) s) := by
  subst hm
  exact if_pos hp

theorem runRead_starting {reply : State → Except OrderOutcome (List Byte)} {after : State → State}
    (hp : s.tp.phase = .starting) :
    runRead k n reply after s = .next (framed .refusedState (List.replicate (1 + k + n) 0) s) :=
  if_pos hp

/-- STREAM NEXT ends no stream, and there is none in STARTING. -/
theorem runStreamOrder_starting {body : State → Verdict} (hp : s.tp.phase = .starting) (hs : s.tp.stream = none)
    (hm : 1 + n = m) : runStreamOrder n body s = .next (framed .refusedState (List.replicate m 0) s) := by
  subst hm
  refine (if_pos hp).trans ?_
  rw [framed, ← hs]
  rfl

theorem execSoftReset_starting (hp : s.tp.phase = .starting) (hm : 1 + n = m) :
    execSoftReset s n = .next (framed .refusedState (List.replicate m 0) s) :=
  (if_pos hp).trans (runOrder_starting hp hm)

/-- In STARTING every order but STATUS READ and CAUSE READ is refused with 0x00 on every byte of its frame (R183). -/
theorem exec_starting {i : Instr} {bytes : List Byte} (hp : s.tp.phase = .starting) (hs : s.tp.stream = none)
    (hf : frameOf i = some bytes) (hstatus : ∀ n, i ≠ .statusRead n) (hcause : ∀ n, i ≠ .causeRead n) :
    exec i s = .next (framed .refusedState (List.replicate bytes.length 0) s) := by
  obtain ⟨code, k, n, args, hruns, hlen⟩ := exists_runsAs hf
  rw [hlen]
  cases hruns with
  | statusRead hi => exact absurd hi (hstatus n)
  | causeRead hi => exact absurd hi (hcause n)
  | softReset hi hk =>
    subst hi hk
    exact execSoftReset_starting hp rfl
  | order _ hm h => exact (h s).trans (runOrder_starting hp (by omega))
  | stream _ hm h => exact (h s).trans (runStreamOrder_starting hp hs (by omega))
  | read _ h => exact (h s).trans (runRead_starting hp)

end Starting

end Sys2Proof.Machine

namespace Sys2Proof.Proofs

open Machine

/-- Settles O13: no order's own rule is asked in STARTING, where no stream is pointed. -/
theorem startingRefusesOrders : Obligations.StartingRefusesOrders := by
  intro i bytes s hsound hp hf hstatus
  refine ⟨fun hcause => exec_starting hp (hsound.stream hp) hf hstatus hcause, ?_⟩
  rintro n rfl
  cases hf
  refine (execCauseRead_starting hp n).trans ?_
  rw [List.length_cons, List.length_replicate, Nat.add_comm n 1]
  rfl

end Sys2Proof.Proofs

/-! ## Frames of an unknown code, and abandoned (R181, R182) -/
namespace Sys2Proof.Machine

section Abandoned

variable {s : State} {k : Nat}

theorem execFrameAbandoned_unknown {code : Byte} {rest : List Byte} {part : Bool} (h : argCount code = none) :
    execFrameAbandoned (code :: rest) part s = .next (settle (unknownFrame rest.length s)) := by
  simp [execFrameAbandoned, h, ok]

theorem execFrameAbandoned_unfinished {code : Byte} {rest : List Byte} {part : Bool} (h : argCount code = some k)
    (hpart : part = true ∨ rest.length < k) :
    execFrameAbandoned (code :: rest) part s = .next (settle (abandonKnown code k rest s)) := by
  have hopen : unfinished k rest part = true := by simpa [unfinished] using hpart
  simp [execFrameAbandoned, h, hopen, ok]

theorem abandonKnown_order {code : Byte} (h11 : code ≠ 0x11) (h12 : code ≠ 0x12) (k : Nat) (rest : List Byte) (s : State) :
    abandonKnown code k rest s = abandonOrder code k rest s := by
  rw [abandonKnown, if_neg h11, if_neg h12]

/-- The orders whose bytes act while they are clocked are KEY, BLOCK READ and DESK READ (R180). -/
theorem openEffect_of_not_bytewise {code : Byte} (h : code ∉ ([0x41, 0x51, 0x64] : List Byte)) (rest : List Byte)
    (s : State) : openEffect code rest s = s := by
  have hne : ∀ c ∈ ([0x41, 0x51, 0x64] : List Byte), code.toNat ≠ c.toNat := fun c hc e =>
    h (BitVec.eq_of_toNat_eq e ▸ hc)
  have h41 : code.toNat ≠ 0x41 := hne 0x41 (by decide)
  have h51 : code.toNat ≠ 0x51 := hne 0x51 (by decide)
  have h64 : code.toNat ≠ 0x64 := hne 0x64 (by decide)
  unfold openEffect
  split
  · split
    · next h => exact absurd h h41
    · next h => exact absurd h h51
    · next h => exact absurd h h64
    · rfl
  · rfl

theorem openEffect_key (hp : s.tp.phase = .ready) (rest : List Byte) : openEffect 0x41 rest s = offerKeys rest s :=
  if_pos hp

theorem openEffect_blockRead (hp : s.tp.phase = .ready) (hs : s.send.state = .ready) (rest : List Byte) :
    openEffect 0x51 rest s = advanceRead rest.length s :=
  (if_pos hp).trans (if_pos hs)

/-- The frame of an unfinished order, its byte-by-byte effects made: ABANDONED, the stream kept for STREAM NEXT alone. -/
theorem abandonOrder_eq (code : Byte) (k : Nat) (rest : List Byte) (s : State) : abandonOrder code k rest s =
    { framed .abandoned (openSdo code k rest s) (openEffect code rest s) with
      tp := { (framed .abandoned (openSdo code k rest s) (openEffect code rest s)).tp with
        stream := if code = 0x34 then s.tp.stream else none } } := by
  unfold abandonOrder openStream
  split
  · rw [← openEffect_tp code rest s]
    rfl
  · rfl

/-- Every order but STREAM NEXT ends the stream. -/
theorem abandonOrder_of_ne {code : Byte} (h : code ≠ 0x34) (k : Nat) (rest : List Byte) (s : State) :
    abandonOrder code k rest s = framed .abandoned (openSdo code k rest s) (openEffect code rest s) := by
  rw [abandonOrder_eq, if_neg h]
  rfl

end Abandoned

end Sys2Proof.Machine

namespace Sys2Proof.Proofs

open Machine

/-- Settles O8. -/
theorem unknownCodeEndsUnknown : Obligations.UnknownCodeEndsUnknown :=
  fun _ _ _ _ h => ⟨if_pos h, execFrameAbandoned_unknown h⟩

/-- Settles O9: an unfinished frame is `abandonOrder`, whose effects on the rest of the machine are `openEffect`. -/
theorem abandonedFramesDoNotAct : Obligations.AbandonedFramesDoNotAct := by
  intro code rest part k s hk hpart
  have hexec : exec (.frameAbandoned (code :: rest) part) s = .next (settle (abandonKnown code k rest s)) :=
    execFrameAbandoned_unfinished hk hpart
  refine ⟨fun hcode => ?_, ?_, ?_, ?_, rfl, rfl⟩
  · have hcode' := List.not_mem_of_not_mem_cons hcode
    refine ⟨openSdo code k rest s, ?_⟩
    rw [hexec, abandonKnown_order (List.ne_of_not_mem_cons hcode) (List.ne_of_not_mem_cons hcode'), abandonOrder_eq,
      openEffect_of_not_bytewise (List.not_mem_of_not_mem_cons hcode')]
  · rintro rfl hp
    refine ⟨openSdo 0x41 k rest s, ?_⟩
    rw [hexec, abandonKnown_order (by decide) (by decide), abandonOrder_of_ne (by decide), openEffect_key hp]
  · rintro rfl hp hs
    refine ⟨openSdo 0x51 k rest s, ?_⟩
    rw [hexec, abandonKnown_order (by decide) (by decide), abandonOrder_of_ne (by decide), openEffect_blockRead hp hs]
    rfl
  · rintro rfl rfl
    refine ⟨_, hexec, ?_⟩
    rw [settle_tp]
    cases hp : s.tp.phase <;> simp [abandonKnown, hp, causeFrame_eq]

end Sys2Proof.Proofs

/-! ## What SDO drives (R179, R180, R183) -/
namespace Sys2Proof.Machine

section Sdo

variable {s t : State} {n k m p : Nat} {code : Byte} {args rest r : List Byte}

/-! ### The frames of the orders -/

/-- The bytes that SDO drove in the frame of a command. -/
def Drives (o : Out) (bytes : List Byte) : Prop := ∃ t, o = .next t ∧ t.tp.sdo = bytes

theorem drives_ok (h : t.tp.sdo = r) : Drives (ok t) r := ⟨settle t, rfl, by rw [settle_tp, h]⟩

theorem drives_runOrder {body : State → Verdict} (hb : KeepsSdo body) : Drives (runOrder n body s) (zeros (1 + n)) := by
  unfold runOrder
  dsimp only
  split
  · exact ⟨_, rfl, rfl⟩
  · split
    · exact ⟨_, rfl, rfl⟩
    · next u hu => exact drives_ok (hb _ u hu)

theorem drives_runStreamOrder {body : State → Verdict} (hb : KeepsSdo body) :
    Drives (runStreamOrder n body s) (zeros (1 + n)) := by
  unfold runStreamOrder
  dsimp only
  split
  · exact ⟨_, rfl, rfl⟩
  · split
    · exact ⟨_, rfl, rfl⟩
    · next u hu => exact drives_ok (hb _ u hu)

theorem drives_softReset (n : Nat) (s : State) : Drives (execSoftReset s n) (zeros (1 + n)) := by
  cases hp : s.tp.phase with
  | starting => exact ⟨_, execSoftReset_starting hp rfl, rfl⟩
  | ready => exact ⟨_, execSoftReset_ready hp n, rfl⟩

theorem zeros_add (m n : Nat) : zeros (m + n) = zeros m ++ zeros n := List.replicate_add ..

theorem replyBytes_nil (n : Nat) : replyBytes n [] = zeros n := List.take_of_length_le (by simp [zeros])

theorem drives_runRead {reply : State → Except OrderOutcome (List Byte)} {after : State → State}
    (ha : ∀ s, (after s).tp = s.tp) : Drives (runRead k n reply after s)
      (zeros (1 + k) ++ replyBytes n (if s.tp.phase = .starting then [] else driven (reply s))) := by
  unfold runRead
  split
  · exact ⟨_, rfl, by rw [replyBytes_nil, ← zeros_add]; rfl⟩
  · split
    · next o ho => exact ⟨_, rfl, by rw [ho, driven, replyBytes_nil, ← zeros_add]; rfl⟩
    · next r hr => exact drives_ok (by rw [hr]; exact congrArg TpPort.sdo (ha _))

theorem drives_statusRead (n : Nat) (s : State) :
    Drives (execStatusRead n s) (zeros 1 ++ replyBytes n (statusBytes s)) :=
  drives_ok (congrArg TpPort.sdo (clearRead_tp ..))

theorem drives_causeRead (n : Nat) (s : State) : Drives (execCauseRead n s)
    (zeros 1 ++ replyBytes n (if s.tp.phase = .starting then [] else [BitVec.ofNat 8 (causeReply s)])) := by
  unfold execCauseRead
  split
  · exact ⟨_, rfl, by rw [replyBytes_nil, ← zeros_add]; rfl⟩
  · exact drives_ok (by rw [causeFrame_eq]; rfl)

/-- The frame of an order drives its reply after its arguments, and 0x00 on every other byte. -/
theorem RunsAs.drives {i : Instr} (h : RunsAs code k n args i) (s : State) :
    Drives (exec i s) (zeros (1 + k) ++ replyBytes n (frameReply code args s)) := by
  cases h with
  | statusRead hi hk hr =>
    subst hi hk
    rw [hr]
    exact drives_statusRead n s
  | causeRead hi hk hr =>
    subst hi hk
    rw [hr]
    exact drives_causeRead n s
  | softReset hi hk hr =>
    subst hi hk
    rw [hr, replyBytes_nil, ← zeros_add]
    exact drives_softReset n s
  | order hr hm h hb =>
    rw [hr, replyBytes_nil, ← zeros_add, Nat.add_assoc, hm, h]
    exact drives_runOrder hb
  | stream hr hm h hb =>
    rw [hr, replyBytes_nil, ← zeros_add, Nat.add_assoc, hm, h]
    exact drives_runStreamOrder hb
  | read hr h ha =>
    rw [hr, h]
    exact drives_runRead ha

/-- An unfinished order has driven no byte of a reply yet (R181). -/
theorem abandoned_drives (hk : argCount code = some k) (h : rest.length < k) (s : State) :
    Drives (exec (.frameAbandoned (code :: rest) false) s) (zeros (1 + rest.length)) := by
  have h11 : code ≠ 0x11 := by rintro rfl; cases hk; cases h
  have h12 : code ≠ 0x12 := by rintro rfl; cases hk; cases h
  refine ⟨_, execFrameAbandoned_unfinished hk (.inr h), ?_⟩
  rw [settle_tp, abandonKnown_order h11 h12, abandonOrder_eq]
  have hopen : openSdo code k rest s = zeros (1 + rest.length) := by
    unfold openSdo
    split
    · rw [Nat.sub_eq_zero_of_le h.le, Nat.min_eq_right h.le]
      exact List.append_nil _
    · rfl
  exact hopen

/-! ### Byte by byte -/

/-- Byte `p` after the order code, of an order with `k` arguments and the reply `r`. -/
def sdoAt (k : Nat) (r : List Byte) (p : Nat) : Byte := if p < k then 0 else r.getD (p - k) 0

/-- The bytes that SDO drives in a frame with `n` bytes after its order code. -/
def frameSdo (k : Nat) (r : List Byte) (n : Nat) : List Byte := 0 :: (List.range n).map (sdoAt k r)

theorem sdoAt_of_lt (h : p < k) (r : List Byte) : sdoAt k r p = 0 := if_pos h

theorem sdoAt_add (k : Nat) (r : List Byte) (p : Nat) : sdoAt k r (k + p) = r.getD p 0 := by
  simp [sdoAt]

theorem zeros_eq_map_sdoAt (h : n ≤ k) (r : List Byte) : zeros n = (List.range n).map (sdoAt k r) := by
  refine (List.eq_replicate_iff.2 ⟨by simp, fun b hb => ?_⟩).symm
  obtain ⟨p, hp, rfl⟩ := List.mem_map.1 hb
  exact sdoAt_of_lt ((List.mem_range.1 hp).trans_le h) r

theorem replyBytes_eq_map (n : Nat) (r : List Byte) : replyBytes n r = (List.range n).map (r.getD · 0) := by
  refine List.ext_getElem (by simp [replyBytes, zeros]) fun p h _ => ?_
  simp [replyBytes, zeros, List.getElem_append, List.getD_eq_getElem?_getD]
  split <;> simp [*]

theorem frameSdo_of_unfinished (h : n ≤ k) (r : List Byte) : zeros (1 + n) = frameSdo k r n := by
  rw [zeros_add, zeros_eq_map_sdoAt h r]
  rfl

theorem frameSdo_of_whole (k n : Nat) (r : List Byte) : zeros (1 + k) ++ replyBytes n r = frameSdo k r (k + n) := by
  rw [frameSdo_of_unfinished le_rfl r, frameSdo, frameSdo, List.range_add, List.map_append, List.map_map,
    replyBytes_eq_map, List.cons_append]
  congr 3
  exact funext fun p => (sdoAt_add k r p).symm

/-- What the frame of a known code with the bytes `rest` drives, whole or not. -/
theorem commandOf_drives (hk : argCount code = some k) (rest : List Byte) (s : State) : ∃ i,
    commandOf (code :: rest) false = some i ∧
      Drives (exec i s) (frameSdo k (frameReply code (rest.take k) s) rest.length) := by
  by_cases h : rest.length < k
  · refine ⟨_, commandOf_unfinished hk (.inr h), ?_⟩
    rw [← frameSdo_of_unfinished h.le]
    exact abandoned_drives hk h s
  · have hle : k ≤ rest.length := Nat.not_lt.1 h
    obtain ⟨i, hi, hruns⟩ := orderFrom_runsAs hk (rest.take k) (rest.drop k)
    refine ⟨i, (commandOf_whole hk hle).trans hi, ?_⟩
    have hdrives := hruns.drives s
    rw [frameSdo_of_whole, List.length_drop, Nat.add_sub_cancel' hle] at hdrives
    exact hdrives

theorem sdoByte_nil (s : State) : sdoByte [] s = 0 := by
  have h : sdoByte [] s = (settle (unknownFrame 0 s)).tp.sdo.getLast?.getD 0 := rfl
  rw [h, settle_tp]
  rfl

/-- The byte that SDO drives after the order code and `rest` does not depend on the value of the byte clocked with it. -/
theorem sdoByte_cons (hk : argCount code = some k) (rest : List Byte) (s : State) :
    sdoByte (code :: rest) s = sdoAt k (frameReply code (rest.take k) s) rest.length := by
  obtain ⟨i, hi, t, ht, hsdo⟩ := commandOf_drives hk (rest ++ [0]) s
  have hbyte : sdoByte (code :: rest) s = t.tp.sdo.getLast?.getD 0 := by
    rw [sdoByte, List.cons_append, hi]
    simp only [Option.map_some, ht]
  rw [hbyte, hsdo, frameSdo, List.length_append, List.length_singleton, List.range_succ, List.map_append, List.map_singleton,
    ← List.cons_append, List.getLast?_concat, Option.getD_some]
  rcases Nat.lt_or_ge rest.length k with h | h
  · rw [sdoAt_of_lt h, sdoAt_of_lt h]
  · rw [List.take_append_of_le_length h]

/-- Each byte of a frame's SDO is the one that stands while the bytes before it have been clocked. -/
theorem frameSdo_getElem? (hk : argCount code = some k) (rest : List Byte) (s : State) (h : p ≤ rest.length) :
    (frameSdo k (frameReply code (rest.take k) s) rest.length)[p]? = some (sdoByte ((code :: rest).take p) s) := by
  cases p with
  | zero => rw [List.take_zero, sdoByte_nil]; rfl
  | succ p =>
    rw [List.take_succ_cons, sdoByte_cons hk, frameSdo, List.getElem?_cons_succ, List.getElem?_map,
      List.getElem?_range h, Option.map_some, List.length_take_of_le (Nat.le_of_succ_le h)]
    rcases Nat.lt_or_ge p k with hp | hp
    · rw [sdoAt_of_lt hp, sdoAt_of_lt hp]
    · rw [List.take_take, Nat.min_eq_left hp]

/-- The level of SDO at each edge of an order's frame is that bit of the bytes that the order drives. -/
theorem exec_sdoLevel {i : Instr} {bytes : List Byte} (hw : wellFormed i = true) (hf : frameOf i = some bytes) (s : State) :
    ∃ t, exec i s = .next t ∧ t.tp.sdo.length = bytes.length ∧ ∀ n b, (t.tp.sdo.flatMap portBits)[n]? = some b →
      sdoLevel (some (((bytes.flatMap portBits).take n).foldl clockBit openedFrame)) s = some b := by
  have hi := commandOf_frameOf hw hf
  obtain ⟨code, rest, k, rfl, hk, -⟩ := exists_code_of_frame hi hf
  obtain ⟨j, hj, t, ht, hsdo⟩ := commandOf_drives hk rest s
  obtain rfl : i = j := Option.some.inj (hi.symm.trans hj)
  have hlen : t.tp.sdo.length = rest.length + 1 := by
    rw [hsdo, frameSdo, List.length_cons, List.length_map, List.length_range]
  refine ⟨t, ht, hlen, fun n b hb => ?_⟩
  rw [getElem?_flatMap_portBits] at hb
  obtain ⟨c, hc, rfl⟩ := Option.map_eq_some_iff.1 hb
  obtain ⟨hn, -⟩ := List.getElem?_eq_some_iff.1 hc
  rw [hlen] at hn
  obtain ⟨bits, hbits, hfold⟩ := foldl_clockBit_take (code :: rest) (n := n) (by rw [List.length_cons]; omega)
  rw [hsdo, frameSdo_getElem? hk rest s (Nat.le_of_lt_succ hn)] at hc
  rw [hfold, sdoLevel, Option.map_some, hbits, Option.some.inj hc]

end Sdo

end Sys2Proof.Machine

namespace Sys2Proof.Proofs

open Machine

/-- Settles O53: bytes from bits, the order from its bytes, and each byte that SDO drives from the frame up to it. -/
theorem orderFramesDecode : Obligations.OrderFramesDecode := by
  refine ⟨fun i bytes => commandOf_frameOf, fun b => ⟨portBits_eq b, portByte_portBits b⟩,
    fun bytes bits => foldl_clockBit_frame bytes, ⟨fun i bytes hw hf => ?_, fun bytes bits hpos hlen => ?_,
      fun bits => ?_, fun bits more => ?_⟩, fun code rest part => ⟨rfl, fun hk => ?_, fun k hk => ?_⟩,
    fun i bytes s hw hf => exec_sdoLevel hw hf s, fun s => rfl⟩
  · have h := portCommands_frame (bits := []) bytes (by decide)
    rw [List.append_nil, List.isEmpty_nil, Bool.not_true, commandOf_frameOf hw hf] at h
    exact h
  · have hpart : (!bits.isEmpty) = true := by simpa using List.ne_nil_of_length_pos hpos
    have hmade := portCommands_frame bytes hlen
    rw [hpart] at hmade
    refine ⟨?_, ?_⟩
    · rintro rfl
      exact hmade
    · rintro code rest rfl
      refine hmade.trans ?_
      split
      · next hk => rw [commandOf_unknown hk]; rfl
      · next hk =>
        obtain ⟨k, hk⟩ := Option.ne_none_iff_exists'.1 hk
        rw [commandOf_unfinished hk (.inl rfl)]
        rfl
  · exact portCommands_unopened bits _
  · exact portCommands_reset bits more
  · simp [frameDecoder, hk]
  · simp [frameDecoder, hk]

end Sys2Proof.Proofs

/-! ## Value fields of shares (R100, R199) -/
namespace Sys2Proof.Machine

section ShareFields

/-! ### Binary-coded decimal -/

/-- The byte of the last two decimal digits of a number, the tens in the high nibble (R199). -/
def digitPair (n : Nat) : Byte := BitVec.ofNat 8 (16 * (n / 10 % 10) + n % 10)

theorem bcdBytes_succ (k n : Nat) : bcdBytes (k + 1) n = bcdBytes k (n / 100) ++ [digitPair n] := rfl

theorem toNat_digitPair (n : Nat) : (digitPair n).toNat = 16 * (n / 10 % 10) + n % 10 := by
  rw [digitPair, BitVec.toNat_ofNat]
  omega

theorem bcdLegal_digitPair (n : Nat) : bcdLegal (digitPair n) = true := by
  have htens : (digitPair n).toNat / 16 ≤ 9 := by rw [toNat_digitPair]; omega
  have hones : (digitPair n).toNat % 16 ≤ 9 := by rw [toNat_digitPair]; omega
  simp [bcdLegal, htens, hones]

theorem bcdNat_concat (ds : List Byte) (b : Byte) :
    bcdNat (ds ++ [b]) = 100 * bcdNat ds + (10 * (b.toNat / 16) + b.toNat % 16) := by
  rw [bcdNat, List.foldl_append]
  rfl

theorem all_bcdLegal_bcdBytes (k n : Nat) : (bcdBytes k n).all bcdLegal = true := by
  induction k generalizing n with
  | zero => rfl
  | succ k ih => simp [bcdBytes_succ, ih, bcdLegal_digitPair]

/-- A number of no more than `2 * k` digits is spelt whole by `k` bytes. -/
theorem bcdNat_bcdBytes {k n : Nat} (h : n < 100 ^ k) : bcdNat (bcdBytes k n) = n := by
  induction k generalizing n with
  | zero => exact (Nat.lt_one_iff.1 h).symm
  | succ k ih =>
    have hhigh : n / 100 < 100 ^ k := Nat.div_lt_of_lt_mul (by rwa [Nat.pow_succ, Nat.mul_comm] at h)
    rw [bcdBytes_succ, bcdNat_concat, ih hhigh, toNat_digitPair]
    omega

/-! ### Shares -/

theorem shareBytes_overflow : shareBytes .overflow = 0x01 :: bcdBytes 10 0 := rfl

/-- From 10^20 on a value is sent as OVERFLOW (R100). -/
theorem shareBytes_of_large {v : Int} (h : tallyRange ≤ v.natAbs) : shareBytes (.value v) = shareBytes .overflow :=
  if_pos h

theorem shareBytes_of_fits {v : Int} (h : v.natAbs < tallyRange) :
    shareBytes (.value v) = (if v < 0 then 0x80 else 0x00) :: bcdBytes 10 v.natAbs :=
  if_neg (Nat.not_le.2 h)

theorem shareOfBytes_overflow (ds : List Byte) : shareOfBytes (0x01 :: ds) = some .overflow := rfl

/-- Legal digits under the state byte of a sign are its value (R199). -/
theorem shareOfBytes_signed {ds : List Byte} (h : ds.all bcdLegal = true) (neg : Prop) [Decidable neg] :
    shareOfBytes ((if neg then 0x80 else 0x00) :: ds) = some (.value (if neg then -(bcdNat ds : Int) else bcdNat ds)) := by
  unfold shareOfBytes
  by_cases hneg : neg <;> simp [hneg, h]

end ShareFields

end Sys2Proof.Machine

namespace Sys2Proof.Proofs

open Machine

/-- Settles O52: ten bytes spell a magnitude below 10^20 whole, and the state byte carries its sign. -/
theorem shareFieldCarriesValue : Obligations.ShareFieldCarriesValue := by
  refine ⟨fun v hv => ?_, fun v hv => ?_, shareOfBytes_overflow _, length_shareBytes⟩
  · have hspelt : bcdNat (bcdBytes 10 v.natAbs) = v.natAbs := bcdNat_bcdBytes (by omega)
    have hsign : (if v < 0 then -(v.natAbs : Int) else v.natAbs) = v := by split <;> omega
    rw [shareBytes_of_fits hv, shareOfBytes_signed (all_bcdLegal_bcdBytes 10 _), hspelt, hsign]
  · rw [shareBytes_of_large hv]
    exact shareOfBytes_overflow _

end Sys2Proof.Proofs

/-! ## STATUS READ (R185, R196) -/
namespace Sys2Proof.Machine

section StatusReads

variable (s : State) (n : Nat)

/-! ### The frame -/

theorem statusFrame_eq : statusFrame n s = { s with
    tp := { s.tp with decoder := .idle, awaitHigh := false, sdo := 0 :: replyBytes n (statusBytes s) }
    key := { s.key with typeaheadLost := s.key.typeaheadLost && decide (n < 3) }
    desk := { s.desk with inboundLost := s.desk.inboundLost && decide (n < 4) } } := by
  unfold statusFrame clearRead
  rcases Nat.lt_or_ge n 3 with hkey | hkey
  · have hdesk : n < 4 := Nat.lt_succ_of_lt hkey
    simp [hkey, hdesk, Nat.not_le.2, closeFrame, zeros]
  · rcases Nat.lt_or_ge n 4 with hdesk | hdesk
    · simp [hkey, hdesk, Nat.not_le.2, Nat.not_lt.2, closeFrame, zeros]
    · simp [hkey, hdesk, Nat.not_lt.2, closeFrame, zeros]

theorem exec_statusRead : exec (.statusRead n) s = .next (settle (statusFrame n s)) := rfl

/-! ### The four bytes -/

/-- The byte of the phase and the three states (R196). -/
def stateByte : Byte :=
  BitVec.ofNat 8 (128 * phaseCode s.tp.phase + 16 * formCode s.form.state + 4 * keyboardCode s.key.keyboard
    + sendCodeOf s.send.state)

/-- The byte of the last outcome (R196). -/
def outcomeByte : Byte := BitVec.ofNat 8 (outcomeCode s.tp.outcome)

/-- The byte of the key queue (R196). -/
def queueByte : Byte := BitVec.ofNat 8 (128 * bit s.key.typeaheadLost + s.key.queue.length)

/-- The byte of the repaint list and the flags (R196). -/
def flagByte : Byte :=
  BitVec.ofNat 8 (min s.comp.items.length 15 + 16 * bit s.tp.stream.isSome + 32 * bit s.desk.inboundLost
    + 64 * bit (anyLinkFlag s.line.flags) + 128 * bit s.line.listenOnly)

theorem statusBytes_eq : statusBytes s = [stateByte s, outcomeByte s, queueByte s, flagByte s] := rfl

theorem bit_lt_two (b : Bool) : bit b < 2 := by cases b <;> decide

/-- Bit `j` of a byte, by division of the number that made it. -/
theorem getLsbD_ofNat_eq {m j : Nat} {b : Bool} (hj : j < 8) (h : m / 2 ^ j % 2 = bit b) :
    (BitVec.ofNat 8 m).getLsbD j = b := by
  rw [BitVec.getLsbD_ofNat, decide_eq_true hj, Bool.true_and, Nat.testBit_eq_decide_div_mod_eq, h]
  cases b <;> rfl

/-- Bit 7 the phase, bit 6 clear, bits 5–4, 3–2 and 1–0 the form, keyboard and send state (R196). -/
theorem stateByte_fields :
    ((stateByte s).getLsbD 7 = true ↔ s.tp.phase = .ready) ∧ (stateByte s).getLsbD 6 = false ∧
    (stateByte s).toNat / 16 % 4 = formCode s.form.state ∧
    (stateByte s).toNat / 4 % 4 = keyboardCode s.key.keyboard ∧ (stateByte s).toNat % 4 = sendCodeOf s.send.state := by
  have hform : formCode s.form.state < 3 := by cases s.form.state <;> decide
  have hkeyboard : keyboardCode s.key.keyboard < 4 := by cases s.key.keyboard <;> decide
  have hsend : sendCodeOf s.send.state < 3 := by cases s.send.state <;> decide
  have hphase : phaseCode s.tp.phase = bit (decide (s.tp.phase = .ready)) := by cases s.tp.phase <;> rfl
  have hbit := bit_lt_two (decide (s.tp.phase = .ready))
  unfold stateByte
  rw [hphase]
  refine ⟨?_, getLsbD_ofNat_eq (by decide) ?_, ?_, ?_, ?_⟩
  · rw [getLsbD_ofNat_eq (by decide) (b := decide (s.tp.phase = .ready)) (by omega), decide_eq_true_eq]
  · rw [show bit false = 0 from rfl]
    omega
  all_goals
    rw [BitVec.toNat_ofNat]
    omega

theorem toNat_outcomeByte : (outcomeByte s).toNat = outcomeCode s.tp.outcome := by
  unfold outcomeByte
  cases s.tp.outcome <;> rfl

/-- Bits 4–0 the count, bits 6–5 clear, bit 7 typeahead-lost (R196). -/
theorem queueByte_fields {s : State} (hlen : s.key.queue.length ≤ 16) :
    (queueByte s).toNat % 32 = s.key.queue.length ∧ (queueByte s).getLsbD 5 = false ∧ (queueByte s).getLsbD 6 = false ∧
    (queueByte s).getLsbD 7 = s.key.typeaheadLost := by
  have hlost := bit_lt_two s.key.typeaheadLost
  have hclear : bit false = 0 := rfl
  unfold queueByte
  refine ⟨?_, getLsbD_ofNat_eq (by decide) ?_, getLsbD_ofNat_eq (by decide) ?_, getLsbD_ofNat_eq (by decide) ?_⟩
  · rw [BitVec.toNat_ofNat]
    omega
  all_goals omega

/-- Bits 3–0 the items pending, bits 4 to 7 the stream, inbound-lost, LINK FAULT and listen-only (R196). -/
theorem flagByte_fields :
    (flagByte s).toNat % 16 = min s.comp.items.length 15 ∧ (flagByte s).getLsbD 4 = s.tp.stream.isSome ∧
    (flagByte s).getLsbD 5 = s.desk.inboundLost ∧ (flagByte s).getLsbD 6 = anyLinkFlag s.line.flags ∧
    (flagByte s).getLsbD 7 = s.line.listenOnly := by
  have hitems : min s.comp.items.length 15 ≤ 15 := Nat.min_le_right ..
  have hstream := bit_lt_two s.tp.stream.isSome
  have hlost := bit_lt_two s.desk.inboundLost
  have hfault := bit_lt_two (anyLinkFlag s.line.flags)
  have hlisten := bit_lt_two s.line.listenOnly
  unfold flagByte
  generalize min s.comp.items.length 15 = items at hitems ⊢
  refine ⟨?_, getLsbD_ofNat_eq (by decide) ?_, getLsbD_ofNat_eq (by decide) ?_, getLsbD_ofNat_eq (by decide) ?_,
    getLsbD_ofNat_eq (by decide) ?_⟩
  · rw [BitVec.toNat_ofNat]
    omega
  all_goals omega

/-- CAUSE READ is answered by 0 to 7 (R196). -/
theorem causeReply_le : causeReply s ≤ 7 := by
  rcases causeReply_cases s with ⟨hnone, -⟩ | ⟨-, hle, -⟩
  · omega
  · exact hle

end StatusReads

end Sys2Proof.Machine

namespace Sys2Proof.Proofs

open Machine

/-- Settles O10: the frame by `statusFrame_eq`, each byte by the fields that its number is made of. -/
theorem statusReadReportsAndClears : Obligations.StatusReadReportsAndClears := by
  intro n s hlen
  obtain ⟨hphase, hclear, hform, hkeyboard, hsend⟩ := stateByte_fields s
  obtain ⟨hcount, hfive, hsix, hlost⟩ := queueByte_fields hlen
  refine ⟨stateByte s, outcomeByte s, queueByte s, flagByte s, ?_, hphase, hclear, hform, hkeyboard, hsend,
    toNat_outcomeByte s, hcount, hfive, hsix, hlost, ?_⟩
  · rw [exec_statusRead, statusFrame_eq, statusBytes_eq]
    rfl
  · obtain ⟨hitems, hstream, hinbound, hfault, hlisten⟩ := flagByte_fields s
    refine ⟨hitems, hstream, hinbound, hfault, hlisten, fun hp => ?_⟩
    refine ⟨_, causeReply s, execCauseRead_ready hp 1, causeReply_le s, ?_⟩
    rw [settle_tp, causeFrame_eq]
    rfl

end Sys2Proof.Proofs

/-! ## What every command keeps of the memories and tables

Part by part, so that an operation speaks only of the parts that it changes. The queue of waiting commands stands with
them: no command reaches it. -/
namespace Sys2Proof.Machine

section Canonical

/-- The queue of waiting commands stands, and every memory and table that is canonical in `s` is so in `t`. -/
structure CanonicalKeeps (s t : State) : Prop where
  pending : t.pending = s.pending := by simp
  image : cellWf blankCell s.comp.image = true → cellWf blankCell t.comp.image = true := by simp
  screenPlane : cellWf blank s.form.screenPlane = true → cellWf blank t.form.screenPlane = true := by simp
  linePlane : cellWf blank s.form.linePlane = true → cellWf blank t.form.linePlane = true := by simp
  table : assocWf s.desk.table = true → assocWf t.desk.table = true := by simp
  active : assocWf s.desk.active = true → assocWf t.desk.active = true := by simp
  tallies : assocWf s.desk.tallies = true → assocWf t.desk.tallies = true := by simp
  paused : assocWf s.desk.paused = true → assocWf t.desk.paused = true := by simp

variable {s t u : State}

theorem CanonicalKeeps.refl (s : State) : CanonicalKeeps s s := {}

theorem CanonicalKeeps.trans (h : CanonicalKeeps s t) (g : CanonicalKeeps t u) : CanonicalKeeps s u where
  pending := g.pending.trans h.pending
  image := g.image ∘ h.image
  screenPlane := g.screenPlane ∘ h.screenPlane
  linePlane := g.linePlane ∘ h.linePlane
  table := g.table ∘ h.table
  active := g.active ∘ h.active
  tallies := g.tallies ∘ h.tallies
  paused := g.paused ∘ h.paused

theorem CanonicalKeeps.memoriesSound (h : CanonicalKeeps s t) (hs : MemoriesSound s) : MemoriesSound t where
  image := h.image hs.image
  screenPlane := h.screenPlane hs.screenPlane
  linePlane := h.linePlane hs.linePlane
  table := h.table hs.table
  active := h.active hs.active
  tallies := h.tallies hs.tallies
  paused := h.paused hs.paused

/-! ### Changes of other blocks -/

theorem canonical_tp (p : TpPort) (s : State) : CanonicalKeeps s { s with tp := p } := {}

theorem canonical_line (m : DeskLineUnit) (s : State) : CanonicalKeeps s { s with line := m } := {}

theorem canonical_tp_line (p : TpPort) (m : DeskLineUnit) (s : State) : CanonicalKeeps s { s with tp := p, line := m } := {}

theorem canonical_send (a : SendAssembler) (s : State) : CanonicalKeeps s { s with send := a } := {}

theorem canonical_settle (s : State) : CanonicalKeeps s (settle s) := {}

theorem KeyFrame.pending_eq (h : KeyFrame s t) : t.pending = s.pending := (congrArg State.pending h.eq :)

theorem KeyFrame.canonical (h : KeyFrame s t) : CanonicalKeeps s t where
  pending := h.pending_eq
  image := h.comp.image
  screenPlane := by rw [h.form_eq]; exact id
  linePlane := by rw [h.form_eq]; exact id
  table := by rw [h.desk_eq]; exact id
  active := h.active
  tallies := h.tallies
  paused := by rw [h.desk_eq]; exact id

/-! ### Outcomes -/

/-- The outcome is a next state, which has the queue of `s` and keeps what is canonical. -/
def Answers (s : State) (o : Out) : Prop := ∃ t, o = .next t ∧ CanonicalKeeps s t

theorem CanonicalKeeps.next (h : CanonicalKeeps s t) : Answers s (.next t) := ⟨t, rfl, h⟩

theorem CanonicalKeeps.ok (h : CanonicalKeeps s t) : Answers s (ok t) := (h.trans (canonical_settle t)).next

theorem answers_noEvent (s : State) : Answers s (noEvent s) := (CanonicalKeeps.refl s).next

/-- A row that is taken or is none of its state's events. -/
theorem answers_ite {p : Prop} [Decidable p] (h : CanonicalKeeps s u) : Answers s (if p then ok u else noEvent s) :=
  iteInduction (fun _ => h.ok) (fun _ => answers_noEvent s)

end Canonical

end Sys2Proof.Machine

/-! ## Key rows and orders answer, and keep the memories -/
namespace Sys2Proof.Machine

section CanonicalKeys

theorem canonical_setKeyboard (k : Keyboard) (s : State) : CanonicalKeeps s (setKeyboard k s) := {}

theorem canonical_beginAssembly (code : Byte) (s : State) : CanonicalKeeps s (beginAssembly code s) :=
  (canonical_send _ s).trans (canonical_setKeyboard .locked _)

theorem canonical_sendChecked (s : State) : CanonicalKeeps s (sendChecked s) := by
  rcases sendChecked_cases s with h | h
  · exact h.canonical
  · exact h ▸ canonical_beginAssembly sendCode s

theorem canonical_afterCompletion {f : State → State} (hf : ∀ t, CanonicalKeeps t (f t)) (s : State) :
    CanonicalKeeps s (afterCompletion f s) := by
  rcases afterCompletion_cases f s with ⟨x, -, h⟩ | ⟨t, ht, h⟩ <;> rw [h]
  · exact (raiseError_frame x s).canonical
  · exact (complete_frame ht).canonical.trans (hf t)

theorem canonical_keyAct (k : Key) (b : Byte) (s : State) : CanonicalKeeps s (keyAct k b s) := by
  cases k
  case data => exact (dataKey_frame b s).canonical
  case backspace => exact (backspaceKey_frame s).canonical
  case delete => exact (deleteKey_frame s).canonical
  case insert => exact (insertKey_frame s).canonical
  case clearToEnd => exact (clearToEndKey_frame s).canonical
  case clearAll => exact (clearAllKey_frame s).canonical
  case repeatAbove => exact (repeatAboveKey_frame s).canonical
  case lineInsert => exact (lineKey_frame insertLine_frame s).canonical
  case lineDelete => exact (lineKey_frame deleteLine_frame s).canonical
  case send => exact canonical_afterCompletion canonical_sendChecked s
  case signal => exact (abandonEdit_frame s).canonical.trans (canonical_beginAssembly b _)
  case reset => exact .refl s
  all_goals
    dsimp only [keyAct, moveOf]
    exact (doMove_frame _ s).canonical

theorem canonical_setQueue (q : List Byte) (s : State) : CanonicalKeeps s (setQueue q s) := {}

theorem answers_takeKey {k : Key} {act : Byte → State → State} (ha : ∀ b u, CanonicalKeeps u (act b u)) (s : State) :
    Answers s (takeKey k act s) := by
  unfold takeKey
  split
  · exact answers_noEvent s
  · next b q _ =>
    refine iteInduction (fun _ => iteInduction (fun _ => ?_) fun _ => ?_) fun _ => answers_noEvent s
    · exact ((canonical_setQueue q s).trans (discardKey_frame _).canonical).ok
    · exact ((canonical_setQueue q s).trans (ha b _)).ok

theorem answers_execReset (s : State) : Answers s (execReset s) := by
  unfold execReset
  split
  · exact answers_noEvent s
  · next b q _ =>
    refine iteInduction (fun _ => iteInduction (fun _ => ?_) fun _ => ?_) fun _ => answers_noEvent s
    · exact ((canonical_setQueue q s).trans (clearError_frame _).canonical).ok
    · exact (canonical_setQueue q s).ok

theorem answers_keyRow {i : Instr} (hi : keyRowOf i ≠ none) (s : State) : Answers s (exec i s) := by
  obtain ⟨k, hk⟩ := Option.ne_none_iff_exists'.1 hi
  by_cases hreset : k = .reset
  · obtain rfl := eq_reset_of_keyRowOf (hreset ▸ hk)
    exact answers_execReset s
  · rw [exec_keyRow hk hreset]
    exact answers_takeKey (canonical_keyAct k) s

end CanonicalKeys

section CanonicalOrders

variable {s u : State}

/-! ### Frames of orders -/

/-- An order's rule keeps the queue of waiting commands and what is canonical. -/
def KeepsCanonical (body : State → Verdict) : Prop := ∀ s u, body s = .ok u → CanonicalKeeps s u

theorem canonical_closeFrame (sdo : List Byte) (s : State) : CanonicalKeeps s (closeFrame sdo s) := canonical_tp _ s

theorem canonical_record (o : OrderOutcome) (s : State) : CanonicalKeeps s (record o s) := canonical_tp _ s

theorem canonical_framed (sdo : List Byte) (s : State) : CanonicalKeeps s (endStream (closeFrame sdo s)) :=
  canonical_tp _ s

theorem KeepsCanonical.runOrder {body : State → Verdict} (hb : KeepsCanonical body) (n : Nat) (s : State) :
    Answers s (runOrder n body s) := by
  have hframed := canonical_framed (zeros (1 + n)) s
  refine iteInduction (fun _ => (hframed.trans (canonical_record ..)).next) fun _ => ?_
  split
  · exact (hframed.trans (canonical_record ..)).next
  · next hu => exact (hframed.trans ((hb _ _ hu).trans (canonical_record ..))).ok

theorem KeepsCanonical.runStreamOrder {body : State → Verdict} (hb : KeepsCanonical body) (n : Nat) (s : State) :
    Answers s (runStreamOrder n body s) := by
  have hclosed := canonical_closeFrame (zeros (1 + n)) s
  refine iteInduction (fun _ => (hclosed.trans (canonical_record ..)).next) fun _ => ?_
  split
  · exact (hclosed.trans (canonical_record ..)).next
  · next hu => exact (hclosed.trans ((hb _ _ hu).trans (canonical_record ..))).ok

theorem answers_runRead {after : State → State} (ha : ∀ s, CanonicalKeeps s (after s)) (k n : Nat)
    (reply : State → Except OrderOutcome (List Byte)) (s : State) : Answers s (runRead k n reply after s) := by
  have hframed : ∀ sdo, CanonicalKeeps s (endStream (closeFrame sdo s)) := fun sdo => canonical_framed sdo s
  refine iteInduction (fun _ => ((hframed _).trans (canonical_record ..)).next) fun _ => ?_
  split
  · exact ((hframed _).trans (canonical_record ..)).next
  · exact ((hframed _).trans ((ha _).trans (canonical_record ..))).ok

/-! ### The rules that define a form (2.2 to 2.4) -/

/-- FORM BEGIN empties both planes, the image and the active-tag set (R23, R24). -/
theorem canonical_openForm (h w d : Nat) (s : State) : CanonicalKeeps s (openForm h w d s) := by
  have htags := (placeAll_frame .retract (activeTags s.desk) s).canonical
  exact {
    pending := htags.pending
    image := fun _ => by rw [Proofs.openForm_comp]; rfl
    screenPlane := fun _ => rfl
    linePlane := fun _ => rfl
    table := htags.table
    active := fun _ => rfl
    tallies := htags.tallies
    paused := htags.paused }

theorem keepsCanonical_formBegin (h w d : Nat) : KeepsCanonical (formBeginBody h w d) := by
  intro s u hu
  unfold formBeginBody at hu
  split at hu <;> cases hu
  exact canonical_openForm h w d s

/-- A form with other records has the planes it had. -/
theorem canonical_records (fields : List FieldDef) (cols : List ColumnDef) (s : State) :
    CanonicalKeeps s { s with form := { s.form with fields := fields, cols := cols } } := {}

theorem keepsCanonical_fieldDefine (r : Option FieldDef) : KeepsCanonical (fieldDefineBody r) := by
  intro s u h
  unfold fieldDefineBody at h
  repeat' split at h
  all_goals cases h
  exact canonical_records _ s.form.cols s

theorem keepsCanonical_fieldDrop (n : Nat) : KeepsCanonical (fieldDropBody n) := by
  intro s u h
  unfold fieldDropBody at h
  repeat' split at h
  all_goals cases h
  exact canonical_records _ s.form.cols s

theorem keepsCanonical_columnDefine (r : Option ColumnDef) : KeepsCanonical (columnDefineBody r) := by
  intro s u h
  unfold columnDefineBody at h
  repeat' split at h
  all_goals cases h
  exact canonical_records s.form.fields _ s

theorem keepsCanonical_columnDrop (n : Nat) : KeepsCanonical (columnDropBody n) := by
  intro s u h
  unfold columnDropBody at h
  repeat' split at h
  all_goals cases h
  exact canonical_records s.form.fields _ s

/-- A LABEL WRITE writes the cells of one plane, blanks too (R30). -/
theorem canonical_labelled (a : LabelArgs) (t : Text) (s : State) :
    CanonicalKeeps s { s with form := labelled a t s.form } := by
  unfold labelled
  split
  · exact { linePlane := cellWf_writeLabel }
  · exact { screenPlane := cellWf_writeLabel }

theorem keepsCanonical_labelWrite (a : Option LabelArgs) (data : List Byte) : KeepsCanonical (labelWriteBody a data) := by
  intro s u h
  unfold labelWriteBody at h
  repeat' split at h
  all_goals cases h
  exact (canonical_labelled _ _ s).trans (requestAll_frame ..).canonical

theorem assocWf_zeroShares (ts : List Nat) : assocWf (zeroShares ts) = true := by
  induction ts with
  | nil => rfl
  | cons t ts ih => exact assocWf_put ih t (.value 0)

/-- FORM END begins a new active-tag set, in which each tag is put in its place (R24). -/
theorem canonical_activeState (s : State) : CanonicalKeeps s (activeState s) :=
  have hnew : CanonicalKeeps s (newState s) :=
    ⟨rfl, id, id, id, id, fun _ => assocWf_zeroShares (deskTags s.form), id, id⟩
  hnew.trans (recompute_frame ..).canonical

theorem canonical_activate (s : State) : CanonicalKeeps s (activate s) := by
  have htags := (canonical_activeState s).trans (placeAll_frame .tally (deskTags s.form) (activeState s)).canonical
  rw [activate_eq]
  refine CanonicalKeeps.trans ?_ (requestAll_frame ..).canonical
  exact htags.trans {}

theorem keepsCanonical_formEnd : KeepsCanonical formEndBody := by
  intro s u h
  unfold formEndBody at h
  repeat' split at h
  all_goals cases h
  exact canonical_activate s

/-! ### The rules of content orders (2.6 to 2.10) -/

theorem canonical_writeInst {i : Inst} {sh : Shape} {a : WriteArgs} {data : List Byte}
    (h : writeInst i sh a data s = .ok u) : CanonicalKeeps s u := by
  unfold writeInst at h
  repeat' split at h
  all_goals cases h
  exact (storeSystem_frame ..).canonical

theorem keepsCanonical_fieldWrite (n : Nat) (a : Option WriteArgs) (data : List Byte) :
    KeepsCanonical (fieldWriteBody n a data) := by
  intro s u h
  unfold fieldWriteBody at h
  split at h
  · cases h
  · split at h
    · split at h
      · cases h
      · exact canonical_writeInst h
    · cases h

theorem keepsCanonical_cellWrite (l c : Nat) (a : Option WriteArgs) (data : List Byte) :
    KeepsCanonical (cellWriteBody l c a data) := by
  intro s u h
  unfold cellWriteBody at h
  split at h
  · cases h
  · split at h
    · cases h
    · split at h
      · split at h
        · cases h
        · exact canonical_writeInst h
      · cases h

theorem keepsCanonical_streamBegin (n : Nat) : KeepsCanonical (streamBeginBody n) := by
  intro s u h
  unfold streamBeginBody at h
  repeat' split at h
  all_goals cases h
  exact canonical_tp _ s

theorem keepsCanonical_streamNext (f : Option Format) (data : List Byte) : KeepsCanonical (streamNextBody f data) := by
  intro s u h
  unfold streamNextBody at h
  split at h
  · cases h
  · split at h
    · cases h
    · split at h
      · split at h
        · next t ht =>
          cases h
          exact (canonical_writeInst ht).trans (canonical_tp _ t)
        · cases h
      · cases h

theorem keepsCanonical_entriesClear : KeepsCanonical entriesClearBody := by
  intro s u h
  unfold entriesClearBody at h
  split at h <;> cases h
  exact (clearEntries_frame ..).canonical

theorem keepsCanonical_cursorSet (form a b : Byte) : KeepsCanonical (cursorSetBody form a b) := by
  intro s u h
  unfold cursorSetBody at h
  repeat' split at h
  all_goals cases h
  exact (abandonAndPlace_frame ..).canonical

theorem keepsCanonical_windowSet (n : Nat) : KeepsCanonical (windowSetBody n) := by
  intro s u h
  unfold windowSetBody at h
  split at h <;> cases h
  exact (abandonAndPlace_frame ..).canonical

/-! ### The rules of sends, messages and the line -/

theorem canonical_dropSend (s : State) : CanonicalKeeps s (dropSend s) := canonical_send _ s

theorem keepsCanonical_release (opts : Byte) : KeepsCanonical (releaseBody opts) := by
  intro s u h
  unfold releaseBody at h
  repeat' split at h
  all_goals cases h
  exact (canonical_dropSend s).trans (releaseSend_frame ..).canonical

theorem keepsCanonical_reject (code form a b : Byte) (message : List Byte) :
    KeepsCanonical (rejectBody code form a b message) := by
  intro s u h
  unfold rejectBody at h
  repeat' split at h
  all_goals cases h
  exact (canonical_dropSend s).trans (rejectSend_frame ..).canonical

theorem canonical_queueMessage (m : OutMsg) (s : State) : CanonicalKeeps s (queueMessage m s) := {}

theorem canonical_setBanner (t : Text) (s : State) : CanonicalKeeps s (setBanner t s) := {}

theorem keepsCanonical_passSend (dest : Byte) (f : Option Format) (data : List Byte) :
    KeepsCanonical (passSendBody dest f data) := by
  intro s u h
  unfold passSendBody at h
  repeat' split at h
  all_goals cases h
  exact canonical_queueMessage _ s

theorem keepsCanonical_bannerSend (f : Option Format) (data : List Byte) : KeepsCanonical (bannerSendBody f data) := by
  intro s u h
  unfold bannerSendBody at h
  repeat' split at h
  all_goals cases h
  exact (canonical_queueMessage _ s).trans (canonical_setBanner _ _)

theorem keepsCanonical_loopback (on : Bool) : KeepsCanonical (loopbackBody on) := by
  intro s u h
  unfold loopbackBody at h
  repeat' split at h
  all_goals cases h
  all_goals exact canonical_line _ s

theorem keepsCanonical_causeEnable (set : Byte) : KeepsCanonical (fun s =>
    .ok { s with tp := { s.tp with enable := set &&& 0x7F } }) := by
  intro s u h
  cases h
  exact canonical_tp _ s

theorem keepsCanonical_displaySet (opts : Byte) : KeepsCanonical (fun s =>
    .ok { s with comp := { s.comp with displayOn := opts.getLsbD 0, cursorBlink := opts.getLsbD 1 } }) := by
  intro s u h
  cases h
  exact {}

theorem canonical_removeInbound (s : State) : CanonicalKeeps s (removeInbound s) := {}

theorem canonical_clearLink (sel : Byte) (s : State) : CanonicalKeeps s (clearLink sel s) := {}

theorem canonical_offerKeys (codes : List Byte) (s : State) : CanonicalKeeps s (offerKeys codes s) := {}

theorem keepsCanonical_key (codes : List Byte) : KeepsCanonical (fun s => .ok (offerKeys codes s)) := by
  intro s u h
  cases h
  exact canonical_offerKeys codes s

theorem canonical_advanceRead (n : Nat) (s : State) : CanonicalKeeps s (advanceRead n s) := {}

theorem canonical_statusFrame (n : Nat) (s : State) : CanonicalKeeps s (statusFrame n s) := {}

theorem canonical_causeFrame (n : Nat) (s : State) : CanonicalKeeps s (causeFrame n s) := {}

/-! ### Every order -/

/-- A reset empties every memory and table and leaves the queue of waiting commands, which is outside the device. -/
theorem canonical_resetTo (station : Station) (rate : Rate) (listenOnly : Bool) (tp : TpPort) (s : State) :
    CanonicalKeeps s (resetTo station rate listenOnly tp s) where
  pending := rfl
  image _ := rfl
  screenPlane _ := rfl
  linePlane _ := rfl
  table _ := rfl
  active _ := rfl
  tallies _ := rfl
  paused _ := rfl

theorem answers_softReset (n : Nat) (s : State) : Answers s (execSoftReset s n) := by
  have hrefused : KeepsCanonical fun _ => .error .refusedState := fun _ _ => nofun
  refine iteInduction (fun _ => hrefused.runOrder n s) fun _ => ?_
  exact ((canonical_resetTo ..).trans (canonical_closeFrame ..)).next

theorem answers_order {i : Instr} (hi : frameOf i ≠ none) (s : State) : Answers s (exec i s) := by
  cases i
  case statusRead n => exact (canonical_statusFrame n s).ok
  case causeRead n =>
    exact iteInduction (fun _ => (canonical_closeFrame _ s).next) fun _ => (canonical_causeFrame n s).ok
  case causeEnable set _ => exact (keepsCanonical_causeEnable set).runOrder _ s
  case displaySet opts _ => exact (keepsCanonical_displaySet opts).runOrder _ s
  case loopbackSet => exact (keepsCanonical_loopback _).runOrder _ s
  case softReset n => exact answers_softReset n s
  case formBegin => exact (keepsCanonical_formBegin _ _ _).runOrder _ s
  case fieldDefine => exact (keepsCanonical_fieldDefine _).runOrder _ s
  case fieldDrop => exact (keepsCanonical_fieldDrop _).runOrder _ s
  case columnDefine => exact (keepsCanonical_columnDefine _).runOrder _ s
  case columnDrop => exact (keepsCanonical_columnDrop _).runOrder _ s
  case labelWrite => exact (keepsCanonical_labelWrite _ _).runOrder _ s
  case formEnd => exact keepsCanonical_formEnd.runOrder _ s
  case fieldWrite => exact (keepsCanonical_fieldWrite _ _ _).runOrder _ s
  case cellWrite => exact (keepsCanonical_cellWrite _ _ _ _).runOrder _ s
  case streamBegin => exact (keepsCanonical_streamBegin _).runOrder _ s
  case streamNext => exact (keepsCanonical_streamNext _ _).runStreamOrder _ s
  case fieldRead f n => exact show Answers s (execFieldRead f n s) from answers_runRead .refl _ _ _ s
  case cellRead l c n => exact show Answers s (execCellRead l c n s) from answers_runRead .refl _ _ _ s
  case entriesClear => exact keepsCanonical_entriesClear.runOrder _ s
  case cursorSet => exact (keepsCanonical_cursorSet _ _ _).runOrder _ s
  case cursorRead n => exact show Answers s (execCursorRead n s) from answers_runRead .refl _ _ _ s
  case windowSet => exact (keepsCanonical_windowSet _).runOrder _ s
  case key codes => exact (keepsCanonical_key codes).runOrder _ s
  case blockRead n => exact answers_runRead (canonical_advanceRead n) _ _ _ s
  case release => exact (keepsCanonical_release _).runOrder _ s
  case reject => exact (keepsCanonical_reject _ _ _ _ _).runOrder _ s
  case passSend => exact (keepsCanonical_passSend _ _ _).runOrder _ s
  case bannerSend => exact (keepsCanonical_bannerSend _ _).runOrder _ s
  case passRead n => exact show Answers s (execPassRead n s) from answers_runRead canonical_removeInbound _ _ _ s
  case deskReadLinkStatus n => exact show Answers s (deskRead 0 n s) from answers_runRead (canonical_clearLink 0) _ _ _ s
  case deskReadTagReport sel _ => exact answers_runRead (canonical_clearLink sel) _ _ _ s
  all_goals exact absurd rfl hi

end CanonicalOrders

end Sys2Proof.Machine

/-! ## Events answer and keep the memories, and so does every step -/
namespace Sys2Proof.Machine

section CanonicalEvents

variable {s t : State}

/-! ### The line (R141 to R155) -/

theorem answers_frameAssemblerCharacter (s : State) : Answers s (execFrameAssemblerCharacter s) := by
  unfold execFrameAssemblerCharacter
  split
  · exact (canonical_line _ s).ok
  · exact answers_noEvent s

/-- A place emptied takes at most its own announcement out of the tally set (R172). -/
theorem canonical_emptyPlace (p : Place) (s : State) : CanonicalKeeps s { s with desk := emptyPlace s.desk p } := by
  cases p with
  | tag t => exact ⟨rfl, id, id, id, id, id, fun h => assocWf_del h t, id⟩
  | _ => exact ⟨rfl, id, id, id, id, id, id, id⟩

theorem canonical_retire (s : State) : CanonicalKeeps s (retire s) := by
  unfold retire
  split
  · exact .refl s
  · next p _ =>
    have hplace : CanonicalKeeps s { s with desk := if s.line.taken then emptyPlace s.desk p else s.desk } := by
      split
      · exact canonical_emptyPlace p s
      · exact .refl s
    have hend := hplace.trans (canonical_line { s.line with selection := none, taken := false, frame := none } _)
    exact iteInduction (fun _ => hend.trans (canonical_tp ..)) (fun _ => hend)

theorem canonical_enterYield (s : State) : CanonicalKeeps s (enterYield s) :=
  (canonical_retire s).trans (canonical_line ..)

theorem canonical_dropFrame (s : State) : CanonicalKeeps s (dropFrame s) :=
  (canonical_line _ s).trans (canonical_enterYield _)

theorem answers_accessGapReached (s : State) : Answers s (execAccessGapReached s) := by
  refine iteInduction (fun _ => ?_) fun _ => answers_noEvent s
  split
  · exact (canonical_line _ s).ok
  · exact answers_noEvent s

theorem answers_collision (s : State) : Answers s (execCollision s) := by
  refine iteInduction (fun _ => ?_) fun _ => answers_noEvent s
  exact iteInduction (fun _ => (canonical_line _ s).ok) fun _ => (canonical_dropFrame s).ok

/-! ### The contribution table and the paused-station set (9.1 to 9.3, 9.7) -/

theorem canonical_retable {g : List (Nat × Entry) → List (Nat × Entry)} (hg : ∀ m, assocWf m = true → assocWf (g m) = true)
    (s : State) : CanonicalKeeps s (retable g s) where
  table := by simpa [retable] using hg s.desk.table

theorem canonical_dropSource (src : Nat) (s : State) : CanonicalKeeps s (retable (dropSource src) s) :=
  canonical_retable (fun _ h => assocWf_filter h _) s

theorem canonical_dropEntry (k : Nat) (s : State) : CanonicalKeeps s (retable (fun m => assocDel m k) s) :=
  canonical_retable (fun _ h => assocWf_del h k) s

theorem assocWf_ageTable {m : List (Nat × Entry)} (h : assocWf m = true) : assocWf (ageTable m) = true :=
  assocWf_filter (assocWf_map h _) _

theorem assocWf_tickHolds {m : List (Nat × Nat)} (h : assocWf m = true) : assocWf (tickHolds m) = true :=
  assocWf_filter (assocWf_map h _) _

theorem canonical_paused {m : List (Nat × Nat)} (hm : assocWf s.desk.paused = true → assocWf m = true) :
    CanonicalKeeps s { s with desk := { s.desk with paused := m } } where
  paused := hm

theorem canonical_unpause (src : Nat) (s : State) : CanonicalKeeps s (unpause src s) :=
  canonical_paused fun h => assocWf_del h src

/-! ### Received frames (R160) -/

theorem answers_applyFrame {k : FrameKind} {effect : Frame → State → State} (he : ∀ f u, CanonicalKeeps u (effect f u))
    (s : State) : Answers s (applyFrame k effect s) := by
  unfold applyFrame
  split
  · exact ((canonical_line _ s).trans (he _ (clearHandoff s))).ok
  · exact answers_noEvent s

theorem canonical_greetEffect (f : Frame) (s : State) : CanonicalKeeps s (greetEffect f s) :=
  (canonical_unpause _ s).trans ((placeAll_frame ..).canonical.trans (canonical_dropSource ..))

theorem canonical_setLength (s : State) : CanonicalKeeps s (setLength s) := canonical_line _ s

theorem canonical_tallyEffect (f : Frame) (s : State) : CanonicalKeeps s (tallyEffect f s) := by
  unfold tallyEffect
  split
  · exact canonical_retable (fun _ h => assocWf_put h _ _) s
  · exact canonical_setLength s

theorem canonical_retractEffect (f : Frame) (s : State) : CanonicalKeeps s (retractEffect f s) := by
  unfold retractEffect
  dsimp only
  split
  · exact canonical_setLength s
  · split
    · exact canonical_dropSource ..
    · exact canonical_dropEntry ..

theorem canonical_deliver (m : InMsg) (s : State) : CanonicalKeeps s (deliver m s) := {}

theorem canonical_pauseEffect (f : Frame) (s : State) : CanonicalKeeps s (pauseEffect f s) :=
  canonical_paused fun h => assocWf_put h _ _

/-! ### Desk ticks (R165, R168, R175 to R177) -/

theorem canonical_refreshAll (s : State) : CanonicalKeeps s (refreshAll s) :=
  CanonicalKeeps.trans (t := { s with desk := { s.desk with refresh := 0 } }) {} (placeAll_frame ..).canonical

theorem canonical_tickRefresh (s : State) : CanonicalKeeps s (tickRefresh s) := by
  unfold tickRefresh
  split
  · exact {}
  · exact canonical_refreshAll s

theorem canonical_tickPause (s : State) : CanonicalKeeps s (tickPause s) := {}

theorem canonical_dropBanner (s : State) : CanonicalKeeps s (dropBanner s) := {}

theorem canonical_tickBanner (s : State) : CanonicalKeeps s (tickBanner s) := {}

theorem canonical_tick (s : State) : CanonicalKeeps s (tick s) := by
  refine (canonical_retable (fun _ => assocWf_ageTable) s).trans ((canonical_tickRefresh _).trans
    ((canonical_tickPause _).trans ?_))
  exact (canonical_paused assocWf_tickHolds).trans (canonical_tickBanner _)

/-! ### Renders and the assembly -/

/-- A render writes cells of the image, or blanks rows by taking their cells out (R110, R112). -/
theorem canonical_render (i : Item) (s : State) : CanonicalKeeps s (render i s) := by
  cases i with
  | clear => exact { image := fun h => cellWf_filter h _ }
  | labels => exact { image := cellWf_writeCells }
  | field n => exact (drawInst_frame _ s).canonical
  | bodyRow r =>
    unfold render
    dsimp only
    split
    · exact (drawRun_frame ..).canonical
    · exact .refl s
  | status => exact (drawRun_frame ..).canonical

theorem canonical_popItem (s : State) : CanonicalKeeps s { s with comp := popItem s.comp } where
  image := by unfold popItem; split <;> exact id

theorem answers_renderComplete (s : State) : Answers s (execRenderComplete s) := by
  unfold execRenderComplete
  split
  · next i _ _ _ => exact ((canonical_render i s).trans (canonical_popItem _)).ok
  · exact answers_noEvent s

theorem answers_assemblyComplete (s : State) : Answers s (execAssemblyComplete s) := by
  unfold execAssemblyComplete
  split
  · refine iteInduction (fun _ => ?_) fun _ => ?_
    · exact ((canonical_dropSend s).trans (raiseError_frame ..).canonical).ok
    · exact (canonical_send _ s).ok
  · exact answers_noEvent s

/-! ### Start-up and frames closed early -/

theorem canonical_startUp (s : State) : CanonicalKeeps s (startUp s) :=
  (canonical_tp_line _ _ s).trans (request_frame .status _).canonical

theorem canonical_beginClearing (stn : Station) (rate : Rate) (s : State) : CanonicalKeeps s (beginClearing stn rate s) :=
  canonical_tp_line _ _ s

theorem answers_resetnReleased (stn : Station) (rate : Rate) (s : State) : Answers s (execResetnReleased stn rate s) := by
  refine iteInduction (fun _ => CanonicalKeeps.next ?_) fun _ => answers_noEvent s
  exact iteInduction (fun _ => (canonical_tp _ s).trans (canonical_beginClearing ..)) fun _ => canonical_tp _ s

theorem answers_supplySteady (stn : Station) (rate : Rate) (s : State) : Answers s (execSupplySteady stn rate s) := by
  refine iteInduction (fun _ => CanonicalKeeps.next ?_) fun _ => answers_noEvent s
  exact iteInduction (fun _ => canonical_tp _ s) fun _ => (canonical_tp _ s).trans (canonical_beginClearing ..)

theorem canonical_openEffect (code : Byte) (rest : List Byte) (s : State) : CanonicalKeeps s (openEffect code rest s) := by
  unfold openEffect
  split
  · split
    · exact canonical_offerKeys ..
    · exact iteInduction (fun _ => canonical_advanceRead ..) fun _ => .refl s
    · exact canonical_clearLink ..
    · exact .refl s
  · exact .refl s

theorem canonical_openStream (code : Byte) (s : State) : CanonicalKeeps s (openStream code s) :=
  iteInduction (fun _ => .refl s) fun _ => canonical_tp _ s

theorem canonical_abandonOrder (code : Byte) (k : Nat) (rest : List Byte) (s : State) :
    CanonicalKeeps s (abandonOrder code k rest s) :=
  (canonical_openEffect code rest s).trans ((canonical_closeFrame ..).trans
    ((canonical_openStream code _).trans (canonical_record ..)))

theorem canonical_abandonKnown (code : Byte) (k : Nat) (rest : List Byte) (s : State) :
    CanonicalKeeps s (abandonKnown code k rest s) := by
  unfold abandonKnown
  repeat' split
  · exact canonical_statusFrame ..
  · exact canonical_causeFrame ..
  · exact canonical_closeFrame ..
  · exact canonical_abandonOrder ..

theorem answers_frameAbandoned (bytes : List Byte) (part : Bool) (s : State) :
    Answers s (execFrameAbandoned bytes part s) := by
  cases bytes with
  | nil => exact CanonicalKeeps.ok (iteInduction (fun _ => canonical_tp _ s) fun _ => canonical_tp _ s)
  | cons code rest =>
    unfold execFrameAbandoned
    dsimp only
    split
    · exact (canonical_tp _ s).ok
    · exact answers_ite (canonical_abandonKnown ..)

/-! ### Every command -/

theorem answers_event {i : Instr} (hf : frameOf i = none) (hk : keyRowOf i = none) (s : State) : Answers s (exec i s) := by
  cases i
  case powerOn => exact (canonical_resetTo ..).next
  case resetnAsserted => exact (canonical_resetTo ..).next
  case frameOpen => exact answers_ite (canonical_tp _ s)
  case frameAbandoned => exact answers_frameAbandoned ..
  case unknownOrderCode => exact answers_ite (canonical_tp _ s)
  case assemblyComplete => exact answers_assemblyComplete s
  case renderComplete => exact answers_renderComplete s
  case alarmTimerExpiry => exact answers_ite {}
  case resetnReleased => exact answers_resetnReleased ..
  case supplySteady => exact answers_supplySteady ..
  case startUpComplete => exact answers_ite (canonical_startUp s)
  case characterReceived => exact answers_ite (canonical_line _ s)
  case breakDetected => exact answers_ite (canonical_line _ s)
  case lineHighAfterBreak => exact answers_ite (canonical_line _ s)
  case receiveListenComplete => exact answers_ite (canonical_line _ s)
  case startBit => exact answers_ite (canonical_line _ s)
  case gapTimerExpiry => exact answers_ite (canonical_line _ s)
  case frameAssemblerCharacter => exact answers_frameAssemblerCharacter s
  case greet => exact answers_applyFrame canonical_greetEffect s
  case tally => exact answers_applyFrame canonical_tallyEffect s
  case retract => exact answers_applyFrame canonical_retractEffect s
  case banner => exact answers_applyFrame (fun _ => canonical_setBanner _) s
  case pass => exact answers_applyFrame (fun _ => canonical_deliver _) s
  case pause => exact answers_applyFrame canonical_pauseEffect s
  case resume => exact answers_applyFrame (fun f => canonical_unpause (sourceOf f)) s
  case joinListenComplete => exact answers_ite (canonical_line _ s)
  case accessGapReached => exact answers_accessGapReached s
  case frameSent => exact answers_ite (canonical_enterYield s)
  case collision => exact answers_collision s
  case backoffComplete => exact answers_ite (canonical_line _ s)
  case yieldComplete => exact answers_ite {}
  case deskTick => exact answers_ite (canonical_tick s)
  case contributionAgeOut => exact answers_ite (canonical_dropEntry ..)
  case refresh => exact answers_ite (canonical_refreshAll s)
  case holdTimerExpiry => exact answers_ite (canonical_unpause ..)
  case bannerExpiry => exact answers_ite (canonical_dropBanner s)
  all_goals simp [frameOf, keyRowOf] at hf hk

theorem answers_exec (i : Instr) (s : State) : Answers s (exec i s) := by
  by_cases hf : frameOf i = none
  · by_cases hk : keyRowOf i = none
    · exact answers_event hf hk s
    · exact answers_keyRow hk s
  · exact answers_order hf s

theorem canonical_exec {i : Instr} (h : exec i s = .next t) : CanonicalKeeps s t := by
  obtain ⟨u, hu, hkeeps⟩ := answers_exec i s
  cases h.symm.trans hu
  exact hkeeps

end CanonicalEvents

end Sys2Proof.Machine

namespace Sys2Proof.Proofs

open Machine

/-- Settles O56: a step runs one command on the queue's rest, or idles, and each command keeps every canonical form. -/
theorem memoriesStayCanonical : Obligations.MemoriesStayCanonical := by
  intro s t hs h
  unfold step at h
  split at h
  · cases h
    exact hs
  · next rest _ =>
    have hrest : MemoriesSound { s with pending := rest } :=
      ⟨hs.image, hs.screenPlane, hs.linePlane, hs.table, hs.active, hs.tallies, hs.paused⟩
    exact (canonical_exec h).memoriesSound hrest

/-- Settles O1: by the definition of a step, in each case of the queue. -/
theorem stepRunsFrontCommand : Obligations.StepRunsFrontCommand :=
  ⟨fun _ _ => rfl, fun s h => by unfold step; rw [h]⟩

/-- Settles O2: every arm of the table answers, and no meaning reaches the queue of waiting commands. -/
theorem everyCommandAnswers : Obligations.EveryCommandAnswers := by
  intro i s
  obtain ⟨t, ht, hkeeps⟩ := answers_exec i s
  exact ⟨t, ht, hkeeps.pending⟩

end Sys2Proof.Proofs
